-- ==== Sys2Proof/Word.lean ====
section
/-! DEFINITION. The words of the FE-12: bytes, 16-bit words, host addresses, and the numbers of lines, slots and profiles
(spec/00_scope.md, Conventions). -/

namespace Sys2Proof

/-- A byte as received, sent, stored or carried by an image. -/
abbrev Byte := BitVec 8

/-- "A word is 16 bits" (spec/00_scope.md, Words and bytes): window words, command words, answer words. -/
abbrev Word := BitVec 16

/-- A host address, 0x000000 to 0xFFFFFF (R124, R168). -/
abbrev HostAddr := BitVec 24

/-- Lines L0 to L11. -/
abbrev LineId := Fin 12

/-- Form slots F0 to F23. -/
abbrev SlotId := Fin 24

/-- Terminal profiles P0 to P3. -/
abbrev ProfileId := Fin 4

end Sys2Proof
end

