-- ==== Sys2Proof/Syntax.lean ====
section
/-! DEFINITION. The commands of the block: one constructor per row of spec/opcode_table.json, with what the outside
world brings to that happening as operands. The thirty host commands (LOAD_FORM to QUERY_PART) carry none: their words
stand in the command queue, written there by DATA_WRITE (R182, R186; notes/assumptions/2.md). -/

namespace Sys2Proof

/-- A character on the received stream as the receiver examines it when its last stop bit is due (R157): its data bits,
its parity bit (examined only with parity even or odd) and whether its first stop bit stands at the idle level. -/
structure RxChar where
  data : Byte
  parityBit : Bool
  stopIdle : Bool
  deriving DecidableEq, Repr

/-- The happenings of spec/opcode_table.json, in the table's order. -/
inductive Instr where
  /-- Power is applied (R179). -/
  | powerOnReset
  /-- A word is written at RESET (R179); `answered` is the number of bus cycles of a delivery in progress that had been
  answered when the write came (R176). -/
  | portReset (value : Word) (answered : Nat)
  /-- The self-check ends; the operands say which memories passed (R180). -/
  | selfCheckEnd (valueOk libraryOk profileOk : Bool)
  /-- A word is written at DATA (R182). -/
  | dataWrite (word : Word)
  /-- DATA is read (R177). -/
  | dataRead
  /-- A CONTROL write, for its interrupt enables (R181). -/
  | setInterruptEnables (control : Word)
  /-- A CONTROL write whose state-change clear bit is set (R181). -/
  | clearStateChangeFlag (control : Word)
  /-- A CONTROL write whose OVERFLOW clear bit is set (R181). -/
  | clearOverflow (control : Word)
  /-- The assembly timer runs out (R184). -/
  | assemblyTimerExpiry
  /-- The command unit's claim for an owed result is granted (R184). -/
  | assemblyResultPost
  | loadForm
  | discardForm
  | queryForm
  | setProfile
  | configureLine
  | enableLine
  | disableLine
  | queryLine
  | resetLine
  | openForm
  | closeForm
  | clearEntry
  | holdInput
  | resumeInput
  | readField
  | writeField
  | setFieldStateProtect
  | setFieldStateUnprotect
  | setFieldStateDefined
  | setFieldStateMark
  | setFieldStateUnmark
  | placeCursor
  | showMessage
  | repaint
  | postBuffer
  | withdrawBuffers
  | acceptEntryClose
  | acceptEntryRenew
  | returnEntry
  | queryPart
  /-- The Bus Master starts the request at the head of its queue (R170). -/
  | transferStart
  /-- The last cycle of a FORM_FETCH is answered; `bytes` is what the host memory answered, in address order (R172). -/
  | formFetchEnd (bytes : List Byte)
  /-- The last cycle of a PROFILE_FETCH is answered (R172). -/
  | profileFetchEnd (bytes : List Byte)
  /-- The last cycle of a PRESET_FETCH is answered (R172). -/
  | presetFetchEnd (bytes : List Byte)
  /-- The last cycle of a DELIVERY is answered (R173). -/
  | deliveryComplete
  /-- A bus cycle goes unanswered for the bus wait limit (R174): `answered` cycles of the transfer were answered before
  it, and a read's answered cycles brought `bytes`. -/
  | busFault (answered : Nat) (bytes : List Byte)
  /-- A character has been received on a line (R157). -/
  | characterReceived (line : LineId) (char : RxChar)
  /-- The received stream returns to its idle level (R158). -/
  | breakEnd (line : LineId)
  /-- The terminal ready input stands at `present` from now on (R163). -/
  | readyInputChange (line : LineId) (present : Bool)
  | settleTimerExpiry (line : LineId)
  | stallTimerExpiry (line : LineId)
  | byteTransmitStart (line : LineId)
  | byteTaken (line : LineId)
  | gapTimerExpiry (line : LineId)
  | keyClaimGrant (line : LineId)
  | lineEvent (line : LineId)
  | inactivityTimerExpiry (line : LineId)
  | verdictTimerExpiry (line : LineId)
  | unitComposition (line : LineId)
  | receivedStreamIdleSeen (line : LineId)
  deriving DecidableEq, Repr

end Sys2Proof
end

