-- ==== Sys2Proof/Config.lean ====
section
/-! DEFINITION. What the FE-12 fixes for every part (capacities and times), and the one value the spec leaves open. -/

namespace Sys2Proof.Config

/-- R50 ("The contents of the value bytes after a reset are not set"), R168 ("contents not set"): what a byte of value
memory or of the transfer buffer holds before anything has written it. A FREE VALUE: no body, so nothing can be proved of
it (notes/assumptions/6.md). -/
opaque unsetByte : Nat → Byte

/-- R159: the type-ahead of a line holds at most 32 entries. -/
def typeAheadRoom : Nat := 32
/-- R106, R162: the output queue of a line holds at most 256 bytes. -/
def outputRoom : Nat := 256
/-- R182: the command queue holds at most 128 words. -/
def commandRoom : Nat := 128
/-- R187: the answer queue holds at most 256 words. -/
def answerRoom : Nat := 256
/-- R124: the delivery buffer list holds at most 16 descriptors. -/
def bufferRoom : Nat := 16
/-- R46: value memory has 1536 granules. -/
def granules : Nat := 1536
/-- R46: a granule is 8 bytes. -/
def granuleBytes : Nat := 8
/-- R168: the transfer buffer holds 4096 bytes. -/
def transferBufferBytes : Nat := 4096
/-- R184: the assembly timer runs 5 ticks. -/
def assemblyTicks : Nat := 5
/-- "A time given in seconds means 100 ticks per second" (spec/00_scope.md, Time). -/
def ticksPerSecond : Nat := 100
/-- R11, R31, R125, R149, R168: a host range must end by 0x1000000. -/
def hostTop : Nat := 0x1000000
/-- R149: a profile image has 171 bytes. -/
def profileImageBytes : Nat := 171
/-- R77: the words a submission claims for its DELIVERED notice. -/
def deliveredWords : Nat := 6
/-- R166: the words of a line's event claim. -/
def eventWords : Nat := 4
/-- R189: how many grants may follow one another in one happening: more than the claims that the words of the command queue
and the entries of the type-aheads can make one after another (notes/assumptions/2.md). -/
def grantRounds : Nat := 1024

end Sys2Proof.Config
end

