-- ==== Sys2Proof/Machine/State.lean ====
section
/-! DEFINITION. The state of the FE-12: every register, queue, timer, record and memory the spec gives the part, as plain
data, and the state right after reset. -/

namespace Sys2Proof.Machine

/-! ## Stops -/

/-- The FE-12 has no fault that stops it: a bus fault, a receive fault and a failed self-check are all happenings with an
effect on the state. No meaning of this model stops with a fault. -/
inductive Fault where
  deriving DecidableEq, Repr

/-- Why a command has no meaning. -/
inductive Refusal where
  /-- Raised by an arm of exec whose command is not modelled yet (safe: the model stops where the part goes on). -/
  | notModelled (mnemonic : String)
  deriving DecidableEq, Repr

/-! ## Addressed memories -/

/-- Value memory, the transfer buffer, and the part's writes into host memory: (address, byte) pairs, addresses strictly
rising; an unlisted address has been written by nothing. -/
abbrev Memory := List Host.Cell

/-! ## The form library (chapter 1) -/

/-- R5: what a forward exit from the last unprotected field does. -/
inductive LastField where
  | stay
  | wrap
  | submit
  deriving DecidableEq, Repr

/-- R6: the four field types. -/
inductive FieldType where
  | text
  | alpha
  | digits
  | amount
  deriving DecidableEq, Repr

/-- R7: the six attributes of a field. -/
structure FieldAttrs where
  isProtected : Bool
  mandatory : Bool
  autoAdvance : Bool
  upper : Bool
  concealed : Bool
  notify : Bool
  deriving DecidableEq, Repr

/-- R6: one field definition. -/
structure FieldDef where
  row : Nat
  col : Nat
  length : Nat
  type : FieldType
  scale : Nat
  minLength : Nat
  attrs : FieldAttrs
  fill : Byte
  defaultOffset : Nat
  defaultLength : Nat
  helpCode : Byte
  deriving DecidableEq, Repr

/-- R9: PLAIN or HIGHLIGHT. -/
inductive TextStyle where
  | plain
  | highlight
  deriving DecidableEq, Repr

/-- R9: one text item. -/
structure TextItem where
  row : Nat
  col : Nat
  textOffset : Nat
  textLength : Nat
  style : TextStyle
  deriving DecidableEq, Repr

/-- R4, R5, R8, R10: a form definition. -/
structure FormDef where
  name : List Byte
  rows : Nat
  columns : Nat
  messageRow : Option Nat
  lastField : LastField
  upper : Bool
  fields : List FieldDef
  texts : List TextItem
  pool : List Byte
  valueTotal : Nat
  deriving DecidableEq, Repr

/-- R1: a slot is EMPTY, LOADING (with the tag and the reservation of the LOAD FORM it owes a result, R11, R186) or READY
with a checked definition. -/
inductive SlotState where
  | empty
  | loading (tag : Byte) (reservation : Nat)
  | ready (form : FormDef)
  deriving DecidableEq, Repr

/-- R1, R2: one slot of the library. -/
structure Slot where
  state : SlotState
  useCount : Nat
  deriving DecidableEq, Repr

/-! ## The profile store (chapter 8) -/

/-- R70: the fifteen actions, in the order of their numbers 0 to 14. -/
inductive Action where
  | ignore
  | next
  | prev
  | left
  | right
  | home
  | toEnd
  | rubout
  | delete
  | clearField
  | insertToggle
  | submit
  | cancel
  | attention
  | refresh
  deriving DecidableEq, Repr

/-- R146: an entry of a key table. -/
structure KeyEntry where
  keys : List Byte
  action : Action
  deriving DecidableEq, Repr

/-- R141: ROW_FIRST or COL_FIRST. -/
inductive CoordOrder where
  | rowFirst
  | colFirst
  deriving DecidableEq, Repr

/-- R143, R144: how a coordinate is written. -/
inductive Encoding where
  | binary (offset : Byte)
  | decimal (origin : Nat)
  deriving DecidableEq, Repr

/-- R141: a profile record. `controlMap` has 33 entries: bytes 0x00 to 0x1F, then 0x7F. -/
structure Profile where
  clear : List Byte
  lead : List Byte
  trailer : List Byte
  order : CoordOrder
  separator : Option Byte
  encoding : Encoding
  highlightOn : List Byte
  highlightOff : List Byte
  bell : Byte
  xon : Byte
  xoff : Byte
  controlMap : List Action
  keyTable : List KeyEntry
  deriving DecidableEq, Repr

/-- R140: READY with a record, or LOADING (with the tag and the reservation of the SET PROFILE it owes a result). -/
inductive ProfileState where
  | ready (profile : Profile)
  | loading (tag : Byte) (reservation : Nat)
  deriving DecidableEq, Repr

/-- R140: one profile and the number of ON lines that use it. -/
structure ProfileSlot where
  state : ProfileState
  userCount : Nat
  deriving DecidableEq, Repr

/-! ## The instance table (chapters 2, 3, 5, 6) -/

/-- R23: the seven phases, in the order of R195's codes 1 to 7. -/
inductive Phase where
  | presetting
  | painting
  | editing
  | awaitBuffer
  | delivering
  | awaitVerdict
  | closing
  deriving DecidableEq, Repr

/-- A timer that counts ticks down (R68, R101, R133, R152); `spent` is the third condition of the inactivity and stall
timers (R101, R161). -/
inductive Timer where
  | stopped
  | running (ticks : Nat)
  | spent
  deriving DecidableEq, Repr

/-- R55: the protection override. -/
inductive Override where
  | none
  | isProtected
  | unprotected
  deriving DecidableEq, Repr

/-- R51: a field runtime record; the value bytes stand in value memory. -/
structure FieldRec where
  valueLength : Nat
  touched : Bool
  invalid : Bool
  errorMark : Bool
  override : Override
  staleFrom : Option Nat
  deriving DecidableEq, Repr

/-- R124: the host address and length of a posted buffer. -/
structure Descriptor where
  address : HostAddr
  length : Word
  deriving DecidableEq, Repr

/-- R22, R39, R44: a deferred CLOSE FORM or RESET LINE, with the reservation its result will use (R186). -/
structure PendingClose where
  tag : Byte
  clear : Bool
  reservation : Nat
  deriving DecidableEq, Repr

/-- R83: OVERWRITE or INSERT. -/
inductive InsertMode where
  | overwrite
  | insert
  deriving DecidableEq, Repr

/-- R46, R47: a run of granules [base, base + count). -/
structure Extent where
  base : Nat
  count : Nat
  deriving DecidableEq, Repr

/-- R22, R103: a live instance record, its field runtime records, and the instance's items of the display work. The
line is the record's place in the table; `detached` is the line's (R25; notes/assumptions/16.md). `paintLeft` holds R114's order:
some while the message or cursor work left at the end of a paint waits, with the numbers of the fields whose work keystrokes created
meanwhile, which is composed after it (notes/assumptions/29.md). -/
structure Inst where
  slot : SlotId
  serial : Word
  phase : Phase
  held : Bool
  late : Bool
  extent : Extent
  cursorField : Option Nat
  cursorPos : Nat
  insertMode : InsertMode
  edited : Bool
  message : List Byte
  imageSize : Nat
  resubmit : Bool
  heldBuffer : Option Descriptor
  reservation : Nat
  pendingOpen : Option Byte
  pendingClose : List PendingClose
  inactivity : Timer
  verdictTimer : Timer
  fields : List FieldRec
  textIndex : Option Nat
  messageStale : Bool
  cursorStale : Bool
  paintLeft : Option (List Nat)
  deriving DecidableEq, Repr

/-! ## The lines (chapters 4, 6, 9) -/

/-- R153: the line rates, in the order of their codes 0 to 7. -/
inductive Rate where
  | r300
  | r600
  | r1200
  | r2400
  | r4800
  | r9600
  | r19200
  | r38400
  deriving DecidableEq, Repr

/-- R153: 7 or 8 data bits. -/
inductive DataBits where
  | seven
  | eight
  deriving DecidableEq, Repr

/-- R153: none, even or odd. -/
inductive Parity where
  | none
  | even
  | odd
  deriving DecidableEq, Repr

/-- R153: 1 or 2 stop bits. -/
inductive StopBits where
  | one
  | two
  deriving DecidableEq, Repr

/-- R81, R153: what a break marker does. -/
inductive BreakAction where
  | ignore
  | refresh
  | attention
  deriving DecidableEq, Repr

/-- R153: the thirteen items of a line's configuration. -/
structure LineConfig where
  rate : Rate
  dataBits : DataBits
  parity : Parity
  stopBits : StopBits
  profile : ProfileId
  flowControl : Bool
  readyMonitoring : Bool
  settle : Nat
  breakAction : BreakAction
  keyGap : Nat
  inactivity : Nat
  verdict : Nat
  stallCeiling : Nat
  deriving DecidableEq, Repr

/-- R152: settled ready. -/
inductive Settled where
  | absent
  | present
  | notMonitored
  deriving DecidableEq, Repr

/-- R160: the flow state. -/
inductive Flow where
  | flowing
  | paused
  deriving DecidableEq, Repr

/-- R158: the break state. -/
inductive BreakState where
  | idle
  | inBreak
  deriving DecidableEq, Repr

/-- R159: an entry of the type-ahead, a received byte or a break marker. -/
inductive Entry where
  | byte (b : Byte)
  | breakMarker
  deriving DecidableEq, Repr

/-- R162: a byte as the transmitter sends it: a start bit, which every frame has, the data bits, the parity bit when one is
configured, and the stop bits. With 7 data bits the value of `data` above 0x7F is not carried. -/
structure TxFrame where
  dataBits : DataBits
  data : Byte
  parityBit : Option Bool
  stopBits : StopBits
  deriving DecidableEq, Repr

/-- R166: the six event flags. -/
structure EventFlags where
  readyChanged : Bool
  inactive : Bool
  stalled : Bool
  verdictTimeout : Bool
  receiveFault : Bool
  idleKey : Bool
  deriving DecidableEq, Repr

/-- R80, R188: a line has one place in the rotation, used for its key claim (R68) or for its event claim (R152). A grant
is used up in its own happening (R188), so only waiting claims stand in the state. -/
inductive LineClaim where
  | absent
  | key (words : Nat)
  | event
  deriving DecidableEq, Repr

/-- One line: its Line Unit (R152), Key Interpreter (R68), the line's items of the display work (R103) and its record of
the instance table (R21). `idleSeen` is R154's "until it has seen the received stream in its idle state"; `wire` is the
MODEL's own: the frame of the byte the transmitter started last (R162). -/
structure Line where
  config : LineConfig
  on : Bool
  readyLevel : Bool
  settled : Settled
  settleTimer : Timer
  detached : Bool
  flow : Flow
  stallTimer : Timer
  breakState : BreakState
  idleSeen : Bool
  typeAhead : List Entry
  output : List Byte
  framing : Byte
  parityCount : Byte
  overrun : Byte
  flags : EventFlags
  timeoutSerial : Option Word
  claim : LineClaim
  pendingKeys : List Byte
  gapTimer : Timer
  releaseDue : Bool
  clearPending : Bool
  bellPending : Bool
  knownCursor : Option (Nat × Nat)
  inst : Option Inst
  wire : Option TxFrame
  deriving DecidableEq, Repr

/-! ## The bus master (chapter 10) -/

/-- R169: the four kinds of request, each with its owner. -/
inductive Owner where
  | formFetch (slot : SlotId)
  | profileFetch (profile : ProfileId)
  | presetFetch (line : LineId)
  | delivery (line : LineId)
  deriving DecidableEq, Repr

/-- R168: a request. -/
structure Request where
  owner : Owner
  address : HostAddr
  length : Nat
  deriving DecidableEq, Repr

/-! ## The host port (chapter 11) -/

/-- R178: the part states. -/
inductive PartState where
  | starting
  | ready
  | fault
  deriving DecidableEq, Repr

/-- R178: what reset the part last. -/
inductive ResetCause where
  | power
  | port
  deriving DecidableEq, Repr

/-- R178: the fault codes. -/
inductive FaultCode where
  | none
  | valueMemory
  | libraryMemory
  | profileMemory
  deriving DecidableEq, Repr

/-- R194: the twenty-five commands, in the order of their codes 0x01 to 0x19. -/
inductive CommandCode where
  | loadForm
  | discardForm
  | queryForm
  | setProfile
  | configureLine
  | enableLine
  | disableLine
  | queryLine
  | resetLine
  | openForm
  | closeForm
  | clearEntry
  | holdInput
  | resumeInput
  | readField
  | writeField
  | setFieldState
  | placeCursor
  | showMessage
  | repaint
  | postBuffer
  | withdrawBuffers
  | acceptEntry
  | returnEntry
  | queryPart
  deriving DecidableEq, Repr

/-- R195: the status codes, in the order of their numbers 0 to 30. -/
inductive Status where
  | ok
  | badCode
  | badLength
  | tooShort
  | tooLong
  | truncated
  | badLine
  | lineOff
  | lineOn
  | badSlot
  | slotEmpty
  | slotBusy
  | inUse
  | badProfile
  | profileBusy
  | noInstance
  | hasInstance
  | stale
  | wrongPhase
  | closing
  | frozen
  | badField
  | badValue
  | badArgument
  | noRoom
  | busFault
  | badImage
  | listFull
  | badBuffer
  | closedEarly
  | tooLate
  deriving DecidableEq, Repr

/-- R185: what the decoding of a complete command says. -/
inductive Decoded where
  | command (code : CommandCode)
  | refused (status : Status)
  deriving DecidableEq, Repr

/-- R184: the four states of the assembler. The words of the command it holds stand at the head of the command queue;
`owing` holds the tag and status of the owed result. -/
inductive Assembler where
  | free
  | gathering (timer : Timer)
  | complete (decoded : Decoded)
  | owing (tag : Byte) (status : Status)
  deriving DecidableEq, Repr

/-- R188: the thirteen claimants. -/
inductive Claimant where
  | commandUnit
  | line (l : LineId)
  deriving DecidableEq, Repr

/-! ## The part -/

/-- The state of the FE-12. `dataOut` (the word the last DATA read returned, R177), `hostMemory` (the bytes the part's
write cycles have left in host memory, R173) and `pending` (the commands that wait for the model's step, first in, first
out) are the MODEL's own. -/
structure State where
  partState : PartState
  resetCause : ResetCause
  faultCode : FaultCode
  stateChange : Bool
  overflow : Bool
  answerEnable : Bool
  stateChangeEnable : Bool
  overflowEnable : Bool
  commandQueue : List Word
  assembler : Assembler
  answerQueue : List Word
  reserved : Nat
  pointer : Claimant
  dataOut : Word
  slots : Vector Slot 24
  profiles : Vector ProfileSlot 4
  lines : Vector Line 12
  nextSerial : Word
  valueMemory : Memory
  freeList : List Extent
  bufferList : List Descriptor
  waiting : List LineId
  busQueue : List Request
  transfer : Option Request
  transferBuffer : Memory
  hostMemory : Memory
  pending : List Instr
  deriving DecidableEq, Repr

/-! ## Reset -/

/-- R153: the reset values of a line's configuration. -/
def LineConfig.reset : LineConfig where
  rate := .r9600
  dataBits := .eight
  parity := .none
  stopBits := .one
  profile := 0
  flowControl := true
  readyMonitoring := false
  settle := 10
  breakAction := .ignore
  keyGap := 5
  inactivity := 0
  verdict := 30
  stallCeiling := 0

/-- No event flag set. -/
def EventFlags.clear : EventFlags := ⟨false, false, false, false, false, false⟩

/-- R68, R103, R152: a line after a reset that finds its ready input at `ready`. -/
def Line.reset (ready : Bool) (wire : Option TxFrame) : Line where
  config := LineConfig.reset
  on := false
  readyLevel := ready
  settled := .notMonitored
  settleTimer := .stopped
  detached := false
  flow := .flowing
  stallTimer := .stopped
  breakState := .idle
  idleSeen := false
  typeAhead := []
  output := []
  framing := 0
  parityCount := 0
  overrun := 0
  flags := EventFlags.clear
  timeoutSerial := none
  claim := .absent
  pendingKeys := []
  gapTimer := .stopped
  releaseDue := false
  clearPending := false
  bellPending := false
  knownCursor := none
  inst := none
  wire := wire

/-- R147: the default control map, bytes 0x00 to 0x1F and then 0x7F. -/
def Profile.defaultControlMap : List Action :=
  [.ignore, .home, .ignore, .cancel, .submit, .toEnd, .ignore, .ignore,
   .rubout, .next, .ignore, .prev, .refresh, .next, .insertToggle, .ignore,
   .attention, .ignore, .ignore, .ignore, .ignore, .clearField, .ignore, .ignore,
   .ignore, .ignore, .ignore, .cancel, .ignore, .ignore, .ignore, .ignore,
   .delete]

/-- R147: the default key table. -/
def Profile.defaultKeyTable : List KeyEntry :=
  [⟨[0x1B, 0x5B, 0x41], .prev⟩, ⟨[0x1B, 0x5B, 0x42], .next⟩, ⟨[0x1B, 0x5B, 0x43], .right⟩,
   ⟨[0x1B, 0x5B, 0x44], .left⟩, ⟨[0x1B, 0x5B, 0x48], .home⟩, ⟨[0x1B, 0x5B, 0x46], .toEnd⟩]

/-- R147: the default contents of a profile. -/
def Profile.default : Profile where
  clear := [0x0C]
  lead := [0x1B, 0x3D]
  trailer := []
  order := .rowFirst
  separator := none
  encoding := .binary 0x20
  highlightOn := [0x1B, 0x48]
  highlightOff := [0x1B, 0x49]
  bell := 0x07
  xon := 0x11
  xoff := 0x13
  controlMap := Profile.defaultControlMap
  keyTable := Profile.defaultKeyTable

/-- The machine right after a power-on reset (R20, R45, R50, R68, R103, R139, R140, R152, R168, R179): STARTING, with the
ready inputs ABSENT (notes/assumptions/5.md). -/
def State.reset : State where
  partState := .starting
  resetCause := .power
  faultCode := .none
  stateChange := false
  overflow := false
  answerEnable := false
  stateChangeEnable := false
  overflowEnable := false
  commandQueue := []
  assembler := .free
  answerQueue := []
  reserved := 0
  pointer := .commandUnit
  dataOut := 0
  slots := Vector.replicate 24 ⟨.empty, 0⟩
  profiles := Vector.replicate 4 ⟨.ready Profile.default, 0⟩
  lines := Vector.replicate 12 (Line.reset false none)
  nextSerial := 1
  valueMemory := []
  freeList := [⟨0, Config.granules⟩]
  bufferList := []
  waiting := []
  busQueue := []
  transfer := none
  transferBuffer := []
  hostMemory := []
  pending := []

end Sys2Proof.Machine
end

