-- ==== Sys2Proof/Machine/Ops.lean ====
section
/-! DEFINITION. The named operations over bytes, words, the addressed memories and the records of the state; every other
file of the machine reads and writes the state through these. -/

namespace Sys2Proof.Machine

/-! ## Bytes and words -/

/-- The low byte of a word ("bit 0 is its least significant bit", chapter 12). -/
def lowByte (w : Word) : Byte := w.setWidth 8

/-- The high byte of a word. -/
def highByte (w : Word) : Byte := (w >>> 8).setWidth 8

/-- The word with the given low and high bytes. -/
def wordOf (low high : Byte) : Word := high ++ low

/-- A number as a word. -/
def word (n : Nat) : Word := BitVec.ofNat 16 n

/-- A number as a byte. -/
def byte (n : Nat) : Byte := BitVec.ofNat 8 n

/-- 1 when set (chapter 12). -/
def flagByte (b : Bool) : Byte := if b then 1 else 0

/-- "printable: a byte in 0x20–0x7E" (Terms). -/
def printable (b : Byte) : Bool := decide (0x20 ≤ b.toNat ∧ b.toNat ≤ 0x7E)

/-- "control byte: a byte in 0x00–0x1F, or the byte 0x7F" (Terms). -/
def control (b : Byte) : Bool := decide (b.toNat < 0x20 ∨ b.toNat = 0x7F)

/-- A number rounded up to even (R34, R123). -/
def roundEven (n : Nat) : Nat := n + n % 2

/-- The bytes of a run of words, low byte first (chapter 12: "byte 0 is the low byte of the first data word"). -/
def bytesOfWords : List Word → List Byte
  | [] => []
  | w :: ws => lowByte w :: highByte w :: bytesOfWords ws

/-- Bytes laid two to a word, the last padded with 0x00 (R195). -/
def wordsOfBytes : List Byte → List Word
  | [] => []
  | [b] => [wordOf b 0]
  | b :: c :: bs => wordOf b c :: wordsOfBytes bs

/-- The first of a list of conditions that holds gives the outcome. -/
def firstOf {α : Type} : List (Bool × α) → Option α
  | [] => none
  | (c, a) :: rest => if c then some a else firstOf rest

/-- The first number of a list for which `f` has an answer. -/
def firstSome {α : Type} (f : Nat → Option α) : List Nat → Option (α × Nat)
  | [] => none
  | n :: ns =>
    match f n with
    | some a => some (a, n)
    | none => firstSome f ns

/-- The first position at which two values differ: the shorter one's length when it opens the longer one (R56). -/
def firstDiff : List Byte → List Byte → Nat
  | a :: as, b :: bs => if a = b then firstDiff as bs + 1 else 0
  | _, _ => 0

/-- All twelve lines, in order. -/
def allLines : List LineId := [0, 1, 2, 3, 4, 5, 6, 7, 8, 9, 10, 11]

/-! ## Addressed memories -/

/-- What has been written at an address: nothing for an address the list does not hold. -/
def Memory.read : Memory → Nat → Option Byte
  | [], _ => none
  | (a, b) :: m, x => if x = a then some b else Memory.read m x

/-- Writing one byte, keeping the addresses strictly rising. -/
def Memory.write : Memory → Nat → Byte → Memory
  | [], x, v => [(x, v)]
  | (a, b) :: m, x, v =>
    if x < a then (x, v) :: (a, b) :: m
    else if x = a then (x, v) :: m
    else (a, b) :: Memory.write m x v

/-- Writing a run of bytes from an address upward. -/
def Memory.writeBytes (m : Memory) (x : Nat) : List Byte → Memory
  | [] => m
  | b :: bs => Memory.writeBytes (Memory.write m x b) (x + 1) bs

/-- The byte at an address; a free value where nothing has been written (R50, R168). -/
def Memory.byteAt (m : Memory) (x : Nat) : Byte := (Memory.read m x).getD (Config.unsetByte x)

/-- The `n` bytes from an address upward. -/
def Memory.readBytes (m : Memory) (x : Nat) : Nat → List Byte
  | 0 => []
  | n + 1 => Memory.byteAt m x :: Memory.readBytes m (x + 1) n

/-- The canonical form: addresses strictly rising. -/
def Memory.wf : Memory → Bool
  | [] => true
  | [_] => true
  | c :: d :: m => decide (c.1 < d.1) && Memory.wf (d :: m)

/-! ## Lines, slots and profiles -/

/-- The record of a line. -/
def State.line (s : State) (l : LineId) : Line := s.lines[l]

/-- Replacing the record of a line. -/
def State.setLine (s : State) (l : LineId) (x : Line) : State := { s with lines := s.lines.set l x }

/-- Changing the record of a line. -/
def State.modLine (s : State) (l : LineId) (f : Line → Line) : State := s.setLine l (f (s.line l))

/-- The record of a slot. -/
def State.slot (s : State) (k : SlotId) : Slot := s.slots[k]

/-- Replacing the record of a slot. -/
def State.setSlot (s : State) (k : SlotId) (x : Slot) : State := { s with slots := s.slots.set k x }

/-- The record of a profile. -/
def State.profileSlot (s : State) (p : ProfileId) : ProfileSlot := s.profiles[p]

/-- Replacing the record of a profile. -/
def State.setProfile (s : State) (p : ProfileId) (x : ProfileSlot) : State := { s with profiles := s.profiles.set p x }

/-- The contents a line reads: the record of the profile its configuration names, which is READY while the line is ON
(R140). -/
def State.lineProfile (s : State) (l : LineId) : Profile :=
  match (s.profileSlot (s.line l).config.profile).state with
  | .ready p => p
  | .loading _ _ => Profile.default

/-! ## Instances -/

/-- The instance of a line, if it has one (R21). -/
def State.inst (s : State) (l : LineId) : Option Inst := (s.line l).inst

/-- Replacing the instance record of a line. -/
def State.setInst (s : State) (l : LineId) (i : Option Inst) : State := s.modLine l fun x => { x with inst := i }

/-- Changing the instance of a line; nothing on a line without one. -/
def State.modInst (s : State) (l : LineId) (f : Inst → Inst) : State :=
  match s.inst l with
  | some i => s.setInst l (some (f i))
  | none => s

/-- The record of no form. -/
def FormDef.blank : FormDef := ⟨[], 0, 0, none, .stay, false, [], [], [], 0⟩

/-- The definition a slot holds; a slot in use is READY (R2). -/
def Slot.form (k : Slot) : FormDef :=
  match k.state with
  | .ready d => d
  | _ => FormDef.blank

/-- The definition of an instance's slot (R3). -/
def State.form (s : State) (i : Inst) : FormDef := (s.slot i.slot).form

/-- The definition of no field. -/
def FieldDef.blank : FieldDef :=
  ⟨0, 0, 0, .text, 0, 0, ⟨false, false, false, false, false, false⟩, 0x20, 0, 0, 0⟩

/-- The definition of field `n`. -/
def FormDef.field (d : FormDef) (n : Nat) : FieldDef := d.fields.getD n FieldDef.blank

/-- The number of fields of a form. -/
def FormDef.fieldCount (d : FormDef) : Nat := d.fields.length

/-- The field numbers of a form, in field order. -/
def FormDef.fieldNumbers (d : FormDef) : List Nat := List.range d.fields.length

/-- R10: "the value of field n lies in the extent at an offset equal to the sum of the lengths of fields 0 to n−1". -/
def FormDef.offset (d : FormDef) (n : Nat) : Nat := ((d.fields.take n).map FieldDef.length).sum

/-- R10: the granules an instance of the form takes. -/
def FormDef.extentSize (d : FormDef) : Nat := (d.valueTotal + 7) / Config.granuleBytes

/-- R8: a run of pool bytes. -/
def FormDef.poolBytes (d : FormDef) (offset length : Nat) : List Byte := (d.pool.drop offset).take length

/-- R8: the default of field `n`; empty where it has none. -/
def FormDef.default (d : FormDef) (n : Nat) : List Byte :=
  d.poolBytes (d.field n).defaultOffset (d.field n).defaultLength

/-- The runtime record of no field. -/
def FieldRec.blank : FieldRec := ⟨0, false, false, false, .none, none⟩

/-- The runtime record of field `n`. -/
def Inst.field (i : Inst) (n : Nat) : FieldRec := i.fields.getD n FieldRec.blank

/-- Changing the runtime record of field `n`. -/
def Inst.modField (i : Inst) (n : Nat) (f : FieldRec → FieldRec) : Inst :=
  { i with fields := i.fields.set n (f (i.field n)) }

/-- The instance record of no line, which `instOf` answers for a line without an instance. -/
def Inst.blank : Inst where
  slot := 0
  serial := 0
  phase := .closing
  held := false
  late := false
  extent := ⟨0, 0⟩
  cursorField := none
  cursorPos := 0
  insertMode := .overwrite
  edited := false
  message := []
  imageSize := 0
  resubmit := false
  heldBuffer := none
  reservation := 0
  pendingOpen := none
  pendingClose := []
  inactivity := .stopped
  verdictTimer := .stopped
  fields := []
  textIndex := none
  messageStale := false
  cursorStale := false
  paintLeft := none

/-- The instance of a line known to have one. -/
def State.instOf (s : State) (l : LineId) : Inst := (s.inst l).getD Inst.blank

/-- The form of a line's instance. -/
def State.formOf (s : State) (l : LineId) : FormDef := s.form (s.instOf l)

/-- Changing the runtime record of field `n` of a line's instance. -/
def State.modField (s : State) (l : LineId) (n : Nat) (f : FieldRec → FieldRec) : State :=
  s.modInst l fun i => i.modField n f

/-! ## Field values in value memory -/

/-- R47: the byte address in value memory at which field `n` of an instance begins. -/
def State.valueAddress (s : State) (i : Inst) (n : Nat) : Nat :=
  i.extent.base * Config.granuleBytes + (s.form i).offset n

/-- R47: "the field's value is the first value-length bytes of that room". -/
def State.value (s : State) (l : LineId) (n : Nat) : List Byte :=
  Memory.readBytes s.valueMemory (s.valueAddress (s.instOf l) n) ((s.instOf l).field n).valueLength

/-- Replacing the value of field `n`: its bytes and its value length (R47, R51). -/
def State.putValue (s : State) (l : LineId) (n : Nat) (v : List Byte) : State :=
  { s with valueMemory := Memory.writeBytes s.valueMemory (s.valueAddress (s.instOf l) n) v }.modField l n
    fun r => { r with valueLength := v.length }

/-! ## Runtime records -/

/-- R56: "highlighted while its invalid flag or its error mark is set". -/
def FieldRec.highlighted (r : FieldRec) : Bool := r.invalid || r.errorMark

/-- R56: stale from becomes the lower of its present position and `p`; "NONE counts as higher than every position". -/
def FieldRec.lowerStale (r : FieldRec) (p : Nat) : FieldRec :=
  { r with staleFrom := some (match r.staleFrom with | none => p | some q => min q p) }

/-- R56: stale from becomes 0 when the highlight is no longer what it was. -/
def FieldRec.afterHighlight (r : FieldRec) (was : Bool) : FieldRec :=
  if r.highlighted = was then r else { r with staleFrom := some 0 }

/-- R53: the invalid flag takes the outcome of a check. -/
def FieldRec.setInvalid (r : FieldRec) (b : Bool) : FieldRec :=
  FieldRec.afterHighlight { r with invalid := b } r.highlighted

/-- R52, R54, R87 (effects 1, 2 and 5): a clerk edit sets touched and clears the error mark. -/
def FieldRec.clerkEdit (r : FieldRec) : FieldRec :=
  FieldRec.afterHighlight { r with touched := true, errorMark := false } r.highlighted

/-- R55: effective protection. -/
def FieldRec.protection (r : FieldRec) (f : FieldDef) : Bool :=
  match r.override with
  | .none => f.attrs.isProtected
  | .isProtected => true
  | .unprotected => false

/-- R55: is field `n` of the instance effectively protected? -/
def Inst.fieldProtected (i : Inst) (d : FormDef) (n : Nat) : Bool := (i.field n).protection (d.field n)

/-- The effectively unprotected fields of an instance, in field order. -/
def Inst.openFields (i : Inst) (d : FormDef) : List Nat := d.fieldNumbers.filter fun n => !i.fieldProtected d n

/-! ## Display work and the cursor -/

/-- R109: "A bell requested while the line is detached is discarded". -/
def State.bell (s : State) (l : LineId) : State :=
  s.modLine l fun x => if x.detached then x else { x with bellPending := true }

/-- R42: a clear queued as line display work, discarded on a detached or OFF line. -/
def State.queueClear (s : State) (l : LineId) (wanted : Bool) : State :=
  s.modLine l fun x => if wanted && x.on && !x.detached then { x with clearPending := true } else x

/-- R84: the cursor enters a field. -/
def Inst.enterField (i : Inst) (n pos : Nat) : Inst :=
  { i with cursorField := some n, cursorPos := pos, edited := false, cursorStale := true }

/-- R31, R37, R135: the cursor enters the first effectively unprotected field at position 0, or is NONE. A cursor that becomes
NONE has its position put to 0 and edited-since-entry cleared, the model's choice (notes/assumptions/27.md). -/
def Inst.enterFirst (i : Inst) (d : FormDef) : Inst :=
  match i.openFields d with
  | n :: _ => i.enterField n 0
  | [] => { i with cursorField := none, cursorPos := 0, edited := false, cursorStale := true }

/-- R37, R104, R135: every field stale from 0, the message stale and the cursor stale; nothing is left of an earlier paint. -/
def Inst.markAll (i : Inst) : Inst :=
  { i with
    fields := i.fields.map fun r => { r with staleFrom := some 0 }
    messageStale := true
    cursorStale := true
    paintLeft := none }

/-- R104: a full repaint; on a detached line every item but clear pending. -/
def State.fullRepaint (s : State) (l : LineId) : State :=
  (s.modInst l fun i => { i.markAll with textIndex := some 0 }).modLine l
    fun x => if x.detached then x else { x with clearPending := true }

/-- R115: the instance's items of the display work are discarded. -/
def Inst.discardDisplay (i : Inst) : Inst :=
  { i with
    fields := i.fields.map fun r => { r with staleFrom := none }
    textIndex := none
    messageStale := false
    cursorStale := false
    paintLeft := none }

/-- R43, R115, R118: the display work of a line is discarded and its known terminal cursor becomes UNKNOWN. -/
def State.discardDisplay (s : State) (l : LineId) : State :=
  (s.modInst l Inst.discardDisplay).modLine l
    fun x => { x with clearPending := false, bellPending := false, knownCursor := none }

/-- R68: the Key Interpreter of a line is cleared; a waiting key claim is withdrawn. -/
def Line.clearKeys (x : Line) : Line :=
  { x with
    pendingKeys := []
    gapTimer := .stopped
    releaseDue := false
    claim := match x.claim with | .key _ => .absent | c => c }

/-! ## Timers -/

/-- A timer of `ticks` ticks starts; a time of 0 starts none (spec/00_scope.md, Time). -/
def Timer.start (ticks : Nat) : Timer := if ticks = 0 then .stopped else .running ticks

/-- Is the timer counting? -/
def Timer.isRunning : Timer → Bool
  | .running _ => true
  | _ => false

/-- One tick of a running timer. -/
def Timer.tick : Timer → Timer
  | .running (n + 1) => .running n
  | t => t

/-- Has a running timer no tick left? -/
def Timer.ranOut : Timer → Bool
  | .running 0 => true
  | _ => false

/-! ## The answer queue -/

/-- R195: "Word 0 of every record holds the kind in its high byte and the word count in its low byte". -/
def record (kind : Byte) (data : List Word) : List Word := wordOf (byte (data.length + 1)) kind :: data

/-- R187: a record is posted whole at the tail, into a reservation of `reservation` words; the words of the reservation
that the record does not use are released. -/
def State.post (s : State) (reservation : Nat) (r : List Word) : State :=
  { s with answerQueue := s.answerQueue ++ r, reserved := s.reserved - reservation }

/-- R187: reserved words given back without a record. -/
def State.release (s : State) (words : Nat) : State := { s with reserved := s.reserved - words }

/-- R187: the free room of the answer queue. -/
def State.freeRoom (s : State) : Nat := Config.answerRoom - (s.answerQueue.length + s.reserved)

end Sys2Proof.Machine
end

