-- ==== Sys2Proof/Machine/Flags.lean ====
section
/-! DEFINITION. The flags: the event flags of a line (R166), the field state byte (R195), the status, levels and ident
words of the window (R193) and the interrupt request line (R181). -/

namespace Sys2Proof.Machine

/-- R166: is one or more of the flags set? -/
def EventFlags.any (f : EventFlags) : Bool :=
  f.readyChanged || f.inactive || f.stalled || f.verdictTimeout || f.receiveFault || f.idleKey

/-- R195: the flag set of LINE_EVENT. -/
def EventFlags.toByte (f : EventFlags) : Byte :=
  flagByte f.readyChanged ||| (flagByte f.inactive <<< 1) ||| (flagByte f.stalled <<< 2) |||
    (flagByte f.verdictTimeout <<< 3) ||| (flagByte f.receiveFault <<< 4) ||| (flagByte f.idleKey <<< 5)

/-- R167: the flags the record reports: all that are set, but for VERDICT_TIMEOUT when RECEIVE_FAULT is set with it. -/
def EventFlags.reported (f : EventFlags) : EventFlags := { f with verdictTimeout := f.verdictTimeout && !f.receiveFault }

/-- R167: the flags the record leaves set. -/
def EventFlags.remaining (f : EventFlags) : EventFlags :=
  { EventFlags.clear with verdictTimeout := f.verdictTimeout && f.receiveFault }

/-- R195: the code of settled ready. -/
def Settled.code : Settled → Byte
  | .absent => 0
  | .present => 1
  | .notMonitored => 2

/-- R195: the code of the protection override. -/
def Override.code : Override → Byte
  | .none => 0
  | .isProtected => 1
  | .unprotected => 2

/-- R195: the field state byte. -/
def FieldRec.stateByte (r : FieldRec) (f : FieldDef) : Byte :=
  flagByte r.touched ||| (flagByte r.invalid <<< 1) ||| (flagByte r.errorMark <<< 2) |||
    (flagByte (r.protection f) <<< 3) ||| (r.override.code <<< 4)

/-- R195: "The entry image carries bits 0–3 and writes 0 in bits 4–5". -/
def FieldRec.imageByte (r : FieldRec) (f : FieldDef) : Byte := r.stateByte f &&& 0x0F

/-- A receive count that rises and stands at 255 at most (R157). -/
def countUp (c : Byte) : Byte := if c.toNat < 255 then c + 1 else c

/-- R181: the interrupt request line. -/
def State.interrupt (s : State) : Bool :=
  (!s.answerQueue.isEmpty && s.answerEnable) || (s.stateChange && s.stateChangeEnable) || (s.overflow && s.overflowEnable)

/-- R193: the code of the part state. -/
def PartState.code : PartState → Nat
  | .starting => 0
  | .ready => 1
  | .fault => 2

/-- R193: the code of the fault code. -/
def FaultCode.code : FaultCode → Nat
  | .none => 0
  | .valueMemory => 1
  | .libraryMemory => 2
  | .profileMemory => 3

/-- R193: the STATUS word. A read of it changes nothing (R177). -/
def State.statusWord (s : State) : Word :=
  word (s.partState.code + 4 * (if s.resetCause = .port then 1 else 0) + 8 * s.faultCode.code +
    32 * s.stateChange.toNat + 64 * s.overflow.toNat + 128 * s.answerEnable.toNat + 256 * s.stateChangeEnable.toNat +
    512 * s.overflowEnable.toNat + 1024 * s.interrupt.toNat +
    2048 * (if s.answerQueue.length = Config.answerRoom then 1 else 0))

/-- R193: the LEVELS word. -/
def State.levelsWord (s : State) : Word :=
  wordOf (byte (Config.commandRoom - s.commandQueue.length)) (byte s.answerQueue.length)

/-- R193: the IDENT word, revision 0x01 and part code 0xFE. -/
def identWord : Word := 0xFE01

end Sys2Proof.Machine
end

