-- ==== Sys2Proof/Machine/Operands.lean ====
section
/-! DEFINITION. The operand forms: command codes, counts, reservations and argument words (R185, R194), host addresses
(R192), the configuration block (R194), status codes and the RESULT record (R195). -/

namespace Sys2Proof.Machine

/-! ## Command codes -/

/-- R194: the command of a code; the other codes are unknown. -/
def CommandCode.ofByte (b : Byte) : Option CommandCode :=
  match b.toNat with
  | 0x01 => some .loadForm
  | 0x02 => some .discardForm
  | 0x03 => some .queryForm
  | 0x04 => some .setProfile
  | 0x05 => some .configureLine
  | 0x06 => some .enableLine
  | 0x07 => some .disableLine
  | 0x08 => some .queryLine
  | 0x09 => some .resetLine
  | 0x0A => some .openForm
  | 0x0B => some .closeForm
  | 0x0C => some .clearEntry
  | 0x0D => some .holdInput
  | 0x0E => some .resumeInput
  | 0x0F => some .readField
  | 0x10 => some .writeField
  | 0x11 => some .setFieldState
  | 0x12 => some .placeCursor
  | 0x13 => some .showMessage
  | 0x14 => some .repaint
  | 0x15 => some .postBuffer
  | 0x16 => some .withdrawBuffers
  | 0x17 => some .acceptEntry
  | 0x18 => some .returnEntry
  | 0x19 => some .queryPart
  | _ => none

/-- R194: the least and the greatest count of a command; they differ for the commands of variable length. -/
def CommandCode.counts : CommandCode → Nat × Nat
  | .loadForm => (5, 5)
  | .discardForm => (2, 2)
  | .queryForm => (2, 2)
  | .setProfile => (4, 4)
  | .configureLine => (9, 9)
  | .enableLine => (2, 2)
  | .disableLine => (2, 2)
  | .queryLine => (2, 2)
  | .resetLine => (3, 3)
  | .openForm => (6, 6)
  | .closeForm => (4, 4)
  | .clearEntry => (3, 3)
  | .holdInput => (2, 2)
  | .resumeInput => (2, 2)
  | .readField => (4, 4)
  | .writeField => (4, 40)
  | .setFieldState => (4, 4)
  | .placeCursor => (4, 4)
  | .showMessage => (4, 40)
  | .repaint => (3, 3)
  | .postBuffer => (5, 5)
  | .withdrawBuffers => (2, 2)
  | .acceptEntry => (4, 4)
  | .returnEntry => (4, 40)
  | .queryPart => (2, 2)

/-- R185: the reservation of a well-formed command. -/
def CommandCode.reservation : CommandCode → Nat
  | .loadForm => 4
  | .discardForm => 2
  | .queryForm => 8
  | .setProfile => 4
  | .configureLine => 2
  | .enableLine => 2
  | .disableLine => 2
  | .queryLine => 14
  | .resetLine => 5
  | .openForm => 4
  | .closeForm => 5
  | .clearEntry => 2
  | .holdInput => 2
  | .resumeInput => 2
  | .readField => 43
  | .writeField => 3
  | .setFieldState => 3
  | .placeCursor => 2
  | .showMessage => 2
  | .repaint => 2
  | .postBuffer => 3
  | .withdrawBuffers => 3
  | .acceptEntry => 3
  | .returnEntry => 2
  | .queryPart => 10

/-- R185: the decoding of a complete command from its header's code and count. -/
def decodeHeader (code : Byte) (count : Nat) : Decoded :=
  match CommandCode.ofByte code with
  | none => .refused .badCode
  | some c =>
    if count < c.counts.1 then .refused .tooShort
    else if c.counts.2 < count then .refused .tooLong
    else .command c

/-- R185: the words the command unit claims. -/
def Decoded.claim : Decoded → Nat
  | .command c => c.reservation
  | .refused _ => 2

/-! ## Commands and their arguments -/

/-- A complete command as its owning block sees it (R194). -/
structure Command where
  code : CommandCode
  tag : Byte
  target : Byte
  args : List Word
  deriving DecidableEq, Repr

/-- R194: the argument word `n`, counted from word 2 of the command. -/
def Command.arg (c : Command) (n : Nat) : Word := c.args.getD n 0

/-- R194: the bytes two to a word that follow the four fixed words. -/
def Command.tailWords (c : Command) : List Word := c.args.drop 2

/-- R192: a host address argument of two words; a nonzero high byte of the second makes it 0x1000000 or above. -/
def hostAddress (low high : Word) : Nat := low.toNat + 0x10000 * high.toNat

/-- A host range that ends by 0x1000000 (R11, R31, R125, R149). -/
def rangeOk (address length : Nat) : Bool := decide (address < Config.hostTop ∧ address + length ≤ Config.hostTop)

/-- A line number of a command; above 11 names no line. -/
def lineOf (b : Byte) : Option LineId := if h : b.toNat < 12 then some ⟨b.toNat, h⟩ else none

/-- A slot number of a command; above 23 names no slot. -/
def slotOf (n : Nat) : Option SlotId := if h : n < 24 then some ⟨n, h⟩ else none

/-- A profile number; above 3 names no profile. -/
def profileOf (n : Nat) : Option ProfileId := if h : n < 4 then some ⟨n, h⟩ else none

/-- R192: a clear-screen flag argument is set when its byte is nonzero. -/
def flagSet (b : Byte) : Bool := decide (b ≠ 0)

/-- R62, R116, R136: the checks of a run of bytes carried two to a word: its words must be ceil(length / 2) and each byte
within the length printable. -/
def carriedWordsOk (length : Nat) (ws : List Word) : Bool := decide (ws.length = (length + 1) / 2)

/-- R62, R116, R136: the bytes within the length. -/
def carriedBytes (length : Nat) (ws : List Word) : List Byte := (bytesOfWords ws).take length

/-! ## The configuration block (R153, R194) -/

/-- R194: the rate of a code. -/
def Rate.ofByte (b : Byte) : Option Rate :=
  match b.toNat with
  | 0 => some .r300
  | 1 => some .r600
  | 2 => some .r1200
  | 3 => some .r2400
  | 4 => some .r4800
  | 5 => some .r9600
  | 6 => some .r19200
  | 7 => some .r38400
  | _ => none

/-- R194: the code of a rate. -/
def Rate.code : Rate → Byte
  | .r300 => 0
  | .r600 => 1
  | .r1200 => 2
  | .r2400 => 3
  | .r4800 => 4
  | .r9600 => 5
  | .r19200 => 6
  | .r38400 => 7

/-- R194: 7 or 8. -/
def DataBits.ofByte (b : Byte) : Option DataBits :=
  match b.toNat with
  | 7 => some .seven
  | 8 => some .eight
  | _ => none

/-- R194: 7 or 8. -/
def DataBits.code : DataBits → Byte
  | .seven => 7
  | .eight => 8

/-- R194: 0 none, 1 even, 2 odd. -/
def Parity.ofByte (b : Byte) : Option Parity :=
  match b.toNat with
  | 0 => some .none
  | 1 => some .even
  | 2 => some .odd
  | _ => none

/-- R194: 0 none, 1 even, 2 odd. -/
def Parity.code : Parity → Byte
  | .none => 0
  | .even => 1
  | .odd => 2

/-- R194: 1 or 2. -/
def StopBits.ofByte (b : Byte) : Option StopBits :=
  match b.toNat with
  | 1 => some .one
  | 2 => some .two
  | _ => none

/-- R194: 1 or 2. -/
def StopBits.code : StopBits → Byte
  | .one => 1
  | .two => 2

/-- R194: 0 off, 1 on. -/
def switchOf (b : Byte) : Option Bool :=
  match b.toNat with
  | 0 => some false
  | 1 => some true
  | _ => none

/-- R194: 0 IGNORE, 1 REFRESH, 2 ATTENTION. -/
def BreakAction.ofByte (b : Byte) : Option BreakAction :=
  match b.toNat with
  | 0 => some .ignore
  | 1 => some .refresh
  | 2 => some .attention
  | _ => none

/-- R194: 0 IGNORE, 1 REFRESH, 2 ATTENTION. -/
def BreakAction.code : BreakAction → Byte
  | .ignore => 0
  | .refresh => 1
  | .attention => 2

/-- A number of two bytes, low byte first (R191, R194). -/
def twoBytes (low high : Byte) : Nat := low.toNat + 256 * high.toNat

/-- A number that lies in a range. -/
def inRange (n low high : Nat) : Option Nat := if low ≤ n ∧ n ≤ high then some n else none

/-- R153, R194: the configuration a block of 14 bytes gives; none when an item lies outside its values. -/
def LineConfig.ofBytes (b : List Byte) : Option LineConfig := do
  let at_ := fun (k : Nat) => b.getD k 0
  let rate ← Rate.ofByte (at_ 0)
  let dataBits ← DataBits.ofByte (at_ 1)
  let parity ← Parity.ofByte (at_ 2)
  let stopBits ← StopBits.ofByte (at_ 3)
  let profile ← profileOf (at_ 4).toNat
  let flowControl ← switchOf (at_ 5)
  let readyMonitoring ← switchOf (at_ 6)
  let settle ← inRange (at_ 7).toNat 1 255
  let breakAction ← BreakAction.ofByte (at_ 8)
  let keyGap ← inRange (at_ 9).toNat 1 50
  let inactivity ← inRange (twoBytes (at_ 10) (at_ 11)) 0 900
  return ⟨rate, dataBits, parity, stopBits, profile, flowControl, readyMonitoring, settle, breakAction, keyGap,
    inactivity, (at_ 12).toNat, (at_ 13).toNat⟩

/-- R194: the 14 bytes of a configuration block. -/
def LineConfig.bytes (c : LineConfig) : List Byte :=
  [c.rate.code, c.dataBits.code, c.parity.code, c.stopBits.code, byte c.profile.val, flagByte c.flowControl,
   flagByte c.readyMonitoring, byte c.settle, c.breakAction.code, byte c.keyGap, byte (c.inactivity % 256),
   byte (c.inactivity / 256), byte c.verdict, byte c.stallCeiling]

/-! ## Results (R195) -/

/-- R195: the number of a status code. -/
def Status.code : Status → Byte
  | .ok => 0
  | .badCode => 1
  | .badLength => 2
  | .tooShort => 3
  | .tooLong => 4
  | .truncated => 5
  | .badLine => 6
  | .lineOff => 7
  | .lineOn => 8
  | .badSlot => 9
  | .slotEmpty => 10
  | .slotBusy => 11
  | .inUse => 12
  | .badProfile => 13
  | .profileBusy => 14
  | .noInstance => 15
  | .hasInstance => 16
  | .stale => 17
  | .wrongPhase => 18
  | .closing => 19
  | .frozen => 20
  | .badField => 21
  | .badValue => 22
  | .badArgument => 23
  | .noRoom => 24
  | .busFault => 25
  | .badImage => 26
  | .listFull => 27
  | .badBuffer => 28
  | .closedEarly => 29
  | .tooLate => 30

/-- R195: "A RESULT holds the tag in the low byte of word 1 and the status in its high byte. The data words follow." -/
def resultRecord (tag : Byte) (st : Status) (data : List Word) : List Word := record 0x01 (wordOf tag st.code :: data)

/-- R195: "a line or field of NONE is written 255". -/
def numberOr255 : Option Nat → Byte
  | some n => byte n
  | none => 255

/-- R195: the two words of a host address in a record; the second holds address bits 16–23 in its low byte. -/
def addressLow (a : HostAddr) : Word := a.setWidth 16

/-- R195: address bits 16–23. -/
def addressHigh (a : HostAddr) : Byte := (a >>> 16).setWidth 8

/-- R186: a result posted at once, into the reservation of its command. -/
def State.reply (s : State) (c : Command) (st : Status) (data : List Word) : State :=
  s.post c.code.reservation (resultRecord c.tag st data)

/-- R195: the code of a phase, "1 PRESETTING to 7 CLOSING, in the order of R23". -/
def Phase.code : Phase → Byte
  | .presetting => 1
  | .painting => 2
  | .editing => 3
  | .awaitBuffer => 4
  | .delivering => 5
  | .awaitVerdict => 6
  | .closing => 7

end Sys2Proof.Machine
end

