-- ==== Sys2Proof/Machine/HostPort.lean ====
section
/-! DEFINITION. The host port (chapter 11): the command queue and the assembler, the claims and their rotation, the taking
of a command. -/

namespace Sys2Proof.Machine

/-! ## The assembler (R182 to R185) -/

/-- R194: the count in the low byte of the header at the head of the command queue. -/
def State.headCount (s : State) : Nat :=
  match s.commandQueue with
  | h :: _ => (lowByte h).toNat
  | [] => 0

/-- R183, R184: the tag of the command the assembler holds, 0 while its tag-and-target word has not been written. -/
def State.headTag (s : State) : Byte :=
  match s.commandQueue with
  | _ :: t :: _ => lowByte t
  | _ => 0

/-- R184, R185: a GATHERING command whose last word is present is decoded and becomes COMPLETE. -/
def State.completeIfWhole (s : State) : State :=
  match s.commandQueue with
  | h :: _ =>
    if s.headCount ≤ s.commandQueue.length then
      { s with assembler := .complete (decodeHeader (highByte h) s.headCount) }
    else s
  | [] => s

/-- R184: what the words in the queue do to the assembler: a FREE assembler takes up the header at the head, and a
GATHERING one becomes COMPLETE when its command is whole. -/
def State.assemble (s : State) : State :=
  match s.assembler with
  | .free =>
    match s.commandQueue with
    | [] => s
    | h :: rest =>
      if (lowByte h).toNat < 2 ∨ 40 < (lowByte h).toNat then
        { s with commandQueue := rest, assembler := .owing 0 .badLength }
      else { s with assembler := .gathering (.running Config.assemblyTicks) }.completeIfWhole
  | .gathering _ => s.completeIfWhole
  | _ => s

/-- R183: overflow. -/
def State.takeOverflow (s : State) : State :=
  { s with
    overflow := true
    commandQueue := []
    assembler :=
      match s.assembler with
      | .free => .free
      | .gathering _ => .owing s.headTag .truncated
      | .complete _ => .owing s.headTag .truncated
      | .owing t st => .owing t st }

/-- R182: a word written at DATA. -/
def State.writeData (s : State) (w : Word) : State :=
  if s.partState ≠ .ready then s
  else if s.overflow then s
  else if s.commandQueue.length < Config.commandRoom then
    { s with commandQueue := s.commandQueue ++ [w] }.assemble
  else s.takeOverflow

/-- R184: the assembly timer runs out on a GATHERING command. -/
def State.truncateCommand (s : State) : State :=
  match s.assembler with
  | .gathering (.running _) =>
    { s with commandQueue := s.commandQueue.drop s.headCount, assembler := .owing s.headTag .truncated }
  | _ => s

/-! ## Claims and the rotation (R188, R189) -/

/-- R188: the words a claimant's waiting claim asks for, if it has one. -/
def State.claimOf (s : State) : Claimant → Option Nat
  | .commandUnit =>
    match s.assembler with
    | .complete d => some d.claim
    | .owing _ _ => some 2
    | _ => none
  | .line l =>
    match (s.line l).claim with
    | .absent => none
    | .key n => some n
    | .event => some Config.eventWords

/-- R189: the ring of claimants. -/
def ring : List Claimant := .commandUnit :: allLines.map .line

/-- R189: the place of a claimant in the ring. -/
def Claimant.place : Claimant → Nat
  | .commandUnit => 0
  | .line l => l.val + 1

/-- R189: the ring searched "from the claimant after the pointer". -/
def searchOrder (p : Claimant) : List Claimant := ring.drop (p.place + 1) ++ ring.take (p.place + 1)

/-- R189: the first claimant with a waiting claim. -/
def State.firstWaiting (s : State) : Option Claimant := (searchOrder s.pointer).find? fun c => (s.claimOf c).isSome

/-- R189: the claimant whose claim is granted next, with its words: the first waiting one, when its claim is no larger
than the free room. -/
def State.nextGrant (s : State) : Option (Claimant × Nat) :=
  match s.firstWaiting with
  | none => none
  | some c =>
    match s.claimOf c with
    | none => none
    | some n => if n ≤ s.freeRoom then some (c, n) else none

/-- R188, R189: a claim is granted: its words are reserved and the pointer moves to the claimant. -/
def State.grant (s : State) (c : Claimant) (words : Nat) : State := { s with pointer := c, reserved := s.reserved + words }

/-! ## Taking a command (R186) -/

/-- The complete command at the head of the command queue. -/
def State.headCommand (s : State) : Option Command :=
  match s.assembler, s.commandQueue with
  | .complete (.command code), _ :: t :: rest =>
    some ⟨code, lowByte t, highByte t, rest.take (s.headCount - 2)⟩
  | _, _ => none

/-- The command that is taken next: the command unit's claim for it is the one granted next (R186, R189). -/
def State.grantedCommand (s : State) : Option Command :=
  match s.nextGrant with
  | some (.commandUnit, _) => s.headCommand
  | _ => none

/-- R186, step 1: the claim is granted and the command's words leave the command queue; the assembler becomes FREE. -/
def State.beginTaking (s : State) (c : Command) : State :=
  { s.grant .commandUnit c.code.reservation with
    commandQueue := s.commandQueue.drop s.headCount
    assembler := .free }

/-- R186: a command that `accepts` recognises is taken: its words leave the queue, its owning block acts, and the next
header is taken up. A command row whose command is not the one granted next does not happen (notes/assumptions/1.md). -/
def State.takeCommand (s : State) (accepts : Command → Bool) (act : Command → State → State) : State :=
  match s.grantedCommand with
  | some c => if accepts c then (act c (s.beginTaking c)).assemble else s
  | none => s

/-- R184: the owed result of the command unit, with the words that leave the command queue at its posting. -/
def State.owedResult (s : State) : Option (Byte × Status × Nat) :=
  match s.assembler with
  | .owing t st => some (t, st, 0)
  | .complete (.refused st) => some (s.headTag, st, s.headCount)
  | _ => none

/-- R184, R185: the command unit's claim for an owed result is granted and the result is posted. -/
def State.postOwed (s : State) : State :=
  match s.nextGrant, s.owedResult with
  | some (.commandUnit, _), some (t, st, n) =>
    ({ s.grant .commandUnit 2 with commandQueue := s.commandQueue.drop n, assembler := .free }.post 2
      (resultRecord t st [])).assemble
  | _, _ => s

end Sys2Proof.Machine
end

