-- ==== Sys2Proof/Machine/Fields.lean ====
section
/-! DEFINITION. Field values (chapter 3): folding and types, the check, the canonical form, changes of value, opening
values, and the free extent list of value memory. -/

namespace Sys2Proof.Machine

/-! ## Types and checks (R57, R58) -/

/-- An uppercase letter A–Z. -/
def isUpper (b : Byte) : Bool := decide (0x41 ≤ b.toNat ∧ b.toNat ≤ 0x5A)

/-- A lowercase letter a–z. -/
def isLower (b : Byte) : Bool := decide (0x61 ≤ b.toNat ∧ b.toNat ≤ 0x7A)

/-- A digit 0–9. -/
def isDigit (b : Byte) : Bool := decide (0x30 ≤ b.toNat ∧ b.toNat ≤ 0x39)

/-- The space byte. -/
def space : Byte := 0x20
/-- The byte '-'. -/
def minus : Byte := 0x2D
/-- The byte '.'. -/
def point : Byte := 0x2E
/-- The byte '0'. -/
def zero : Byte := 0x30

/-- R57: folding of a character for a field. -/
def fold (d : FormDef) (f : FieldDef) (c : Byte) : Byte :=
  if (f.attrs.upper || d.upper) && isLower c then c - 0x20 else c

/-- R57: may a keystroke add this (folded) character to a field of the type? -/
def FieldType.admits : FieldType → Byte → Bool
  | .text, c => printable c
  | .alpha, c => isUpper c || isLower c || c == space
  | .digits, c => isDigit c
  | .amount, c => isDigit c || c == minus || c == point

/-- R51: the value length less the trailing spaces. -/
def effectiveLength (v : List Byte) : Nat := (v.reverse.dropWhile (· == space)).length

/-- R58: the sign of an AMOUNT value. -/
def amountSign (v : List Byte) : Bool :=
  match v with
  | c :: _ => c == minus
  | [] => false

/-- R58: an AMOUNT value less its sign. -/
def amountBody (v : List Byte) : List Byte := if amountSign v then v.drop 1 else v

/-- R59: the digits before the '.'. -/
def amountWhole (v : List Byte) : List Byte := (amountBody v).takeWhile (· != point)

/-- R58: what follows the digits before the '.': nothing, or the '.' and the rest. -/
def amountTail (v : List Byte) : List Byte := (amountBody v).dropWhile (· != point)

/-- R59: the digits after the '.'. -/
def amountFraction (v : List Byte) : List Byte := (amountTail v).drop 1

/-- R58: is the value an amount with the scale? -/
def isAmount (scale : Nat) (v : List Byte) : Bool :=
  (amountWhole v).all isDigit && (amountFraction v).all isDigit &&
    decide (0 < (amountWhole v).length + (amountFraction v).length) &&
    ((amountTail v).isEmpty || decide (0 < scale ∧ (amountFraction v).length ≤ scale))

/-- R58: the type test. -/
def typeTest (f : FieldDef) (v : List Byte) : Bool :=
  match f.type with
  | .text => v.all printable
  | .alpha => v.all fun c => isUpper c || isLower c || c == space
  | .digits => v.all isDigit
  | .amount => v.isEmpty || isAmount f.scale v

/-- R58: the min length test. -/
def minTest (f : FieldDef) (v : List Byte) : Bool := decide (f.minLength ≤ effectiveLength v)

/-- R58: the check of a field. -/
def fieldCheck (f : FieldDef) (v : List Byte) : Bool := typeTest f v && minTest f v

/-! ## The canonical form (R59) -/

/-- R59: "with leading zeros removed, or a single 0 when none remain". -/
def canonicalWhole (ds : List Byte) : List Byte :=
  match ds.dropWhile (· == zero) with
  | [] => [zero]
  | rest => rest

/-- R59: the canonical form of an amount. -/
def canonical (scale : Nat) (v : List Byte) : List Byte :=
  (if amountSign v && (amountWhole v ++ amountFraction v).any (· != zero) then [minus] else []) ++
    canonicalWhole (amountWhole v) ++
    (if scale = 0 then []
     else point :: (amountFraction v ++ List.replicate (scale - (amountFraction v).length) zero))

/-- R59, R92: the value a forward exit leaves and whether its check passes. -/
def exitOutcome (f : FieldDef) (v : List Byte) : List Byte × Bool :=
  match f.type with
  | .amount =>
    if !typeTest f v then (v, false)
    else if v.isEmpty then (v, minTest f v)
    else if f.length < (canonical f.scale v).length then (v, false)
    else (canonical f.scale v, minTest f (canonical f.scale v))
  | _ => (v, fieldCheck f v)

/-! ## Changes of value -/

/-- R56: a new value for field `n`, its stale mark lowered to the position `p`. -/
def State.changeValue (s : State) (l : LineId) (n : Nat) (v : List Byte) (p : Nat) : State :=
  (s.putValue l n v).modField l n fun r => r.lowerStale p

/-- R93, R120: "the cursor position becomes the new value length if it was above it" (and at a failing exit too,
notes/assumptions/12.md). -/
def Inst.clampCursor (i : Inst) (n : Nat) : Inst :=
  if i.cursorField = some n ∧ (i.field n).valueLength < i.cursorPos then
    { i with cursorPos := (i.field n).valueLength, cursorStale := true }
  else i

/-- R59, R92: the forward-exit check of field `n`: the canonical form, the invalid flag and the stale marks. -/
def State.exitCheck (s : State) (l : LineId) (n : Nat) : State × Bool :=
  let v := s.value l n
  let out := exitOutcome ((s.formOf l).field n) v
  let s := if out.1 = v then s else s.changeValue l n out.1 (firstDiff v out.1)
  let s := s.modField l n fun r =>
    if out.2 then r.setInvalid false else { r.setInvalid true with staleFrom := some 0 }
  (s.modInst l fun i => i.clampCursor n, out.2)

/-- R53: a check without canonical form of the value as it stands. -/
def State.recheck (s : State) (l : LineId) (n : Nat) : State :=
  s.modField l n fun r => r.setInvalid !(fieldCheck ((s.formOf l).field n) (s.value l n))

/-- R63: WRITE FIELD's effect on the field and on a cursor in it. -/
def State.hostWrite (s : State) (l : LineId) (n : Nat) (v : List Byte) : State :=
  (((s.putValue l n v).modField l n fun r => { r with touched := false, errorMark := false }).recheck l n).modInst l
    fun i =>
      let i := i.modField n fun r => { r with staleFrom := some 0 }
      if i.cursorField = some n then { i with cursorPos := 0, edited := false, cursorStale := true } else i

/-- R35: a preset entry replaces the value of its field. -/
def State.presetWrite (s : State) (l : LineId) (n : Nat) (v : List Byte) : State :=
  ((s.changeValue l n v (firstDiff (s.value l n) v)).modField l n
    fun r => FieldRec.afterHighlight { r with touched := false, errorMark := false } r.highlighted).recheck l n

/-- R60: the runtime record of a field at its opening value. -/
def openingRec (d : FormDef) (n : Nat) : FieldRec where
  valueLength := (d.default n).length
  touched := false
  invalid := !(fieldCheck (d.field n) (d.default n))
  errorMark := false
  override := .none
  staleFrom := none

/-- R60: value memory with the opening values of a form at an extent. -/
def openingMemory (d : FormDef) (base : Nat) (m : Memory) : Memory :=
  d.fieldNumbers.foldl
    (fun m n => Memory.writeBytes m (base * Config.granuleBytes + d.offset n) (d.default n)) m

/-- R60: the opening values of a line's instance. -/
def State.openingValues (s : State) (l : LineId) : State :=
  { s with valueMemory := openingMemory (s.formOf l) (s.instOf l).extent.base s.valueMemory }.modInst l
    fun i => { i with fields := (s.formOf l).fieldNumbers.map (openingRec (s.formOf l)) }

/-! ## The free extent list (R46 to R49) -/

/-- R48: first fit: the base of the extent cut and the list that stays. -/
def allocate (size : Nat) : List Extent → Option (Nat × List Extent)
  | [] => none
  | e :: rest =>
    if e.count = size then some (e.base, rest)
    else if size < e.count then some (e.base, ⟨e.base + size, e.count - size⟩ :: rest)
    else
      match allocate size rest with
      | some (b, rest') => some (b, e :: rest')
      | none => none

/-- R49: an entry put in front of the list, merged with the first entry where they touch. -/
def joinFree (e : Extent) : List Extent → List Extent
  | [] => [e]
  | f :: rest => if e.base + e.count = f.base then ⟨e.base, e.count + f.count⟩ :: rest else e :: f :: rest

/-- R49: a released extent is inserted by address and merged with its free neighbours. -/
def releaseExtent (x : Extent) : List Extent → List Extent
  | [] => [x]
  | e :: rest =>
    if e.base + e.count = x.base then joinFree ⟨e.base, e.count + x.count⟩ rest
    else if x.base < e.base then joinFree x (e :: rest)
    else e :: releaseExtent x rest

/-- R46: the number of free granules. -/
def freeGranules (l : List Extent) : Nat := (l.map Extent.count).sum

/-- R46: the count of the largest entry, 0 when the list is empty. -/
def largestFree (l : List Extent) : Nat := (l.map Extent.count).foldl max 0

end Sys2Proof.Machine
end

