-- ==== Sys2Proof/Machine/Keys.lean ====
section
/-! DEFINITION. Keystroke interpretation (chapter 4): from received bytes to runs of actions and characters. -/

namespace Sys2Proof.Machine

/-- R70: an element of a run. -/
inductive Elem where
  | action (a : Action)
  | char (c : Byte)
  deriving DecidableEq, Repr

/-- What a byte, a break marker or a gap expiry releases: the run, the pending bytes it leaves, and whether a byte above
0x7F asked for a bell (R71 to R75). -/
structure Released where
  run : List Elem
  pending : List Byte
  bell : Bool
  deriving DecidableEq, Repr

/-- R70: "An IGNORE element is dropped when the run is formed". -/
def actionRun (a : Action) : List Elem := if a = .ignore then [] else [.action a]

/-- R146: the control map's action for a control byte. -/
def Profile.mapped (p : Profile) (b : Byte) : Action := p.controlMap.getD (if b.toNat = 0x7F then 32 else b.toNat) .ignore

/-- R71: the run of a byte classified alone. -/
def Profile.aloneRun (p : Profile) (b : Byte) : List Elem :=
  if control b then actionRun (p.mapped b) else if printable b then [.char b] else []

/-- R71: does a byte classified alone ask for a bell? -/
def aloneBell (b : Byte) : Bool := !control b && !printable b

/-- R72, case 2: is the sequence a proper leading part of some entry? -/
def Profile.opensEntry (p : Profile) (q : List Byte) : Bool :=
  p.keyTable.any fun e => q.isPrefixOf e.keys && decide (q.length < e.keys.length)

/-- R72, case 1: the action of the entry that is exactly the sequence. -/
def Profile.exactEntry (p : Profile) (q : List Byte) : Option Action :=
  (p.keyTable.find? fun e => e.keys == q).map KeyEntry.action

/-- R73, R75: the longest entry that is a leading part of the pending bytes, looked for from length `n` downward: its
length and action. -/
def Profile.longestEntry (p : Profile) (pending : List Byte) : Nat → Option (Nat × Action)
  | 0 => none
  | n + 1 =>
    match p.exactEntry (pending.take (n + 1)) with
    | some a => some (n + 1, a)
    | none => p.longestEntry pending n

/-- R73, R75: the first release of pending bytes: the action it gives and the bytes left over. -/
def Profile.releaseFirst (p : Profile) (pending : List Byte) : Action × List Byte :=
  match p.longestEntry pending pending.length with
  | some (n, a) => (a, pending.drop n)
  | none => (p.mapped (pending.headD 0), pending.drop 1)

/-- R72, R73: bytes examined one at a time with the pending bytes. Each round consumes a byte or releases pending ones;
`fuel` bounds the rounds. -/
def Profile.examine (p : Profile) : Nat → List Byte → List Byte → Released
  | 0, pending, _ => ⟨[], pending, false⟩
  | _, pending, [] => ⟨[], pending, false⟩
  | fuel + 1, pending, b :: bs =>
    let q := pending ++ [b]
    if p.opensEntry q then p.examine fuel q bs
    else
      match p.exactEntry q with
      | some a =>
        let r := p.examine fuel [] bs
        ⟨actionRun a ++ r.run, r.pending, r.bell⟩
      | none =>
        if pending.isEmpty then
          let r := p.examine fuel [] bs
          ⟨p.aloneRun b ++ r.run, r.pending, aloneBell b || r.bell⟩
        else
          let first := p.releaseFirst pending
          let r := p.examine fuel [] (first.2 ++ b :: bs)
          ⟨actionRun first.1 ++ r.run, r.pending, r.bell⟩

/-- The rounds `examine` may need for `n` bytes in all. -/
def examineFuel (n : Nat) : Nat := (n + 1) * (n + 1)

/-- R72, R73: what a byte taken with the pending bytes releases. -/
def Profile.takeByte (p : Profile) (pending : List Byte) (b : Byte) : Released :=
  p.examine (examineFuel (pending.length + 1)) pending [b]

/-- R75: what a gap expiry releases. -/
def Profile.gapRelease (p : Profile) (pending : List Byte) : Released :=
  if pending.isEmpty then ⟨[], [], false⟩
  else
    let first := p.releaseFirst pending
    let r := p.examine (examineFuel pending.length) [] first.2
    ⟨actionRun first.1 ++ r.run, r.pending, r.bell⟩

/-- R81: what a break marker releases. -/
def Profile.takeBreak (p : Profile) (action : BreakAction) (pending : List Byte) : Released :=
  match action with
  | .ignore => ⟨[], pending, false⟩
  | .refresh =>
    let r := p.gapRelease pending
    ⟨r.run ++ [.action .refresh], r.pending, r.bell⟩
  | .attention =>
    let r := p.gapRelease pending
    ⟨r.run ++ [.action .attention], r.pending, r.bell⟩

/-- R69, R81: what an entry of the type-ahead releases when it is taken. -/
def Profile.takeEntry (p : Profile) (action : BreakAction) (pending : List Byte) : Entry → Released
  | .byte b => p.takeByte pending b
  | .breakMarker => p.takeBreak action pending

/-! ## Which row of R30 applies -/

/-- R30: the rows of the table, from the top. -/
inductive InputRow where
  | noInst
  | detached
  | closing
  | held
  | waits
  | editing
  | awaits
  deriving DecidableEq, Repr

/-- R30: "The rows are taken from the top, and the first that applies decides". The row of CLOSING stands above the row of held,
so bytes are taken and discarded from a held instance in CLOSING, where R24 says that held takes none 'in any phase': the model
follows the table (notes/assumptions/26.md). -/
def Line.inputRow (x : Line) : InputRow :=
  match x.inst with
  | none => .noInst
  | some i =>
    if x.detached then .detached
    else if i.phase = .closing then .closing
    else if i.held then .held
    else if i.phase = .presetting ∨ i.phase = .painting then .waits
    else if i.phase = .editing then .editing
    else .awaits

/-- R30: does the row interpret bytes? -/
def InputRow.interprets : InputRow → Bool
  | .editing => true
  | .awaits => true
  | _ => false

/-- R69, R75: what the Key Interpreter considers next on a line: a due release, or the entry at the head of the
type-ahead. -/
def State.considered (s : State) (l : LineId) : Option Released :=
  if (s.line l).releaseDue then some ((s.lineProfile l).gapRelease (s.line l).pendingKeys)
  else
    match (s.line l).typeAhead with
    | e :: _ => some ((s.lineProfile l).takeEntry (s.line l).config.breakAction (s.line l).pendingKeys e)
    | [] => none

end Sys2Proof.Machine
end

