-- ==== Sys2Proof/Machine/Delivery.lean ====
section
/-! DEFINITION. The delivery unit (chapter 7): the image size, the buffer list and the waiting-lines queue, matching, the
entry image and the delivery notices. -/

namespace Sys2Proof.Machine

/-- R123: the image size: 8 bytes, plus 4 and the value length rounded up to even for every field. -/
def imageSizeOf (fields : List FieldRec) : Nat := 8 + (fields.map fun r => 4 + roundEven r.valueLength).sum

/-- R128: the first descriptor of the list whose length is at least `size`, and the list without it. -/
def findBuffer (size : Nat) : List Descriptor → Option (Descriptor × List Descriptor)
  | [] => none
  | d :: rest =>
    if size ≤ d.length.toNat then some (d, rest)
    else
      match findBuffer size rest with
      | some (x, rest') => some (x, d :: rest')
      | none => none

/-- R169: a request is placed at the tail of the queue. -/
def State.placeRequest (s : State) (r : Request) : State := { s with busQueue := s.busQueue ++ [r] }

/-- R128, R129: an instance holds a descriptor, enters DELIVERING and has a DELIVERY request placed. -/
def State.startDelivery (s : State) (l : LineId) (d : Descriptor) : State :=
  (s.modInst l fun i => { i with phase := .delivering, heldBuffer := some d }).placeRequest
    ⟨.delivery l, d.address, (s.instOf l).imageSize⟩

/-- R128: the match of a successful submission. -/
def State.matchSubmission (s : State) (l : LineId) : State :=
  match findBuffer (s.instOf l).imageSize s.bufferList with
  | some (d, rest) => { s with bufferList := rest }.startDelivery l d
  | none => { s.modInst l (fun i => { i with phase := .awaitBuffer }) with waiting := s.waiting ++ [l] }

/-- R129: the oldest waiting instance whose image size is at most the descriptor's length. -/
def State.takerOf (s : State) (d : Descriptor) : Option LineId :=
  s.waiting.find? fun l => decide ((s.instOf l).imageSize ≤ d.length.toNat)

/-- R127: a line leaves the waiting-lines queue. -/
def State.leaveWaiting (s : State) (l : LineId) : State := { s with waiting := s.waiting.filter (· != l) }

/-- R129: a descriptor that joins the list is offered to the waiting-lines queue; `join` places it where it stays when
nobody takes it. -/
def State.offer (s : State) (d : Descriptor) (join : List Descriptor → List Descriptor) : State :=
  match s.takerOf d with
  | some l => (s.leaveWaiting l).startDelivery l d
  | none => { s with bufferList := join s.bufferList }

/-! ## The entry image (R130, R196) -/

/-- A word as two image bytes, low byte first (R191). -/
def imageWord (w : Word) : List Byte := [lowByte w, highByte w]

/-- R130, R196: the entry of one field. -/
def State.entryBytes (s : State) (l : LineId) (n : Nat) : List Byte :=
  let r := (s.instOf l).field n
  [byte n, byte r.valueLength, r.imageByte ((s.formOf l).field n), 0] ++ s.value l n ++
    (if r.valueLength % 2 = 1 then [0] else [])

/-- R130, R196: the entry image of a line's instance. -/
def State.entryImage (s : State) (l : LineId) : List Byte :=
  let i := s.instOf l
  imageWord (word i.imageSize) ++ imageWord i.serial ++
    [byte l.val, byte i.slot.val, byte (s.formOf l).fieldCount, flagByte i.resubmit] ++
    ((s.formOf l).fieldNumbers.map (s.entryBytes l)).flatten

/-! ## Notices (R95, R96, R97, R131, R132, R195) -/

/-- R195: the FIELD_EXIT notice. -/
def fieldExitRecord (l : LineId) (n : Nat) (serial : Word) : List Word := record 0x04 [wordOf (byte l.val) (byte n), serial]

/-- R195: the ATTENTION notice. -/
def attentionRecord (l : LineId) (field : Option Nat) (serial : Word) (help : Byte) : List Word :=
  record 0x05 [wordOf (byte l.val) (numberOr255 field), serial, wordOf help 0]

/-- R195: the CANCEL_KEY notice. -/
def cancelRecord (l : LineId) (serial : Word) : List Word := record 0x06 [wordOf (byte l.val) 0, serial]

/-- The descriptor an instance holds. -/
def Inst.buffer (i : Inst) : Descriptor := i.heldBuffer.getD ⟨0, 0⟩

/-- R131, R195: the DELIVERED notice. -/
def deliveredRecord (l : LineId) (i : Inst) (closed : Bool) : List Word :=
  record 0x02
    [wordOf (byte l.val) (byte i.slot.val), i.serial, addressLow i.buffer.address,
     wordOf (addressHigh i.buffer.address) (flagByte closed), word i.imageSize]

/-- R132, R195: the DELIVERY_FAULT notice. -/
def deliveryFaultRecord (l : LineId) (i : Inst) : List Word :=
  record 0x03
    [wordOf (byte l.val) 0, i.serial, addressLow i.buffer.address, wordOf (addressHigh i.buffer.address) 0]

end Sys2Proof.Machine
end

