-- ==== Sys2Proof/Machine/Editing.lean ====
section
/-! DEFINITION. The entry engine (chapter 5) and submission (chapter 7): the elements of a run applied to a line's
instance. One function applies an element; the words a run needs (R77) are counted by applying it to the state as it
stands and looking at the count alone. -/

namespace Sys2Proof.Machine

/-- A run under way: the state, the answer-queue words its elements count (R77), and the words of the claim they have
used: posted in notices, or kept as a reservation (R78, R123). -/
structure Run where
  state : State
  need : Nat
  used : Nat

/-- Changing the state of a run. -/
def Run.map (r : Run) (f : State → State) : Run := { r with state := f r.state }

/-- A refused element requests a bell and changes nothing else (R85). -/
def Run.bell (r : Run) (l : LineId) : Run := r.map fun s => s.bell l

/-- R78: a notice of the run is written into the granted room. -/
def Run.notice (r : Run) (words : List Word) : Run :=
  ⟨r.state.post words.length words, r.need + words.length, r.used + words.length⟩

/-- R95: the FIELD_EXIT of a NOTIFY field left with edited-since-entry set. -/
def Run.fieldExit (r : Run) (l : LineId) (n : Nat) : Run :=
  if ((r.state.formOf l).field n).attrs.notify && (r.state.instOf l).edited then
    r.notice (fieldExitRecord l n (r.state.instOf l).serial)
  else r

/-- R84, R95: the cursor leaves field `n`, with its notice, for field `m`. -/
def Run.leaveFor (r : Run) (l : LineId) (n m : Nat) : Run :=
  (r.fieldExit l n).map fun s => s.modInst l fun i => i.enterField m 0

/-! ## Submission (R119 to R123) -/

/-- R121: does a field, its invalid flag set from its check, fail the sweep? -/
def State.failsSweep (s : State) (l : LineId) (n : Nat) : Bool :=
  ((s.instOf l).field n).invalid ||
    (((s.formOf l).field n).attrs.mandatory && decide (effectiveLength (s.value l n) = 0))

/-- R121: the sweep over the given fields: the state it leaves and the first field that fails. -/
def State.sweep (s : State) (l : LineId) : List Nat → State × Option Nat
  | [] => (s, none)
  | n :: ns =>
    let s := s.recheck l n
    if s.failsSweep l n then (s, some n) else s.sweep l ns

/-- R123: a submission that succeeds. -/
def State.succeedSubmission (s : State) (l : LineId) : State :=
  (s.modInst l fun i =>
    { i with
      resubmit := i.late
      late := false
      imageSize := imageSizeOf i.fields
      message := []
      messageStale := true
      reservation := Config.deliveredWords }).matchSubmission l

/-- R122: a submission refused at a field. -/
def State.refuseSubmission (s : State) (l : LineId) (n : Nat) : State :=
  (s.modInst l fun i => (i.modField n fun r => { r with staleFrom := some 0 }).enterField n 0).bell l

/-- R121 to R123: the sweep of a submission whose forward-exit check has passed, and what follows it. -/
def Run.sweepAndSubmit (r : Run) (l : LineId) : Run :=
  match r.state.sweep l ((r.state.instOf l).openFields (r.state.formOf l)) with
  | (s, some n) => { r with state := s.refuseSubmission l n }
  | (s, none) => { r with state := s.succeedSubmission l, used := r.used + Config.deliveredWords }

/-- R77: a submission counts 6 words "whether or not the submission will pass its sweep". -/
def Run.countSubmission (r : Run) : Run := { r with need := r.need + Config.deliveredWords }

/-- R119, R120: a SUBMIT element. -/
def Run.submit (r : Run) (l : LineId) : Run :=
  match (r.state.instOf l).cursorField with
  | none => r.countSubmission.sweepAndSubmit l
  | some n =>
    match r.state.exitCheck l n with
    | (s, true) => { r.countSubmission with state := s }.sweepAndSubmit l
    | (s, false) => { r.countSubmission with state := s }.bell l

/-! ## Leaving a field (R92 to R94) -/

/-- R92, step 4, and R93: a forward exit whose check has passed. -/
def Run.forward (r : Run) (l : LineId) (n : Nat) : Run :=
  match ((r.state.instOf l).openFields (r.state.formOf l)).find? (fun m => decide (n < m)) with
  | some m => r.leaveFor l n m
  | none =>
    match (r.state.formOf l).lastField with
    | .stay => r.bell l
    | .wrap => r.leaveFor l n (((r.state.instOf l).openFields (r.state.formOf l)).headD n)
    | .submit => r.countSubmission.sweepAndSubmit l

/-- R92: NEXT from field `n`. -/
def Run.next (r : Run) (l : LineId) (n : Nat) : Run :=
  match r.state.exitCheck l n with
  | (s, true) => { r with state := s }.forward l n
  | (s, false) => { r with state := s }.bell l

/-- R94: PREV from field `n`. -/
def Run.prev (r : Run) (l : LineId) (n : Nat) : Run :=
  match ((r.state.instOf l).openFields (r.state.formOf l)).reverse.find? (fun m => decide (m < n)) with
  | some m => r.leaveFor l n m
  | none =>
    match (r.state.formOf l).lastField with
    | .wrap => r.leaveFor l n (((r.state.instOf l).openFields (r.state.formOf l)).getLastD n)
    | _ => r.bell l

/-! ## Characters (R86 to R88) -/

/-- R86: the value with the character placed at `p`, or none where it is refused. -/
def placed (mode : InsertMode) (length : Nat) (v : List Byte) (p : Nat) (c : Byte) : Option (List Byte) :=
  match mode with
  | .overwrite =>
    if p < v.length then some (v.set p c)
    else if v.length < length then some (v ++ [c])
    else none
  | .insert => if v.length < length then some (v.take p ++ c :: v.drop p) else none

/-- R52, R87, R90: a clerk edit of field `n`: its new value, first changed at `p`, with the cursor at `pos` after it. -/
def State.clerkEdit (s : State) (l : LineId) (n : Nat) (v : List Byte) (p pos : Nat) : State :=
  ((s.changeValue l n v p).modField l n FieldRec.clerkEdit).modInst l fun i =>
    { i with edited := true, cursorPos := pos, cursorStale := i.cursorStale || decide (pos ≠ i.cursorPos) }

/-- R88: after a placed character, does the NEXT of AUTO_ADVANCE follow? -/
def State.autoAdvances (s : State) (l : LineId) (n : Nat) : Bool :=
  let f := (s.formOf l).field n
  f.attrs.autoAdvance && decide (((s.instOf l).field n).valueLength = f.length) &&
    decide ((s.instOf l).cursorPos = f.length)

/-- R86 to R88: a character typed into field `n`. -/
def Run.char (r : Run) (l : LineId) (n : Nat) (c : Byte) : Run :=
  let s := r.state
  let f := (s.formOf l).field n
  let i := s.instOf l
  let c := fold (s.formOf l) f c
  if f.type.admits c then
    match placed i.insertMode f.length (s.value l n) i.cursorPos c with
    | some v =>
      let s := s.clerkEdit l n v i.cursorPos (i.cursorPos + 1)
      if s.autoAdvances l n then { r with state := s }.next l n else { r with state := s }
    | none => r.bell l
  else r.bell l

/-! ## Movement and deletion (R89, R90) -/

/-- R89: the cursor moves within the value. -/
def State.moveCursor (s : State) (l : LineId) (pos : Nat) : State :=
  s.modInst l fun i =>
    { i with cursorPos := pos, cursorStale := i.cursorStale || decide (pos ≠ i.cursorPos) }

/-- R89 to R94: an action on the cursor field `n`. -/
def Run.onField (r : Run) (l : LineId) (n : Nat) (a : Action) : Run :=
  let s := r.state
  let i := s.instOf l
  let p := i.cursorPos
  let v := s.value l n
  match a with
  | .next => r.next l n
  | .prev => r.prev l n
  | .left => if p = 0 then r.bell l else r.map fun s => s.moveCursor l (p - 1)
  | .right => if p = v.length then r.bell l else r.map fun s => s.moveCursor l (p + 1)
  | .home => r.map fun s => s.moveCursor l 0
  | .toEnd => r.map fun s => s.moveCursor l v.length
  | .rubout => if p = 0 then r.bell l else r.map fun s => s.clerkEdit l n (v.eraseIdx (p - 1)) (p - 1) (p - 1)
  | .delete => if p = v.length then r.bell l else r.map fun s => s.clerkEdit l n (v.eraseIdx p) p p
  | .clearField => if v.isEmpty then r else r.map fun s => s.clerkEdit l n [] 0 0
  | .insertToggle =>
    r.map fun s => s.modInst l fun i =>
      { i with insertMode := match i.insertMode with | .overwrite => .insert | .insert => .overwrite }
  | _ => r

/-! ## Elements and runs (R76, R85, R98) -/

/-- R104, R117: a REFRESH; in EDITING the phase becomes PAINTING. -/
def State.refresh (s : State) (l : LineId) : State :=
  (s.fullRepaint l).modInst l fun i => if i.phase = .editing then { i with phase := .painting } else i

/-- R96: the help code an ATTENTION carries. -/
def State.helpCode (s : State) (l : LineId) : Byte :=
  match (s.instOf l).cursorField with
  | some n => ((s.formOf l).field n).helpCode
  | none => 0

/-- R85, R98: an element applied in EDITING. -/
def Run.inEditing (r : Run) (l : LineId) (e : Elem) : Run :=
  let i := r.state.instOf l
  match e with
  | .action .ignore => r
  | .action .submit => r.submit l
  | .action .cancel => r.notice (cancelRecord l i.serial)
  | .action .attention => r.notice (attentionRecord l i.cursorField i.serial (r.state.helpCode l))
  | .action .refresh => r.map fun s => s.refresh l
  | .action a =>
    match i.cursorField with
    | some n => r.onField l n a
    | none => r.bell l
  | .char c =>
    match i.cursorField with
    | some n => r.char l n c
    | none => r.bell l

/-- R114: field work that an element created on an instance that stood as `i` comes after the message and cursor work left at the
end of a paint, where that waits (notes/assumptions/29.md). -/
def Inst.fieldWorkSince (j i : Inst) : Inst :=
  { j with
    paintLeft := j.paintLeft.map fun ns =>
      ns ++ (List.range j.fields.length).filter fun n =>
        (i.field n).staleFrom.isNone && (j.field n).staleFrom.isSome && !ns.contains n }

/-- R76: "Each element is applied according to the instance's phase at the moment it is applied". -/
def Run.byPhase (l : LineId) (r : Run) (e : Elem) : Run :=
  match (r.state.instOf l).phase with
  | .editing => r.inEditing l e
  | .awaitBuffer => if e = .action .refresh then r.map fun s => s.refresh l else r.bell l
  | .delivering => if e = .action .refresh then r.map fun s => s.refresh l else r.bell l
  | .awaitVerdict => if e = .action .refresh then r.map fun s => s.refresh l else r.bell l
  | _ => r

/-- R76, R114: an element of a run is applied. -/
def Run.elem (l : LineId) (r : Run) (e : Elem) : Run :=
  (r.byPhase l e).map fun s => s.modInst l fun j => j.fieldWorkSince (r.state.instOf l)

/-- R76: a run applied element by element, in order. -/
def State.applyRun (s : State) (l : LineId) (es : List Elem) : Run := es.foldl (Run.elem l) ⟨s, 0, 0⟩

/-- R77: the answer-queue words a run would need if it were applied to the instance as it now stands. -/
def State.runNeed (s : State) (l : LineId) (es : List Elem) : Nat := (s.applyRun l es).need

/-! ## Taking a byte (R69, R75, R78) -/

/-- The Key Interpreter after a release: its pending bytes, with no release due and the gap timer stopped, and the bell
that bytes above 0x7F ask for. -/
def State.afterRelease (s : State) (l : LineId) (rel : Released) : State :=
  let s := s.modLine l fun x => { x with pendingKeys := rel.pending, gapTimer := .stopped, releaseDue := false }
  if rel.bell then s.bell l else s

/-- R75, R76: a release of pending bytes is applied; it is no keystroke (R69). -/
def State.applyRelease (s : State) (l : LineId) (rel : Released) : Run := (s.afterRelease l rel).applyRun l rel.run

/-- R69, R101: the entry at the head leaves the type-ahead, its run is applied, and the keystroke ends a spent inactivity
timer and begins a running one anew. -/
def State.takeHead (s : State) (l : LineId) (rel : Released) : Run :=
  ((s.modLine l fun x => { x with typeAhead := x.typeAhead.drop 1 }).applyRelease l rel).map fun s =>
    s.modInst l fun i => { i with inactivity := .stopped }

/-- R69, R78: the due release is applied, or the entry at the head taken. -/
def State.takeConsidered (s : State) (l : LineId) (rel : Released) : Run :=
  if (s.line l).releaseDue then s.applyRelease l rel else s.takeHead l rel

/-! ## What follows a happening on a line -/

/-- R74: the gap timer runs while pending bytes are held, the row of R30 allows interpretation and the type-ahead is
empty (and no release stands due, R75); it starts from the full key gap whenever that comes to hold. -/
def Line.settleGap (x : Line) : Line :=
  if !x.pendingKeys.isEmpty && x.inputRow.interprets && x.typeAhead.isEmpty && !x.releaseDue then
    if x.gapTimer.isRunning then x else { x with gapTimer := .running x.config.keyGap }
  else { x with gapTimer := .stopped }

/-- R101: the condition under which the inactivity timer runs. -/
def Line.inactivityRuns (x : Line) (i : Inst) : Bool := decide (i.phase = .editing) && !i.held && !x.detached

/-- R101: a stopped timer starts when its condition begins to hold, a running one stops when it ends, a spent one waits
for a keystroke. -/
def Line.settleInactivity (x : Line) : Line :=
  match x.inst with
  | none => x
  | some i =>
    let t :=
      match i.inactivity with
      | .stopped => if x.inactivityRuns i then Timer.start (x.config.inactivity * Config.ticksPerSecond) else .stopped
      | .running n => if x.inactivityRuns i then .running n else .stopped
      | .spent => .spent
    { x with inst := some { i with inactivity := t } }

/-- R77, R79, R80, R166: the line's claim: a waiting key claim stays while the row of R30 is EDITING's; otherwise event
flags claim their record; otherwise what the Key Interpreter considers claims the words it needs. -/
def State.lineClaim (s : State) (l : LineId) : LineClaim :=
  match (s.line l).claim, (s.line l).inputRow with
  | .key n, .editing => .key n
  | _, row =>
    if (s.line l).flags.any then .event
    else if row = .editing then
      match s.considered l with
      | some rel => if s.runNeed l rel.run = 0 then .absent else .key (s.runNeed l rel.run)
      | none => .absent
    else .absent

/-- What every happening on a line leaves behind it, in the same happening: the inactivity timer, the gap timer and the
line's claim follow the state (R74, R77, R79, R80, R101, R166). -/
def State.settle (s : State) (l : LineId) : State :=
  let s := s.modLine l fun x => x.settleInactivity.settleGap
  s.modLine l fun x => { x with claim := s.lineClaim l }

/-- R166: an event flag is set, on an ON line only. -/
def State.setFlag (s : State) (l : LineId) (f : EventFlags → EventFlags) : State :=
  s.modLine l fun x => if x.on then { x with flags := f x.flags } else x

end Sys2Proof.Machine
end

