-- ==== Sys2Proof/Machine/Screen.lean ====
section
/-! DEFINITION. Screen maintenance (chapter 6) and the address encodings of a profile (R142 to R144): the update units, the
order in which they are chosen, and the end of a paint. -/

namespace Sys2Proof.Machine

/-! ## Addresses (R107, R142 to R144) -/

/-- R144: the decimal digits of a number up to 999, without leading zeros. -/
def decimalBytes (n : Nat) : List Byte :=
  if n < 10 then [byte (0x30 + n)]
  else if n < 100 then [byte (0x30 + n / 10), byte (0x30 + n % 10)]
  else [byte (0x30 + n / 100), byte (0x30 + n / 10 % 10), byte (0x30 + n % 10)]

/-- R143, R144: a coordinate as the profile writes it. -/
def Encoding.bytes : Encoding → Nat → List Byte
  | .binary offset, n => [byte (n + offset.toNat)]
  | .decimal origin, n => decimalBytes (n + origin)

/-- R142: the address of a screen position. -/
def Profile.address (p : Profile) (row col : Nat) : List Byte :=
  let first := match p.order with | .rowFirst => row | .colFirst => col
  let second := match p.order with | .rowFirst => col | .colFirst => row
  p.lead ++ p.encoding.bytes first ++ p.separator.toList ++ p.encoding.bytes second ++ p.trailer

/-- R107: the address, omitted when the known terminal cursor already equals the position. -/
def Profile.addressFrom (p : Profile) (known : Option (Nat × Nat)) (row col : Nat) : List Byte :=
  if known = some (row, col) then [] else p.address row col

/-! ## Units (R108 to R113) -/

/-- R105: the six kinds of unit; a text item and a field carry their number. -/
inductive UnitKind where
  | clear
  | bell
  | text (k : Nat)
  | field (n : Nat)
  | message
  | cursor
  deriving DecidableEq, Repr

/-- R104, R110: the text item the full-paint text index names; "an index of 0 on such a form counts as NONE". -/
def Inst.textToPaint (i : Inst) (d : FormDef) : Option Nat :=
  match i.textIndex with
  | some k => if k < d.texts.length then some k else none
  | none => none

/-- R114: does the work of field `n` come after the message and cursor work left at the end of a paint? -/
def Inst.waitsBehind (i : Inst) (n : Nat) : Bool := (i.paintLeft.getD []).contains n

/-- R111: the lowest-numbered field whose stale from is not NONE, among those that wait behind the work a paint left, or among the
others. -/
def Inst.staleField (i : Inst) (behind : Bool) : Option Nat :=
  (List.range i.fields.length).find? fun n => (i.field n).staleFrom.isSome && i.waitsBehind n == behind

/-- R105, orders 3 to 6: the unit an instance's display work calls for. R114: message and cursor work left at the end of a paint comes
"before any field work the clerk's first keystrokes create" (notes/assumptions/29.md). -/
def Inst.nextUnit (i : Inst) (d : FormDef) : Option UnitKind :=
  match i.textToPaint d with
  | some k => some (.text k)
  | none =>
    match i.staleField false with
    | some n => some (.field n)
    | none =>
      if i.messageStale then some .message
      else if i.cursorStale then some .cursor
      else (i.staleField true).map .field

/-- R105: the unit chosen. -/
def State.nextUnit (s : State) (l : LineId) : Option UnitKind :=
  if (s.line l).clearPending then some .clear
  else if (s.line l).bellPending then some .bell
  else
    match s.inst l with
    | some i => i.nextUnit (s.form i)
    | none => none

/-- The definition of no text item. -/
def TextItem.blank : TextItem := ⟨0, 0, 0, 0, .plain⟩

/-- R111: the characters of a field unit from position `start`: the value, concealed where the field is, and fill bytes
up to the field length. -/
def fieldChars (f : FieldDef) (v : List Byte) (start : Nat) : List Byte :=
  (v.drop start).map (fun b => if f.attrs.concealed then 0x2A else b) ++
    List.replicate (f.length - max start v.length) f.fill

/-- R112: the width of the message row. -/
def FormDef.messageWidth (d : FormDef) : Nat := min 80 (d.columns - 1)

/-- R112: the characters of the message row. -/
def messageChars (w : Nat) (m : List Byte) : List Byte := m.take w ++ List.replicate (w - m.length) space

/-- Bytes between the highlight sequences (R145). -/
def Profile.lit (p : Profile) (on : Bool) (bs : List Byte) : List Byte :=
  if on then p.highlightOn ++ bs ++ p.highlightOff else bs

/-- R108 to R113: the bytes of a unit and the known terminal cursor after it. -/
def State.unitBytes (s : State) (l : LineId) (u : UnitKind) : List Byte × Option (Nat × Nat) :=
  let p := s.lineProfile l
  let known := (s.line l).knownCursor
  let i := s.instOf l
  let d := s.formOf l
  match u with
  | .clear => (p.clear, some (0, 0))
  | .bell => ([p.bell], known)
  | .text k =>
    let t := d.texts.getD k TextItem.blank
    (p.addressFrom known t.row t.col ++ p.lit (t.style == .highlight) (d.poolBytes t.textOffset t.textLength),
      if t.col + t.textLength = d.columns then none else some (t.row, t.col + t.textLength))
  | .field n =>
    let f := d.field n
    let start := (i.field n).staleFrom.getD 0
    (p.addressFrom known f.row (f.col + start) ++
        p.lit (i.field n).highlighted (fieldChars f (s.value l n) start),
      some (f.row, f.col + f.length))
  | .message =>
    match d.messageRow with
    | none => ([], known)
    | some row =>
      (p.addressFrom known row 0 ++ p.lit true (messageChars d.messageWidth i.message), some (row, d.messageWidth))
  | .cursor =>
    match i.cursorField with
    | none => ([], known)
    | some n =>
      let f := d.field n
      (p.addressFrom known f.row (f.col + i.cursorPos), some (f.row, f.col + i.cursorPos))

/-- R112, R114: the message is shown; nothing is left of a paint when the cursor is not stale either. -/
def Inst.messageShown (i : Inst) : Inst :=
  { i with messageStale := false, paintLeft := if i.cursorStale then i.paintLeft else none }

/-- R113, R114: the cursor is placed, and nothing is left of a paint. It stays stale where field work waits behind it, since that
work moves the terminal's cursor again (notes/assumptions/29.md). -/
def Inst.cursorShown (i : Inst) : Inst :=
  { i with cursorStale := !(i.paintLeft.getD []).isEmpty, paintLeft := none }

/-- R108 to R113: composing a unit takes its mark out of the display work. -/
def State.clearMark (s : State) (l : LineId) (u : UnitKind) : State :=
  match u with
  | .clear => s.modLine l fun x => { x with clearPending := false }
  | .bell => s.modLine l fun x => { x with bellPending := false }
  | .text k =>
    s.modInst l fun i => { i with textIndex := if k + 1 < (s.formOf l).texts.length then some (k + 1) else none }
  | .field n => s.modField l n fun r => { r with staleFrom := none }
  | .message => s.modInst l Inst.messageShown
  | .cursor => s.modInst l Inst.cursorShown

/-- R114: no clear pending, no text item to paint and no stale field. -/
def State.paintDone (s : State) (l : LineId) : Bool :=
  !(s.line l).clearPending && ((s.instOf l).textToPaint (s.formOf l)).isNone &&
    (s.instOf l).fields.all fun r => r.staleFrom.isNone

/-- R114: the phase becomes EDITING, and message and cursor work that remains is left to be composed first. -/
def Inst.endPaint (i : Inst) : Inst :=
  { i with phase := .editing, paintLeft := if i.messageStale || i.cursorStale then some [] else none }

/-- R114: the end of a paint. -/
def State.endPaint (s : State) (l : LineId) : State :=
  if (s.instOf l).phase = .painting ∧ !(s.line l).detached ∧ s.paintDone l then
    s.modInst l Inst.endPaint
  else s

/-- R105, R106: the unit that is composed now: the one chosen, on an ON line that is not detached, when the output queue
has room for the whole of it. -/
def State.composable (s : State) (l : LineId) : Option UnitKind :=
  if (s.line l).on && !(s.line l).detached then
    match s.nextUnit l with
    | some u =>
      if (s.unitBytes l u).1.length ≤ Config.outputRoom - (s.line l).output.length then some u else none
    | none => none
  else none

/-- R105 to R114: one update unit is composed. -/
def State.compose (s : State) (l : LineId) : State :=
  match s.composable l with
  | some u =>
    (((s.modLine l fun x =>
      { x with output := x.output ++ (s.unitBytes l u).1, knownCursor := (s.unitBytes l u).2 }).clearMark l u).endPaint
        l).settle l
  | none => s

end Sys2Proof.Machine
end

