-- ==== Sys2Proof/Machine/Instances.lean ====
section
/-! DEFINITION. The instance table (chapter 2): serials, the checks of an instance command, opening, retirement, closing
and the end of a deferred close. -/

namespace Sys2Proof.Machine

/-! ## Serials (R27) -/

/-- R27: the value after a serial, wrapping from 65535 to 1. -/
def nextSerialAfter (v : Word) : Word := if v.toNat = 65535 then 1 else v + 1

/-- R27: the serials held by live instances. -/
def State.heldSerials (s : State) : List Word := allLines.filterMap fun l => (s.inst l).map Inst.serial

/-- R27: "Values are tried upward": the first of `tries` values from `v` that is not held. -/
def pickSerial (held : List Word) : Nat → Word → Word
  | 0, v => v
  | n + 1, v => if held.contains v then pickSerial held n (nextSerialAfter v) else v

/-- R27: the serial taken; "the choice ends within twelve tries", and at a RENEW the old serial counts as held. -/
def State.takenSerial (s : State) : Word := pickSerial s.heldSerials 13 s.nextSerial

/-! ## The checks of R28 -/

/-- R28: the phase check: none when the command acts. -/
def phaseCheck (code : CommandCode) (i : Inst) : Option Status :=
  match code, i.phase with
  | .closeForm, .closing => some .closing
  | .closeForm, _ => none
  | .clearEntry, .painting => none
  | .clearEntry, .editing => none
  | .clearEntry, .awaitBuffer => some .frozen
  | .clearEntry, .delivering => some .frozen
  | .clearEntry, .awaitVerdict => some .frozen
  | .clearEntry, _ => some .wrongPhase
  | .holdInput, .closing => some .wrongPhase
  | .holdInput, _ => none
  | .resumeInput, .closing => some .wrongPhase
  | .resumeInput, _ => none
  | .readField, .presetting => some .wrongPhase
  | .readField, _ => none
  | .writeField, .painting => none
  | .writeField, .editing => none
  | .writeField, .awaitBuffer => some .frozen
  | .writeField, .delivering => some .frozen
  | .writeField, .awaitVerdict => some .frozen
  | .writeField, _ => some .wrongPhase
  | .setFieldState, .painting => none
  | .setFieldState, .editing => none
  | .setFieldState, .awaitBuffer => none
  | .setFieldState, .awaitVerdict => none
  | .setFieldState, .delivering => some .frozen
  | .setFieldState, _ => some .wrongPhase
  | .placeCursor, .painting => none
  | .placeCursor, .editing => none
  | .placeCursor, _ => some .wrongPhase
  | .showMessage, .closing => some .wrongPhase
  | .showMessage, _ => none
  | .repaint, .presetting => some .wrongPhase
  | .repaint, .closing => some .wrongPhase
  | .repaint, _ => none
  | .acceptEntry, .awaitVerdict => none
  | .acceptEntry, .editing => if i.late then some .tooLate else some .wrongPhase
  | .acceptEntry, _ => some .wrongPhase
  | .returnEntry, .awaitVerdict => none
  | .returnEntry, .awaitBuffer => none
  | .returnEntry, .editing => if i.late then some .tooLate else some .wrongPhase
  | .returnEntry, _ => some .wrongPhase
  | _, _ => none

/-- R192: the serial a command carries; HOLD INPUT and RESUME INPUT "pass check 3 of R28 as a command carrying serial 0
does". -/
def Command.serial (c : Command) : Word :=
  match c.code with
  | .holdInput => 0
  | .resumeInput => 0
  | _ => c.arg 0

/-- R28: the four checks of a command that names an instance, in order. -/
def State.instCheck (s : State) (c : Command) : Except Status (LineId × Inst) :=
  match lineOf c.target with
  | none => .error .badLine
  | some l =>
    match s.inst l with
    | none => .error .noInstance
    | some i =>
      if c.serial ≠ 0 ∧ c.serial ≠ i.serial then .error .stale
      else
        match phaseCheck c.code i with
        | some st => .error st
        | none => .ok (l, i)

/-- R28: a command that names an instance: the first failing check gives the result and changes nothing; otherwise its
owner acts, and what follows on the line follows in the same happening. -/
def State.onInst (s : State) (c : Command) (act : LineId → Inst → State → State) : State :=
  match s.instCheck c with
  | .error st => s.reply c st []
  | .ok (l, i) => (act l i s).settle l

/-! ## Retirement (R29) -/

/-- R2, R29: the use count of a slot falls by one. -/
def State.dropUse (s : State) (k : SlotId) : State := s.setSlot k { s.slot k with useCount := (s.slot k).useCount - 1 }

/-- R175: the queued request of an owner is withdrawn. -/
def State.withdraw (s : State) (o : Owner) : State := { s with busQueue := s.busQueue.filter fun r => r.owner != o }

/-- R29: the instance of a line is retired: its extent, its slot's use, what it holds elsewhere, the Key Interpreter, the
type-ahead, its display work and its record. -/
def State.retire (s : State) (l : LineId) : State :=
  match s.inst l with
  | none => s
  | some i =>
    let s := { s with freeList := releaseExtent i.extent s.freeList }
    let s := s.dropUse i.slot
    let s := ((s.leaveWaiting l).withdraw (.presetFetch l)).withdraw (.delivery l)
    let s := s.release i.reservation
    s.modLine l fun x => { x.clearKeys with typeAhead := [], inst := none }

/-! ## Opening (R31 to R33) -/

/-- R31, step 5: the record of an instance just opened, before its values and cursor. -/
def openedInst (k : SlotId) (serial : Word) (extent : Extent) (phase : Phase) : Inst :=
  { Inst.blank with slot := k, serial := serial, extent := extent, phase := phase }

/-- R31: the effects of an OPEN FORM that is taken, up to the cursor. -/
def State.open_ (s : State) (l : LineId) (k : SlotId) (base : Nat) (free : List Extent) (phase : Phase) : State :=
  let d := (s.slot k).form
  let i := openedInst k s.takenSerial ⟨base, d.extentSize⟩ phase
  let s := { s with freeList := free, nextSerial := nextSerialAfter s.takenSerial }
  let s := s.setSlot k { s.slot k with useCount := (s.slot k).useCount + 1 }
  ((s.setInst l (some i)).openingValues l).modInst l fun i => { i.enterFirst d with cursorStale := false }

/-! ## Closing (R39, R40, R42) -/

/-- What a CLOSE FORM or RESET LINE brings to the end of an instance. -/
structure Closer where
  tag : Byte
  clear : Bool
  reservation : Nat
  deriving DecidableEq, Repr

/-- R39: the result of a close, with the data words of a descriptor given up. -/
def State.closeResult (s : State) (c : Closer) (data : List Word) : State :=
  s.post c.reservation (resultRecord c.tag .ok data)

/-- R39: the instance is retired at once and the result posted; a clear is queued where the flag asks for it (R42). -/
def State.closeNow (s : State) (l : LineId) (c : Closer) (data : List Word) : State :=
  ((s.retire l).queueClear l c.clear).closeResult c data

/-- R39, R44: a close that must wait for a transfer is kept as pending close. -/
def State.deferClose (s : State) (l : LineId) (c : Closer) : State :=
  s.modInst l fun i =>
    { i with phase := .closing, pendingClose := i.pendingClose ++ [⟨c.tag, c.clear, c.reservation⟩] }

/-- Is the transfer in progress that of the owner? -/
def State.inProgress (s : State) (o : Owner) : Bool :=
  match s.transfer with
  | some r => r.owner == o
  | none => false

/-- R195: the data words of a descriptor given up. -/
def descriptorWords (d : Descriptor) : List Word := [addressLow d.address, wordOf (addressHigh d.address) 0, d.length]

/-- R39: the OPEN result an instance in PRESETTING owes, posted into its reservation. -/
def State.postOpen (s : State) (l : LineId) (st : Status) (data : List Word) : State :=
  let i := s.instOf l
  (s.post i.reservation (resultRecord (i.pendingOpen.getD 0) st data)).modInst l
    fun i => { i with reservation := 0, pendingOpen := none }

/-- R39: an instance is ended by phase by a CLOSE FORM, or by a RESET LINE in its place (R44). -/
def State.closeInst (s : State) (l : LineId) (i : Inst) (c : Closer) : State :=
  match i.phase with
  | .presetting =>
    if s.inProgress (.presetFetch l) then s.deferClose l c
    else ((s.withdraw (.presetFetch l)).postOpen l .closedEarly []).closeNow l c []
  | .delivering =>
    if s.inProgress (.delivery l) then s.deferClose l c
    else
      let d := i.buffer
      let s := s.withdraw (.delivery l)
      if s.bufferList.length < Config.bufferRoom then (s.offer d fun ds => d :: ds).closeNow l c []
      else s.closeNow l c (descriptorWords d)
  | .closing => s.deferClose l c
  | _ => s.closeNow l c []

/-- R40, step 3: each tag in pending close is answered, in order. -/
def State.answerCloses (s : State) : List PendingClose → State
  | [] => s
  | p :: ps => (s.post p.reservation (resultRecord p.tag .ok [])).answerCloses ps

/-- R40: the end of the transfer an instance in CLOSING waited for, with the record it owed. -/
def State.endClosing (s : State) (l : LineId) (owed : List Word) : State :=
  let i := s.instOf l
  let s := (s.post i.reservation owed).modInst l fun i => { i with reservation := 0 }
  (((s.retire l).answerCloses i.pendingClose).queueClear l (i.pendingClose.any PendingClose.clear)).settle l

end Sys2Proof.Machine
end

