-- ==== Sys2Proof/Machine/FormLibrary.lean ====
section
/-! DEFINITION. The form library (chapter 1): the checks of a form image, LOAD FORM, DISCARD FORM, QUERY FORM and the end
of a form fetch. -/

namespace Sys2Proof.Machine

/-! ## Reading an image (R191, R196) -/

/-- Byte `k` of an image. -/
def imageByte (img : List Byte) (k : Nat) : Byte := img.getD k 0

/-- Byte `k` of an image as a number. -/
def imageNat (img : List Byte) (k : Nat) : Nat := (imageByte img k).toNat

/-- The two-byte number at byte `k` of an image, low byte first. -/
def imageNat2 (img : List Byte) (k : Nat) : Nat := twoBytes (imageByte img k) (imageByte img (k + 1))

/-- A run of bytes of an image. -/
def imageRun (img : List Byte) (k n : Nat) : List Byte := (img.drop k).take n

/-- Is bit `k` of a byte set? -/
def bitSet (b : Byte) (k : Nat) : Bool := b.toNat / 2 ^ k % 2 == 1

/-! ## The form image (R13 to R16, R196) -/

/-- R196: the LAST_FIELD of the options byte. -/
def lastFieldOf (options : Byte) : Option LastField :=
  match options.toNat % 4 with
  | 0 => some .stay
  | 1 => some .wrap
  | 2 => some .submit
  | _ => none

/-- R196: the type of a field. -/
def fieldTypeOf (b : Byte) : Option FieldType :=
  match b.toNat with
  | 0 => some .text
  | 1 => some .alpha
  | 2 => some .digits
  | 3 => some .amount
  | _ => none

/-- R196: the attributes of a field. -/
def attrsOf (b : Byte) : FieldAttrs :=
  ⟨bitSet b 0, bitSet b 1, bitSet b 2, bitSet b 3, bitSet b 4, bitSet b 5⟩

/-- R196: the row NONE of the message row. -/
def messageRowOf (b : Byte) : Option Nat := if b.toNat = 255 then none else some b.toNat

/-- R196: the field definition that begins at byte `k`. -/
def fieldDefAt (img : List Byte) (k : Nat) : FieldDef where
  row := imageNat img k
  col := imageNat img (k + 1)
  length := imageNat img (k + 2)
  type := (fieldTypeOf (imageByte img (k + 3))).getD .text
  scale := imageNat img (k + 4)
  minLength := imageNat img (k + 5)
  attrs := attrsOf (imageByte img (k + 6))
  fill := imageByte img (k + 7)
  defaultOffset := imageNat2 img (k + 8)
  defaultLength := imageNat img (k + 10)
  helpCode := imageByte img (k + 11)

/-- R196: the text item that begins at byte `k`. -/
def textItemAt (img : List Byte) (k : Nat) : TextItem where
  row := imageNat img k
  col := imageNat img (k + 1)
  textOffset := imageNat2 img (k + 2)
  textLength := imageNat img (k + 4)
  style := if imageNat img (k + 5) = 1 then .highlight else .plain

/-- R196: "Field definition n begins at byte 16 + 12n". -/
def fieldPlace (n : Nat) : Nat := 16 + 12 * n

/-- R196: "Text item k begins at byte 16 + 12 × field count + 6k". -/
def textPlace (img : List Byte) (k : Nat) : Nat := 16 + 12 * imageNat img 11 + 6 * k

/-- R196: "The pool follows the last text item". -/
def poolPlace (img : List Byte) : Nat := textPlace img (imageNat img 12)

/-- R14: the total length the header declares. -/
def declaredTotal (img : List Byte) : Nat := 16 + 12 * imageNat img 11 + 6 * imageNat img 12 + imageNat2 img 14

/-- R196: the definition an image holds; R10 gives its value total. -/
def formOfImage (img : List Byte) : FormDef :=
  let fields := (List.range (imageNat img 11)).map fun n => fieldDefAt img (fieldPlace n)
  { name := imageRun img 2 6
    rows := imageNat img 8
    columns := imageNat img 9
    messageRow := messageRowOf (imageByte img 10)
    lastField := (lastFieldOf (imageByte img 13)).getD .stay
    upper := bitSet (imageByte img 13) 2
    fields := fields
    texts := (List.range (imageNat img 12)).map fun k => textItemAt img (textPlace img k)
    pool := imageRun img (poolPlace img) (imageNat2 img 14)
    valueTotal := (fields.map FieldDef.length).sum }

/-- R14: the header checks, in order. -/
def headerCheck (img : List Byte) (length : Nat) : Option Nat :=
  firstOf
    [(!(imageByte img 0 == 0x48 && imageByte img 1 == 0x46), 1),
     (imageNat img 8 == 0 || decide (32 < imageNat img 8), 2),
     (decide (imageNat img 9 < 20) || decide (132 < imageNat img 9), 3),
     (!decide (imageNat img 10 < imageNat img 8) && !(imageNat img 10 == 255), 4),
     (imageNat img 11 == 0 || decide (48 < imageNat img 11), 5),
     (decide (32 < imageNat img 12), 6),
     ((lastFieldOf (imageByte img 13)).isNone || decide (8 ≤ imageNat img 13), 7),
     (decide (1024 < imageNat2 img 14), 8),
     (declaredTotal img != length, 9)]

/-- R15: the checks of one field, in order. -/
def fieldDefCheck (img : List Byte) (n : Nat) : Option Nat :=
  let k := fieldPlace n
  let d := formOfImage img
  let f := fieldDefAt img k
  firstOf
    [(decide (d.rows ≤ f.row), 10),
     (d.messageRow == some f.row, 11),
     (f.length == 0 || decide (80 < f.length), 12),
     (decide (d.columns ≤ f.col + f.length), 13),
     ((fieldTypeOf (imageByte img (k + 3))).isNone, 14),
     ((f.type == .amount && (decide (4 < f.scale) || (decide (0 < f.scale) && decide (f.length < f.scale + 2)))) ||
        (f.type != .amount && f.scale != 0), 15),
     (decide (f.length < f.minLength), 16),
     (decide (64 ≤ imageNat img (k + 6)), 17),
     (!printable f.fill, 18),
     (decide (0 < f.defaultLength) && decide (d.pool.length < f.defaultOffset + f.defaultLength), 19),
     (decide (f.length < f.defaultLength), 20),
     (!(d.poolBytes f.defaultOffset f.defaultLength).all printable, 21)]

/-- R16: do two fields lie on one row with column ranges that share a column? -/
def overlap (f g : FieldDef) : Bool :=
  f.row == g.row && decide (f.col < g.col + g.length) && decide (g.col < f.col + f.length)

/-- R16: the overlap check of field `n` with every earlier field. -/
def overlapCheck (img : List Byte) (n : Nat) : Option Nat :=
  if (List.range n).any fun m => overlap (fieldDefAt img (fieldPlace n)) (fieldDefAt img (fieldPlace m)) then some 22
  else none

/-- R16: the checks of one text item, in order. -/
def textItemCheck (img : List Byte) (k : Nat) : Option Nat :=
  let d := formOfImage img
  let t := textItemAt img (textPlace img k)
  firstOf
    [(decide (d.rows ≤ t.row), 23),
     (t.textLength == 0 || decide (80 < t.textLength), 24),
     (decide (d.columns < t.col + t.textLength), 25),
     (decide (d.pool.length < t.textOffset + t.textLength), 26),
     (!(d.poolBytes t.textOffset t.textLength).all printable, 27),
     (decide (1 < imageNat img (textPlace img k + 5)), 28)]

/-- R13: the four stages of the checks: the first check that fails, with its item index. -/
def formImageCheck (img : List Byte) (length : Nat) : Option (Nat × Nat) :=
  match headerCheck img length with
  | some code => some (code, 0)
  | none =>
    match firstSome (fieldDefCheck img) (List.range (imageNat img 11)) with
    | some e => some e
    | none =>
      match firstSome (overlapCheck img) (List.range (imageNat img 11)) with
      | some e => some e
      | none => firstSome (textItemCheck img) (List.range (imageNat img 12))

/-! ## The slot commands (R11, R18, R19) -/

/-- R1: is the slot LOADING? -/
def Slot.isLoading (k : Slot) : Bool :=
  match k.state with
  | .loading _ _ => true
  | _ => false

/-- R1: is the slot EMPTY? -/
def Slot.isEmpty (k : Slot) : Bool :=
  match k.state with
  | .empty => true
  | _ => false

/-- R11: LOAD FORM at the Form Library. -/
def loadForm (c : Command) (s : State) : State :=
  match slotOf c.target.toNat with
  | none => s.reply c .badSlot []
  | some k =>
    let address := hostAddress (c.arg 0) (c.arg 1)
    let length := (c.arg 2).toNat
    match firstOf
      [(decide (length < 16) || decide (1808 < length) || !rangeOk address length, Status.badArgument),
       ((s.slot k).isLoading, .slotBusy),
       (decide (0 < (s.slot k).useCount), .inUse)] with
    | some st => s.reply c st []
    | none =>
      (s.setSlot k ⟨.loading c.tag c.code.reservation, 0⟩).placeRequest
        ⟨.formFetch k, BitVec.ofNat 24 address, length⟩

/-- R18: DISCARD FORM at the Form Library. -/
def discardForm (c : Command) (s : State) : State :=
  match slotOf c.target.toNat with
  | none => s.reply c .badSlot []
  | some k =>
    match firstOf
      [((s.slot k).isLoading, Status.slotBusy),
       (decide (0 < (s.slot k).useCount), .inUse),
       ((s.slot k).isEmpty, .slotEmpty)] with
    | some st => s.reply c st []
    | none => (s.setSlot k ⟨.empty, 0⟩).reply c .ok []

/-- R195: the code of a slot's state. -/
def Slot.code (k : Slot) : Byte :=
  match k.state with
  | .empty => 0
  | .loading _ _ => 1
  | .ready _ => 2

/-- R19: what QUERY FORM reports of a slot. -/
def Slot.figures (k : Slot) : List Word :=
  match k.state with
  | .ready d =>
    wordOf k.code (byte k.useCount) :: wordsOfBytes d.name ++ [word d.fieldCount, word d.valueTotal]
  | _ => [wordOf k.code (byte k.useCount), 0, 0, 0, 0, 0]

/-- R19: QUERY FORM at the Form Library. -/
def queryForm (c : Command) (s : State) : State :=
  match slotOf c.target.toNat with
  | none => s.reply c .badSlot []
  | some k => s.reply c .ok (s.slot k).figures

/-- A LOAD FORM command is taken. -/
def effectLoadForm (s : State) : State :=
  s.takeCommand (fun c => c.code == .loadForm) loadForm

/-- A DISCARD FORM command is taken. -/
def effectDiscardForm (s : State) : State :=
  s.takeCommand (fun c => c.code == .discardForm) discardForm

/-- A QUERY FORM command is taken. -/
def effectQueryForm (s : State) : State :=
  s.takeCommand (fun c => c.code == .queryForm) queryForm

/-! ## The end of a fetch (R13, R17) -/

/-- R13, R17, R186: the result of a LOAD FORM is posted into its reservation and the slot takes its new state. -/
def State.endLoad (s : State) (k : SlotId) (new : SlotState) (st : Status) (data : List Word) : State :=
  match (s.slot k).state with
  | .loading tag reservation => (s.setSlot k ⟨new, 0⟩).post reservation (resultRecord tag st data)
  | _ => s

/-- R13: the Form Library takes the image of a slot's fetch. -/
def State.formFetched (s : State) (k : SlotId) (img : List Byte) (length : Nat) : State :=
  match formImageCheck img length with
  | some (code, index) => s.endLoad k .empty .badImage [word code, word index]
  | none =>
    s.endLoad k (.ready (formOfImage img)) .ok [word (formOfImage img).fieldCount, word (formOfImage img).valueTotal]

/-- R17: the FORM_FETCH of a slot ends with a bus fault. -/
def State.formFaulted (s : State) (k : SlotId) : State := s.endLoad k .empty .busFault []

end Sys2Proof.Machine
end

