-- ==== Sys2Proof/Machine/ProfileStore.lean ====
section
/-! DEFINITION. The profile store (chapter 8): the checks of a profile image, SET PROFILE and the end of a profile fetch. -/

namespace Sys2Proof.Machine

/-! ## The profile image (R150, R196) -/

/-- R70: the action of a number; above 14 names none. -/
def actionOf (b : Byte) : Option Action :=
  match b.toNat with
  | 0 => some .ignore
  | 1 => some .next
  | 2 => some .prev
  | 3 => some .left
  | 4 => some .right
  | 5 => some .home
  | 6 => some .toEnd
  | 7 => some .rubout
  | 8 => some .delete
  | 9 => some .clearField
  | 10 => some .insertToggle
  | 11 => some .submit
  | 12 => some .cancel
  | 13 => some .attention
  | 14 => some .refresh
  | _ => none

/-- R196: "Key place k begins at byte 75 + 6k". -/
def keyPlace (k : Nat) : Nat := 75 + 6 * k

/-- R196: the sequence of key place `k`. -/
def keySequence (img : List Byte) (k : Nat) : List Byte := imageRun img (keyPlace k + 1) (imageNat img (keyPlace k))

/-- R196: the encoding an image gives. -/
def encodingOf (img : List Byte) : Encoding :=
  if imageNat img 22 = 1 then .decimal (imageNat img 23) else .binary (imageByte img 23)

/-- R196: the record an image holds. -/
def profileOfImage (img : List Byte) : Profile where
  clear := imageRun img 3 (imageNat img 2)
  lead := imageRun img 12 (imageNat img 11)
  trailer := imageRun img 17 (imageNat img 16)
  order := if imageNat img 19 = 1 then .colFirst else .rowFirst
  separator := if imageNat img 20 = 1 then some (imageByte img 21) else none
  encoding := encodingOf img
  highlightOn := imageRun img 25 (imageNat img 24)
  highlightOff := imageRun img 32 (imageNat img 31)
  bell := imageByte img 38
  xon := imageByte img 39
  xoff := imageByte img 40
  controlMap := (List.range 33).map fun k => (actionOf (imageByte img (41 + k))).getD .ignore
  keyTable := (List.range (imageNat img 74)).map fun k =>
    ⟨keySequence img k, (actionOf (imageByte img (keyPlace k + 5))).getD .ignore⟩

/-- R150, checks 40 to 49. -/
def profileHeaderCheck (img : List Byte) : Option Nat :=
  firstOf
    [(!(imageByte img 0 == 0x50 && imageByte img 1 == 0x46), 40),
     (imageNat img 2 == 0 || decide (8 < imageNat img 2), 41),
     (imageNat img 11 == 0 || decide (4 < imageNat img 11), 42),
     (decide (2 < imageNat img 16), 43),
     (decide (1 < imageNat img 19), 44),
     (decide (1 < imageNat img 20), 45),
     (decide (1 < imageNat img 22) || (imageNat img 22 == 1 && decide (1 < imageNat img 23)), 46),
     (decide (6 < imageNat img 24), 47),
     (decide (6 < imageNat img 31), 48),
     (imageByte img 39 == imageByte img 40, 49)]

/-- R150, check 50: the action of control map entry `k`. -/
def controlMapCheck (img : List Byte) (k : Nat) : Option Nat :=
  if (actionOf (imageByte img (41 + k))).isNone then some 50 else none

/-- R150, checks 52 to 55 of key entry `k`. -/
def keyEntryCheck (img : List Byte) (k : Nat) : Option Nat :=
  firstOf
    [(decide (imageNat img (keyPlace k) < 2) || decide (4 < imageNat img (keyPlace k)), 52),
     (!control (imageByte img (keyPlace k + 1)), 53),
     ((actionOf (imageByte img (keyPlace k + 5))).isNone, 54),
     ((List.range k).any fun j => keySequence img j == keySequence img k, 55)]

/-- R150: the first check that fails, with its index. -/
def profileImageCheck (img : List Byte) : Option (Nat × Nat) :=
  match profileHeaderCheck img with
  | some code => some (code, 0)
  | none =>
    match firstSome (controlMapCheck img) (List.range 33) with
    | some e => some e
    | none =>
      if 16 < imageNat img 74 then some (51, 0)
      else firstSome (keyEntryCheck img) (List.range (imageNat img 74))

/-! ## SET PROFILE (R149) -/

/-- R140: is the profile LOADING? -/
def ProfileSlot.isLoading (p : ProfileSlot) : Bool :=
  match p.state with
  | .loading _ _ => true
  | .ready _ => false

/-- R149: SET PROFILE at the Profile Store. -/
def setProfile (c : Command) (s : State) : State :=
  match profileOf c.target.toNat with
  | none => s.reply c .badArgument []
  | some p =>
    let address := hostAddress (c.arg 0) (c.arg 1)
    match firstOf
      [(!rangeOk address Config.profileImageBytes, Status.badArgument),
       ((s.profileSlot p).isLoading, .profileBusy),
       (decide (0 < (s.profileSlot p).userCount), .inUse)] with
    | some st => s.reply c st []
    | none =>
      (s.setProfile p { s.profileSlot p with state := .loading c.tag c.code.reservation }).placeRequest
        ⟨.profileFetch p, BitVec.ofNat 24 address, Config.profileImageBytes⟩

/-- A SET PROFILE command is taken. -/
def effectSetProfile (s : State) : State :=
  s.takeCommand (fun c => c.code == .setProfile) setProfile

/-! ## The end of a fetch (R150) -/

/-- R150, R186: the profile becomes READY and the result of its SET PROFILE is posted. -/
def State.endSetProfile (s : State) (p : ProfileId) (new : Profile) (st : Status) (data : List Word) : State :=
  match (s.profileSlot p).state with
  | .loading tag reservation =>
    (s.setProfile p { s.profileSlot p with state := .ready new }).post reservation (resultRecord tag st data)
  | .ready _ => s

/-- R150: the Profile Store takes the image of a profile's fetch. -/
def State.profileFetched (s : State) (p : ProfileId) (img : List Byte) : State :=
  match profileImageCheck img with
  | some (code, index) => s.endSetProfile p Profile.default .badProfile [word code, word index]
  | none => s.endSetProfile p (profileOfImage img) .ok []

/-- R150: the PROFILE_FETCH of a profile ends with a bus fault. -/
def State.profileFaulted (s : State) (p : ProfileId) : State := s.endSetProfile p Profile.default .busFault []

end Sys2Proof.Machine
end

