-- ==== Sys2Proof/Machine/LineCommands.lean ====
section
/-! DEFINITION. The line commands (chapter 9, R43, R44): CONFIGURE LINE, ENABLE LINE, DISABLE LINE, QUERY LINE and RESET
LINE. -/

namespace Sys2Proof.Machine

/-- R153: CONFIGURE LINE at the Line Unit. -/
def configureLine (c : Command) (s : State) : State :=
  match lineOf c.target with
  | none => s.reply c .badLine []
  | some l =>
    if (s.line l).on then s.reply c .lineOn []
    else
      match LineConfig.ofBytes (bytesOfWords c.args) with
      | none => s.reply c .badArgument []
      | some cfg => (s.modLine l fun x => { x with config := cfg }).reply c .ok []

/-- R148: the user count of the profile a line names changes. -/
def State.countUser (s : State) (p : ProfileId) (f : Nat → Nat) : State :=
  s.setProfile p { s.profileSlot p with userCount := f (s.profileSlot p).userCount }

/-- R152: settled ready of a line that is ON, from its ready level. -/
def settledOf (present : Bool) : Settled := if present then .present else .absent

/-- R154: a line as ENABLE LINE leaves it. -/
def Line.enabled (x : Line) : Line :=
  { x with
    on := true
    settled := if x.config.readyMonitoring then settledOf x.readyLevel else .notMonitored
    settleTimer := .stopped
    detached := x.config.readyMonitoring && !x.readyLevel
    flow := .flowing
    stallTimer := .stopped
    breakState := .idle
    idleSeen := false
    typeAhead := []
    output := []
    framing := 0
    parityCount := 0
    overrun := 0
    flags := EventFlags.clear
    timeoutSerial := none }

/-- R154: ENABLE LINE at the Line Unit. -/
def enableLine (c : Command) (s : State) : State :=
  match lineOf c.target with
  | none => s.reply c .badLine []
  | some l =>
    if (s.line l).on then s.reply c .lineOn []
    else if (s.profileSlot (s.line l).config.profile).isLoading then s.reply c .badProfile []
    else ((s.countUser (s.line l).config.profile (· + 1)).modLine l Line.enabled).reply c .ok []

/-- R155, R118: a line as DISABLE LINE leaves it, its display work apart. -/
def Line.disabled (x : Line) : Line :=
  { x with
    on := false
    settled := .notMonitored
    settleTimer := .stopped
    detached := false
    flow := .flowing
    stallTimer := .stopped
    breakState := .idle
    idleSeen := false
    typeAhead := []
    output := []
    framing := 0
    parityCount := 0
    overrun := 0
    flags := EventFlags.clear
    timeoutSerial := none
    claim := .absent }

/-- R155: DISABLE LINE at the Line Unit. -/
def disableLine (c : Command) (s : State) : State :=
  match lineOf c.target with
  | none => s.reply c .badLine []
  | some l =>
    if !(s.line l).on then s.reply c .lineOff []
    else if (s.inst l).isSome then s.reply c .hasInstance []
    else
      (((s.countUser (s.line l).config.profile (· - 1)).modLine l Line.disabled).discardDisplay l).reply c .ok []

/-- R195: the 24 data bytes of the QUERY LINE result. -/
def Line.report (x : Line) : List Byte :=
  x.config.bytes ++
    [flagByte x.on, flagByte x.readyLevel, x.settled.code,
     flagByte x.detached ||| (flagByte (x.flow == .paused) <<< 1),
     match x.inst with | some i => i.phase.code | none => 0] ++
    (match x.inst with | some i => [lowByte i.serial, highByte i.serial] | none => [0, 0]) ++
    [byte x.typeAhead.length, byte (x.output.length % 256), byte (x.output.length / 256)]

/-- R156: QUERY LINE at the Line Unit. -/
def queryLine (c : Command) (s : State) : State :=
  match lineOf c.target with
  | none => s.reply c .badLine []
  | some l => s.reply c .ok (wordsOfBytes (s.line l).report)

/-- R43: a line as RESET LINE leaves it, its display work apart. -/
def Line.flushed (x : Line) : Line :=
  { x.clearKeys with
    typeAhead := []
    output := []
    flags := EventFlags.clear
    timeoutSerial := none
    framing := 0
    parityCount := 0
    overrun := 0
    flow := .flowing
    stallTimer := .stopped
    claim := .absent }

/-- R192: the clear-screen flag of a CLOSE FORM or RESET LINE, the low byte of its word (notes/assumptions/11.md). -/
def Command.clearFlag (c : Command) (n : Nat) : Bool := flagSet (lowByte (c.arg n))

/-- R44: RESET LINE after its line-level effects. -/
def State.resetInst (s : State) (l : LineId) (k : Closer) : State :=
  match s.inst l with
  | none => (s.queueClear l k.clear).closeResult k []
  | some i => s.closeInst l i k

/-- R43, R44: RESET LINE at the Line Unit and the Instance Table. -/
def resetLine (c : Command) (s : State) : State :=
  match lineOf c.target with
  | none => s.reply c .badLine []
  | some l =>
    (((s.modLine l Line.flushed).discardDisplay l).resetInst l ⟨c.tag, c.clearFlag 0, c.code.reservation⟩).settle l

/-- A CONFIGURE LINE command is taken. -/
def effectConfigureLine (s : State) : State :=
  s.takeCommand (fun c => c.code == .configureLine) configureLine

/-- An ENABLE LINE command is taken. -/
def effectEnableLine (s : State) : State :=
  s.takeCommand (fun c => c.code == .enableLine) enableLine

/-- A DISABLE LINE command is taken. -/
def effectDisableLine (s : State) : State :=
  s.takeCommand (fun c => c.code == .disableLine) disableLine

/-- A QUERY LINE command is taken. -/
def effectQueryLine (s : State) : State :=
  s.takeCommand (fun c => c.code == .queryLine) queryLine

/-- A RESET LINE command is taken. -/
def effectResetLine (s : State) : State :=
  s.takeCommand (fun c => c.code == .resetLine) resetLine

end Sys2Proof.Machine
end

