-- ==== Sys2Proof/Machine/InstanceCommands.lean ====
section
/-! DEFINITION. The instance commands (chapter 2): OPEN FORM, CLOSE FORM, CLEAR ENTRY, HOLD INPUT and RESUME INPUT, and the
end of a preset fetch. -/

namespace Sys2Proof.Machine

/-! ## OPEN FORM (R31 to R33) -/

/-- R31, check 7: is the preset of the command out of bounds? -/
def badPreset (address length : Nat) : Bool :=
  decide (length ≠ 0) && (decide (length < 4) || decide (4040 < length) || !rangeOk address length)

/-- R32, R33: what OPEN FORM does once the instance stands. -/
def State.beginOpen (s : State) (c : Command) (l : LineId) (address length : Nat) : State :=
  if length = 0 then (s.fullRepaint l).reply c .ok [(s.instOf l).serial]
  else
    (s.modInst l fun i => { i with reservation := c.code.reservation, pendingOpen := some c.tag }).placeRequest
      ⟨.presetFetch l, BitVec.ofNat 24 address, length⟩

/-- R31: OPEN FORM at the Instance Table. -/
def openForm (c : Command) (s : State) : State :=
  let address := hostAddress (c.arg 1) (c.arg 2)
  let length := (c.arg 3).toNat
  match lineOf c.target with
  | none => s.reply c .badLine []
  | some l =>
    if !(s.line l).on then s.reply c .lineOff []
    else if (s.inst l).isSome then s.reply c .hasInstance []
    else
      match slotOf (c.arg 0).toNat with
      | none => s.reply c .badSlot []
      | some k =>
        match firstOf
          [((s.slot k).isEmpty, Status.slotEmpty),
           ((s.slot k).isLoading, .slotBusy),
           (badPreset address length, .badArgument)] with
        | some st => s.reply c st []
        | none =>
          match allocate (s.slot k).form.extentSize s.freeList with
          | none => s.reply c .noRoom []
          | some (base, free) =>
            ((s.open_ l k base free (if length = 0 then .painting else .presetting)).beginOpen c l address
              length).settle l

/-- An OPEN FORM command is taken. -/
def effectOpenForm (s : State) : State :=
  s.takeCommand (fun c => c.code == .openForm) openForm

/-! ## The preset image (R34 to R36) -/

/-- R34: the entries of a preset image from byte `pos` on: the number still to come, the number of the next one, and the
form. The first failing check with its index, or the values in image order. -/
def presetEntries (d : FormDef) (img : List Byte) (total : Nat) :
    Nat → Nat → Nat → Except (Nat × Nat) (List (Nat × List Byte))
  | 0, index, pos => if pos = total then .ok [] else .error (31, index)
  | n + 1, index, pos =>
    let field := imageNat2 img pos
    let length := imageNat img (pos + 2)
    let value := imageRun img (pos + 4) length
    match firstOf
      [(decide (total < pos + 4) || decide (total < pos + 4 + roundEven length), 31),
       (decide (d.fieldCount ≤ field), 32),
       (decide ((d.field field).length < length), 33),
       (!value.all printable, 34)] with
    | some code => .error (code, index)
    | none =>
      match presetEntries d img total n (index + 1) (pos + 4 + roundEven length) with
      | .ok rest => .ok ((field, value) :: rest)
      | .error e => .error e

/-- R34: the checks of a preset image against the preset length of its OPEN FORM. -/
def presetImage (d : FormDef) (img : List Byte) (length : Nat) : Except (Nat × Nat) (List (Nat × List Byte)) :=
  if imageNat2 img 2 ≠ length then .error (30, 0) else presetEntries d img length (imageNat2 img 0) 0 4

/-- R35: the entries are applied in image order. -/
def State.applyPreset (s : State) (l : LineId) (entries : List (Nat × List Byte)) : State :=
  entries.foldl (fun s e => s.presetWrite l e.1 e.2) s

/-- R35: a passing preset. -/
def State.presetPassed (s : State) (l : LineId) (entries : List (Nat × List Byte)) : State :=
  (((s.applyPreset l entries).modInst l fun i => { i with phase := .painting }).fullRepaint l).postOpen l .ok
    [(s.instOf l).serial]

/-- R36: a preset that fails or faults: the result is posted into the reservation and the instance retired. -/
def State.presetFailed (s : State) (l : LineId) (st : Status) (data : List Word) : State :=
  (s.postOpen l st data).retire l

/-- R36, R40: the record a PRESET_FETCH owes in CLOSING. -/
def State.closedEarlyRecord (s : State) (l : LineId) : List Word :=
  resultRecord ((s.instOf l).pendingOpen.getD 0) .closedEarly []

/-- R34, R36, R40: the end of a PRESET_FETCH without a bus fault, at the Instance Table. -/
def State.presetFetched (s : State) (l : LineId) (img : List Byte) (length : Nat) : State :=
  if (s.instOf l).phase = .closing then s.endClosing l (s.closedEarlyRecord l)
  else
    match presetImage (s.formOf l) img length with
    | .ok entries => (s.presetPassed l entries).settle l
    | .error (code, index) => (s.presetFailed l .badImage [word code, word index]).settle l

/-- R36, R40: the PRESET_FETCH of a line ends with a bus fault. -/
def State.presetFaulted (s : State) (l : LineId) : State :=
  if (s.instOf l).phase = .closing then s.endClosing l (s.closedEarlyRecord l)
  else (s.presetFailed l .busFault []).settle l

/-! ## CLOSE FORM, CLEAR ENTRY, HOLD INPUT, RESUME INPUT (R37 to R39) -/

/-- R39: CLOSE FORM at the Instance Table. -/
def closeForm (c : Command) (s : State) : State :=
  s.onInst c fun l i s => s.closeInst l i ⟨c.tag, c.clearFlag 1, c.code.reservation⟩

/-- R37: the record of an instance after CLEAR ENTRY, its values apart. -/
def Inst.cleared (i : Inst) (d : FormDef) : Inst :=
  { (i.enterFirst d).markAll with late := false, message := [], phase := .painting }

/-- R37: CLEAR ENTRY at the Instance Table. -/
def clearEntry (c : Command) (s : State) : State :=
  s.onInst c fun l _ s => ((s.openingValues l).modInst l fun i => i.cleared (s.formOf l)).reply c .ok []

/-- R38: HOLD INPUT at the Instance Table. -/
def holdInput (c : Command) (s : State) : State :=
  s.onInst c fun l _ s => (s.modInst l fun i => { i with held := true }).reply c .ok []

/-- R38: RESUME INPUT at the Instance Table. -/
def resumeInput (c : Command) (s : State) : State :=
  s.onInst c fun l _ s => (s.modInst l fun i => { i with held := false }).reply c .ok []

/-- A CLOSE FORM command is taken. -/
def effectCloseForm (s : State) : State :=
  s.takeCommand (fun c => c.code == .closeForm) closeForm

/-- A CLEAR ENTRY command is taken. -/
def effectClearEntry (s : State) : State :=
  s.takeCommand (fun c => c.code == .clearEntry) clearEntry

/-- A HOLD INPUT command is taken. -/
def effectHoldInput (s : State) : State :=
  s.takeCommand (fun c => c.code == .holdInput) holdInput

/-- A RESUME INPUT command is taken. -/
def effectResumeInput (s : State) : State :=
  s.takeCommand (fun c => c.code == .resumeInput) resumeInput

end Sys2Proof.Machine
end

