-- ==== Sys2Proof/Machine/FieldCommands.lean ====
section
/-! DEFINITION. The field and screen commands (chapters 3, 5 and 6): READ FIELD, WRITE FIELD, SET FIELD STATE, PLACE
CURSOR, SHOW MESSAGE and REPAINT. -/

namespace Sys2Proof.Machine

/-- R61, R194: the field number of READ FIELD, a word of its own. -/
def Command.fieldWord (c : Command) : Nat := (c.arg 1).toNat

/-- R194: the field number in the low byte of argument word 1. -/
def Command.fieldByte (c : Command) : Nat := (lowByte (c.arg 1)).toNat

/-- R194: the operation, length or position in the high byte of argument word 1. -/
def Command.highArg (c : Command) : Nat := (highByte (c.arg 1)).toNat

/-- R61: READ FIELD. -/
def readField (c : Command) (s : State) : State :=
  s.onInst c fun l i s =>
    if (s.form i).fieldCount ≤ c.fieldWord then s.reply c .badField []
    else
      let r := i.field c.fieldWord
      s.reply c .ok
        (wordOf (byte r.valueLength) (r.stateByte ((s.form i).field c.fieldWord)) :: wordsOfBytes (s.value l c.fieldWord))

/-- R62, R63: WRITE FIELD. -/
def writeField (c : Command) (s : State) : State :=
  s.onInst c fun l i s =>
    match firstOf
      [(decide ((s.form i).fieldCount ≤ c.fieldByte), Status.badField),
       (decide (((s.form i).field c.fieldByte).length < c.highArg), .badValue),
       (!carriedWordsOk c.highArg c.tailWords, .badArgument),
       (!(carriedBytes c.highArg c.tailWords).all printable, .badValue)] with
    | some st => s.reply c st []
    | none =>
      let s := s.hostWrite l c.fieldByte (carriedBytes c.highArg c.tailWords)
      s.reply c .ok [word ((s.instOf l).field c.fieldByte).invalid.toNat]

/-! ## SET FIELD STATE (R65, R66) -/

/-- R66: "the next effectively unprotected field after it in field order, wrapping from the last field to field 0". -/
def Inst.nextOpenWrapping (i : Inst) (d : FormDef) (n : Nat) : Option Nat :=
  match (i.openFields d).find? (fun m => decide (n < m)) with
  | some m => some m
  | none => (i.openFields d).head?

/-- R66: the cursor is settled when the effective protection of field `n` was `was` before the change. A cursor that becomes
NONE has its position put to 0 and edited-since-entry cleared, the model's choice (notes/assumptions/27.md). -/
def Inst.settleCursor (i : Inst) (d : FormDef) (n : Nat) (was : Bool) : Inst :=
  if i.fieldProtected d n = was then i
  else if i.fieldProtected d n then
    if i.cursorField = some n then
      match i.nextOpenWrapping d n with
      | some m => i.enterField m 0
      | none => { i with cursorField := none, cursorPos := 0, edited := false, cursorStale := true }
    else i
  else if i.cursorField = none then i.enterFirst d
  else i

/-- R65: the protection override of field `n` changes, and the cursor is settled. -/
def Inst.overrideField (i : Inst) (d : FormDef) (n : Nat) (o : Override) : Inst :=
  (i.modField n fun r => { r with override := o }).settleCursor d n (i.fieldProtected d n)

/-- R65: the error mark of field `n` changes, and the field is stale from 0. -/
def Inst.markField (i : Inst) (n : Nat) (mark : Bool) : Inst :=
  i.modField n fun r => { r with errorMark := mark, staleFrom := some 0 }

/-- R65: the five operations, by their codes; another code is none of them. -/
def fieldOperation (code : Nat) : Option (Inst → FormDef → Nat → Inst) :=
  match code with
  | 1 => some fun i d n => i.overrideField d n .isProtected
  | 2 => some fun i d n => i.overrideField d n .unprotected
  | 3 => some fun i d n => i.overrideField d n .none
  | 4 => some fun i _ n => i.markField n true
  | 5 => some fun i _ n => i.markField n false
  | _ => none

/-- R65: SET FIELD STATE. -/
def setFieldState (c : Command) (s : State) : State :=
  s.onInst c fun l i s =>
    if (s.form i).fieldCount ≤ c.fieldByte then s.reply c .badField []
    else
      match fieldOperation c.highArg with
      | none => s.reply c .badArgument []
      | some op =>
        let s := s.modInst l fun i => op i (s.form i) c.fieldByte
        s.reply c .ok
          [wordOf (numberOr255 (s.instOf l).cursorField)
            (flagByte ((s.instOf l).fieldProtected (s.formOf l) c.fieldByte))]

/-! ## PLACE CURSOR, SHOW MESSAGE, REPAINT (R99, R116, R117) -/

/-- R99: PLACE CURSOR. -/
def placeCursor (c : Command) (s : State) : State :=
  s.onInst c fun l i s =>
    match firstOf
      [(decide ((s.form i).fieldCount ≤ c.fieldByte) || i.fieldProtected (s.form i) c.fieldByte, Status.badField),
       (decide ((i.field c.fieldByte).valueLength < c.highArg), .badArgument)] with
    | some st => s.reply c st []
    | none => (s.modInst l fun i => i.enterField c.fieldByte c.highArg).reply c .ok []

/-- R116, R136: the message of an instance is replaced. -/
def Inst.showMessage (i : Inst) (m : List Byte) : Inst :=
  { i with message := m, messageStale := i.messageStale || decide (i.phase ≠ .presetting) }

/-- R194: the length of SHOW MESSAGE, the low byte of argument word 1. -/
def Command.messageLength (c : Command) : Nat := (lowByte (c.arg 1)).toNat

/-- R116: SHOW MESSAGE. -/
def showMessage (c : Command) (s : State) : State :=
  s.onInst c fun l _ s =>
    match firstOf
      [(decide (80 < c.messageLength), Status.badValue),
       (!carriedWordsOk c.messageLength c.tailWords, .badArgument),
       (!(carriedBytes c.messageLength c.tailWords).all printable, .badValue)] with
    | some st => s.reply c st []
    | none => (s.modInst l fun i => i.showMessage (carriedBytes c.messageLength c.tailWords)).reply c .ok []

/-- R117: REPAINT. -/
def repaint (c : Command) (s : State) : State := s.onInst c fun l _ s => (s.refresh l).reply c .ok []

/-! ## The rows -/

/-- A READ FIELD command is taken. -/
def effectReadField (s : State) : State :=
  s.takeCommand (fun c => c.code == .readField) readField

/-- A WRITE FIELD command is taken. -/
def effectWriteField (s : State) : State :=
  s.takeCommand (fun c => c.code == .writeField) writeField

/-- A SET FIELD STATE command is taken whose operation is PROTECT, or is no operation at all
(notes/assumptions/10.md). -/
def effectSetFieldStateProtect (s : State) : State :=
  s.takeCommand
    (fun c => c.code == .setFieldState && !(c.highArg == 2 || c.highArg == 3 || c.highArg == 4 || c.highArg == 5))
    setFieldState

/-- A SET FIELD STATE command is taken whose operation is UNPROTECT. -/
def effectSetFieldStateUnprotect (s : State) : State :=
  s.takeCommand (fun c => c.code == .setFieldState && c.highArg == 2) setFieldState

/-- A SET FIELD STATE command is taken whose operation is DEFINED. -/
def effectSetFieldStateDefined (s : State) : State :=
  s.takeCommand (fun c => c.code == .setFieldState && c.highArg == 3) setFieldState

/-- A SET FIELD STATE command is taken whose operation is MARK. -/
def effectSetFieldStateMark (s : State) : State :=
  s.takeCommand (fun c => c.code == .setFieldState && c.highArg == 4) setFieldState

/-- A SET FIELD STATE command is taken whose operation is UNMARK. -/
def effectSetFieldStateUnmark (s : State) : State :=
  s.takeCommand (fun c => c.code == .setFieldState && c.highArg == 5) setFieldState

/-- A PLACE CURSOR command is taken. -/
def effectPlaceCursor (s : State) : State :=
  s.takeCommand (fun c => c.code == .placeCursor) placeCursor

/-- A SHOW MESSAGE command is taken. -/
def effectShowMessage (s : State) : State :=
  s.takeCommand (fun c => c.code == .showMessage) showMessage

/-- A REPAINT command is taken. -/
def effectRepaint (s : State) : State :=
  s.takeCommand (fun c => c.code == .repaint) repaint

end Sys2Proof.Machine
end

