-- ==== Sys2Proof/Machine/DeliveryCommands.lean ====
section
/-! DEFINITION. The delivery commands (chapter 7) and QUERY PART (R190), and the ends of a delivery. -/

namespace Sys2Proof.Machine

/-! ## The buffer list (R125, R126) -/

/-- R125: POST BUFFER. -/
def postBuffer (c : Command) (s : State) : State :=
  let address := hostAddress (c.arg 0) (c.arg 1)
  match firstOf
    [(decide (Config.bufferRoom ≤ s.bufferList.length), Status.listFull),
     (decide ((c.arg 2).toNat < 16), .badBuffer),
     (!rangeOk address (c.arg 2).toNat, .badArgument)] with
  | some st => s.reply c st []
  | none =>
    let d : Descriptor := ⟨BitVec.ofNat 24 address, c.arg 2⟩
    let t := s.offer d fun ds => ds ++ [d]
    t.reply c .ok [wordOf (byte t.bufferList.length) (numberOr255 ((s.takerOf d).map Fin.val))]

/-- R126: WITHDRAW BUFFERS. -/
def withdrawBuffers (c : Command) (s : State) : State :=
  { s with bufferList := [] }.reply c .ok [word s.bufferList.length]

/-! ## Verdicts (R134 to R136) -/

/-- R134: ACCEPT ENTRY with CLOSE. -/
def State.acceptClose (s : State) (c : Command) (l : LineId) : State :=
  ((s.retire l).queueClear l (flagSet (highByte (c.arg 1)))).reply c .ok [0]

/-- R135: the record of an instance after a RENEW, its values apart. -/
def Inst.renewed (i : Inst) (d : FormDef) (serial : Word) : Inst :=
  { (i.enterFirst d).markAll with
    verdictTimer := .stopped
    serial := serial
    late := false
    message := []
    imageSize := 0
    resubmit := false
    insertMode := .overwrite
    phase := .painting }

/-- R135: ACCEPT ENTRY with RENEW. -/
def State.acceptRenew (s : State) (c : Command) (l : LineId) : State :=
  let serial := s.takenSerial
  (({ s with nextSerial := nextSerialAfter serial }.openingValues l).modInst l
    fun i => i.renewed (s.formOf l) serial).reply c .ok [serial]

/-- R134, R194: the verdict of an ACCEPT ENTRY. -/
def Command.verdict (c : Command) : Nat := c.fieldByte

/-- R134: ACCEPT ENTRY. -/
def acceptEntry (c : Command) (s : State) : State :=
  s.onInst c fun l _ s =>
    match c.verdict with
    | 1 => s.acceptClose c l
    | 2 => s.acceptRenew c l
    | _ => s.reply c .badArgument []

/-- R136: the record of an instance after RETURN ENTRY. -/
def Inst.returned (i : Inst) (n : Nat) (m : List Byte) : Inst :=
  (({ i with phase := .editing, verdictTimer := .stopped, reservation := 0 }.enterField n 0).modField n
    fun r => { r with errorMark := true, staleFrom := some 0 }).showMessage m

/-- R136: RETURN ENTRY. -/
def returnEntry (c : Command) (s : State) : State :=
  s.onInst c fun l i s =>
    match firstOf
      [(decide ((s.form i).fieldCount ≤ c.fieldByte) || i.fieldProtected (s.form i) c.fieldByte, Status.badField),
       (decide (80 < c.highArg), .badValue),
       (!carriedWordsOk c.highArg c.tailWords, .badArgument),
       (!(carriedBytes c.highArg c.tailWords).all printable, .badValue)] with
    | some st => s.reply c st []
    | none =>
      ((((s.leaveWaiting l).release i.reservation).modInst l
        fun i => i.returned c.fieldByte (carriedBytes c.highArg c.tailWords))).reply c .ok []

/-! ## QUERY PART (R190) -/

/-- R190: the figures of QUERY PART. -/
def State.figures (s : State) : List Word :=
  [word s.partState.code, word (freeGranules s.freeList), word (largestFree s.freeList), word s.freeList.length,
   word s.bufferList.length, word s.waiting.length, word s.busQueue.length, s.nextSerial]

/-- R190: QUERY PART at the Host Port. -/
def queryPart (c : Command) (s : State) : State := s.reply c .ok s.figures

/-! ## The rows -/

/-- A POST BUFFER command is taken. -/
def effectPostBuffer (s : State) : State :=
  s.takeCommand (fun c => c.code == .postBuffer) postBuffer

/-- A WITHDRAW BUFFERS command is taken. -/
def effectWithdrawBuffers (s : State) : State :=
  s.takeCommand (fun c => c.code == .withdrawBuffers) withdrawBuffers

/-- An ACCEPT ENTRY command is taken whose verdict is CLOSE, or is no verdict at all (notes/assumptions/10.md). -/
def effectAcceptEntryClose (s : State) : State :=
  s.takeCommand (fun c => c.code == .acceptEntry && !(c.verdict == 2)) acceptEntry

/-- An ACCEPT ENTRY command is taken whose verdict is RENEW. -/
def effectAcceptEntryRenew (s : State) : State :=
  s.takeCommand (fun c => c.code == .acceptEntry && c.verdict == 2) acceptEntry

/-- A RETURN ENTRY command is taken. -/
def effectReturnEntry (s : State) : State :=
  s.takeCommand (fun c => c.code == .returnEntry) returnEntry

/-- A QUERY PART command is taken. -/
def effectQueryPart (s : State) : State :=
  s.takeCommand (fun c => c.code == .queryPart) queryPart

/-! ## The ends of a delivery (R131, R132, R40) and the verdict timer (R133) -/

/-- R131, R40: a DELIVERY of a line completes. -/
def State.delivered (s : State) (l : LineId) : State :=
  let i := s.instOf l
  if i.phase = .closing then s.endClosing l (deliveredRecord l i true)
  else
    ((s.post i.reservation (deliveredRecord l i false)).modInst l fun i =>
      { i with
        heldBuffer := none
        reservation := 0
        phase := .awaitVerdict
        verdictTimer := Timer.start ((s.line l).config.verdict * Config.ticksPerSecond) }).settle l

/-- R132, R40: a DELIVERY of a line ends with a bus fault. -/
def State.deliveryFaulted (s : State) (l : LineId) : State :=
  let i := s.instOf l
  if i.phase = .closing then s.endClosing l (deliveryFaultRecord l i)
  else
    (((s.post i.reservation (deliveryFaultRecord l i)).modInst l fun i =>
      { i with heldBuffer := none, reservation := 0, phase := .editing }).bell l).settle l

/-- R133: the verdict timer of a line's instance runs out. -/
def State.verdictExpired (s : State) (l : LineId) : State :=
  let serial := (s.instOf l).serial
  ((((s.modInst l fun i => { i with phase := .editing, late := true, verdictTimer := .stopped }).bell l).setFlag l
    fun f => { f with verdictTimeout := true }).modLine l fun x => { x with timeoutSerial := some serial }).settle l

/-- The verdict timer of a line's instance runs out. -/
def effectVerdictTimerExpiry (line : LineId) (s : State) : State :=
  if (s.instOf line).verdictTimer.isRunning ∧ (s.instOf line).phase = .awaitVerdict then s.verdictExpired line
  else s

end Sys2Proof.Machine
end

