-- ==== Sys2Proof/Machine/Bus.lean ====
section
/-! DEFINITION. The bus master (chapter 10): the start of a transfer, the ends of the four kinds of transfer, and bus
faults. -/

namespace Sys2Proof.Machine

/-- R170: the request at the head of the queue becomes the transfer in progress, when there is none. -/
def State.startTransfer (s : State) : State :=
  match s.transfer, s.busQueue with
  | none, r :: rest => { s with transfer := some r, busQueue := rest }
  | _, _ => s

/-- R171: the bytes that the first `cycles` bus cycles move of a range of `length` bytes at `address`: a byte cycle at an
odd address, then word cycles, then a byte cycle for a byte left over. -/
def bytesMoved (address length cycles : Nat) : Nat :=
  min length (if address % 2 = 1 then (if cycles = 0 then 0 else 2 * cycles - 1) else 2 * cycles)

/-- R171, R172: the bytes that a read's cycles bring stand in the transfer buffer from offset 0. -/
def State.fillBuffer (s : State) (bytes : List Byte) : State :=
  { s with transferBuffer := Memory.writeBytes s.transferBuffer 0 bytes }

/-- R172: "The owner takes the bytes at offsets 0 to n − 1 of the transfer buffer". -/
def State.bufferImage (s : State) (n : Nat) : List Byte := Memory.readBytes s.transferBuffer 0 n

/-- R173: the bytes that a delivery's cycles write stand in host memory from the descriptor's address upward. -/
def State.writeHost (s : State) (address : HostAddr) (bytes : List Byte) : State :=
  { s with hostMemory := Memory.writeBytes s.hostMemory address.toNat bytes }

/-- R172, step 4: the transfer in progress becomes none. -/
def State.endTransfer (s : State) : State := { s with transfer := none }

/-- The Bus Master starts the transfer at the head of its queue. -/
def effectTransferStart (s : State) : State :=
  s.startTransfer

/-- R172: the last cycle of a read transfer is answered, its `length` bytes all brought: they stand in the transfer
buffer and `owner` takes them. An end whose bytes are fewer does not happen. -/
def State.endRead (s : State) (length : Nat) (bytes : List Byte) (owner : State → List Byte → State) : State :=
  if length ≤ bytes.length then
    let s := s.fillBuffer (bytes.take length)
    (owner s (s.bufferImage length)).endTransfer
  else s

/-- R13, R172: a FORM_FETCH ends without a fault. -/
def effectFormFetchEnd (bytes : List Byte) (s : State) : State :=
  match s.transfer with
  | some ⟨.formFetch k, _, length⟩ => s.endRead length bytes fun s img => s.formFetched k img length
  | _ => s

/-- R150, R172: a PROFILE_FETCH ends without a fault. -/
def effectProfileFetchEnd (bytes : List Byte) (s : State) : State :=
  match s.transfer with
  | some ⟨.profileFetch p, _, length⟩ => s.endRead length bytes fun s img => s.profileFetched p img
  | _ => s

/-- R34, R172: a PRESET_FETCH ends without a fault. -/
def effectPresetFetchEnd (bytes : List Byte) (s : State) : State :=
  match s.transfer with
  | some ⟨.presetFetch l, _, length⟩ => s.endRead length bytes fun s img => s.presetFetched l img length
  | _ => s

/-- R131, R173: a DELIVERY completes: the entry image stands in host memory and the end is handed to its owner. -/
def effectDeliveryComplete (s : State) : State :=
  match s.transfer with
  | some ⟨.delivery l, address, _⟩ => ((s.writeHost address (s.entryImage l)).delivered l).endTransfer
  | _ => s

/-- R174: the part of a transfer that the answered cycles carried out before it was given up. -/
def State.partialTransfer (s : State) (r : Request) (answered : Nat) (bytes : List Byte) : State :=
  let moved := bytesMoved r.address.toNat r.length answered
  match r.owner with
  | .delivery l => s.writeHost r.address ((s.entryImage l).take moved)
  | _ => s.fillBuffer (bytes.take moved)

/-- R174: the owners act on a bus fault. -/
def State.faulted (s : State) : Owner → State
  | .formFetch k => s.formFaulted k
  | .profileFetch p => s.profileFaulted p
  | .presetFetch l => s.presetFaulted l
  | .delivery l => s.deliveryFaulted l

/-- R174: a bus fault on a cycle of the transfer in progress; a fault after the last cycle does not happen. -/
def effectBusFault (answered : Nat) (bytes : List Byte) (s : State) : State :=
  match s.transfer with
  | some r =>
    if bytesMoved r.address.toNat r.length answered < r.length then
      ((s.partialTransfer r answered bytes).faulted r.owner).endTransfer
    else s
  | none => s

end Sys2Proof.Machine
end

