-- ==== Sys2Proof/Machine/LineEvents.lean ====
section
/-! DEFINITION. The happenings of the serial lines (chapter 9), of the Key Interpreter (chapter 4), of the inactivity timer
(R102) and of Screen Maintenance (R105). -/

namespace Sys2Proof.Machine

/-! ## Receiving (R157 to R160) -/

/-- R157: the byte a character carries on a line with these data bits. -/
def receivedByte (b : DataBits) (c : RxChar) : Byte :=
  match b with
  | .seven => c.data &&& 0x7F
  | .eight => c.data

/-- The number of set bits of a byte. -/
def onesOf (b : Byte) : Nat := ([0, 1, 2, 3, 4, 5, 6, 7].filter fun k => b.getLsbD k).length

/-- R157, step 3: does the parity bit agree with the data bits? -/
def parityAgrees (p : Parity) (b : Byte) (bit : Bool) : Bool :=
  match p with
  | .none => true
  | .even => (onesOf b + bit.toNat) % 2 == 0
  | .odd => (onesOf b + bit.toNat) % 2 == 1

/-- R157: "A count that rises sets the RECEIVE_FAULT event flag". -/
def Line.receiveFault (x : Line) : Line := { x with flags := { x.flags with receiveFault := true } }

/-- R30, R158: a byte or break on a line without an instance sets IDLE_KEY and is discarded. -/
def Line.idleKey (x : Line) : Line := { x with flags := { x.flags with idleKey := true } }

/-- R159: an entry is placed in the type-ahead, or counted as an overrun when it is full. -/
def Line.placeEntry (x : Line) (e : Entry) : Line :=
  if x.typeAhead.length < Config.typeAheadRoom then { x with typeAhead := x.typeAhead ++ [e] }
  else { x with overrun := countUp x.overrun }.receiveFault

/-- R30, R157 (step 5), R158: an entry meets the rows of R30 at the receiver. -/
def Line.deliver (x : Line) (e : Entry) : Line :=
  if x.inst.isNone then x.idleKey else if x.detached then x else x.placeEntry e

/-- R160, R161: a flow byte is taken. -/
def Line.flowByte (x : Line) (xoff : Bool) : Line :=
  match xoff, x.flow with
  | true, .flowing =>
    { x with flow := .paused, stallTimer := Timer.start (x.config.stallCeiling * Config.ticksPerSecond) }
  | false, .paused => { x with flow := .flowing, stallTimer := .stopped }
  | _, _ => x

/-- R157: a received character is taken through the five steps. -/
def Line.receive (x : Line) (p : Profile) (c : RxChar) : Line :=
  let b := receivedByte x.config.dataBits c
  if b = 0 ∧ !c.stopIdle then { x with breakState := .inBreak }.deliver .breakMarker
  else if !c.stopIdle then { x with framing := countUp x.framing }.receiveFault
  else if !parityAgrees x.config.parity b c.parityBit then { x with parityCount := countUp x.parityCount }.receiveFault
  else if x.config.flowControl ∧ b = p.xoff then x.flowByte true
  else if x.config.flowControl ∧ b = p.xon then x.flowByte false
  else x.deliver (.byte b)

/-- R154, R155, R158: does the receiver of a line take a character? -/
def Line.receives (x : Line) : Bool := x.on && x.idleSeen && x.breakState == .idle

/-- A character has been received on a line. -/
def effectCharacterReceived (line : LineId) (char : RxChar) (s : State) : State :=
  if (s.line line).receives then (s.modLine line fun x => x.receive (s.lineProfile line) char).settle line
  else s

/-- R158: the received stream returns to its idle level. -/
def effectBreakEnd (line : LineId) (s : State) : State :=
  s.modLine line fun x => { x with breakState := .idle }

/-- R154: the receiver of a line just switched ON first sees the received stream idle. -/
def effectReceivedStreamIdleSeen (line : LineId) (s : State) : State :=
  s.modLine line fun x => if x.on then { x with idleSeen := true } else x

/-! ## Ready monitoring (R163 to R165) -/

/-- R163: the settle timer after a change of the ready level. -/
def Line.readyChanged (x : Line) : Line :=
  if x.on && x.config.readyMonitoring then
    if settledOf x.readyLevel = x.settled then { x with settleTimer := .stopped }
    else if x.settleTimer.isRunning then x
    else { x with settleTimer := .running x.config.settle }
  else x

/-- The terminal ready input of a line changes. -/
def effectReadyInputChange (line : LineId) (present : Bool) (s : State) : State :=
  s.modLine line fun x =>
    if x.readyLevel = present then x else Line.readyChanged { x with readyLevel := present }

/-- R164: the line-level effects of a loss of ready, its display work apart. -/
def Line.detach (x : Line) : Line :=
  { x.clearKeys with
    settled := .absent
    settleTimer := .stopped
    detached := true
    typeAhead := []
    output := []
    flow := .flowing
    stallTimer := .stopped
    flags := { x.flags with readyChanged := true } }

/-- R165: the line-level effects of a return of ready. -/
def Line.attach (x : Line) : Line :=
  { x with
    settled := .present
    settleTimer := .stopped
    detached := false
    flags := { x.flags with readyChanged := true } }

/-- R25, R165: the attach taken by phase. -/
def State.attachInst (s : State) (l : LineId) : State :=
  match s.inst l with
  | none => s
  | some i => if i.phase = .presetting then s else s.refresh l

/-- R163: the settle timer of a line runs out. -/
def State.settleExpired (s : State) (l : LineId) : State :=
  if (s.line l).readyLevel then ((s.modLine l Line.attach).attachInst l).settle l
  else ((s.modLine l Line.detach).discardDisplay l).settle l

/-- The settle timer of a line runs out. -/
def effectSettleTimerExpiry (line : LineId) (s : State) : State :=
  if (s.line line).settleTimer.isRunning then s.settleExpired line else s

/-! ## The transmitter and the stall timer (R161, R162) -/

/-- R162: a byte as it is carried on a line with these data bits. -/
def carriedByte (b : DataBits) (x : Byte) : Byte :=
  match b with
  | .seven => x &&& 0x7F
  | .eight => x

/-- R157, R162: the parity bit sent with these data bits, the one that agrees with them; none when none is configured. -/
def parityBitOf (p : Parity) (b : Byte) : Option Bool :=
  match p with
  | .none => none
  | .even => some (onesOf b % 2 == 1)
  | .odd => some (onesOf b % 2 == 0)

/-- R162: "The byte is sent framed as the configuration gives". -/
def LineConfig.frame (c : LineConfig) (x : Byte) : TxFrame :=
  ⟨c.dataBits, carriedByte c.dataBits x, parityBitOf c.parity (carriedByte c.dataBits x), c.stopBits⟩

/-- R162: the byte at the head of the output queue of an ON line is started when the line flows. -/
def Line.transmit (x : Line) : Line :=
  match x.output with
  | b :: rest =>
    if x.on && (x.flow == .flowing || !x.config.flowControl) then
      { x with output := rest, wire := some (x.config.frame b) }
    else x
  | [] => x

/-- The transmitter of a line starts a byte. -/
def effectByteTransmitStart (line : LineId) (s : State) : State :=
  s.modLine line Line.transmit

/-- R161: the stall timer of a line runs out. -/
def effectStallTimerExpiry (line : LineId) (s : State) : State :=
  if (s.line line).stallTimer.isRunning then
    ((s.modLine line fun x => { x with stallTimer := .spent }).setFlag line
      fun f => { f with stalled := true }).settle line
  else s

/-! ## The Key Interpreter (R69, R75, R78) -/

/-- R69, R77: may the Key Interpreter take what it considers without a claim? -/
def State.takesFreely (s : State) (l : LineId) (rel : Released) : Bool :=
  (s.line l).inputRow.interprets && decide (s.runNeed l rel.run = 0) &&
    match (s.line l).claim with
    | .key _ => false
    | _ => true

/-- R30, R69: the Key Interpreter of a line takes the entry at the head of the type-ahead (or applies a release that
stands due and needs no claim, notes/assumptions/14.md). -/
def State.byteTaken (s : State) (l : LineId) : State :=
  if (s.line l).inputRow = .closing then s.modLine l fun x => { x with typeAhead := x.typeAhead.drop 1 }
  else
    match s.considered l with
    | some rel => if s.takesFreely l rel then ((s.takeConsidered l rel).state).settle l else s.settle l
    | none => s

/-- The Key Interpreter of a line takes a byte. -/
def effectByteTaken (line : LineId) (s : State) : State :=
  s.byteTaken line

/-- R75: the gap timer of a line runs out: the pending bytes are released, or the release stands due. -/
def State.gapExpired (s : State) (l : LineId) : State :=
  let rel := (s.lineProfile l).gapRelease (s.line l).pendingKeys
  if s.runNeed l rel.run = 0 then ((s.applyRelease l rel).state).settle l
  else (s.modLine l fun x => { x with gapTimer := .stopped, releaseDue := true }).settle l

/-- The key gap timer of a line runs out. -/
def effectGapTimerExpiry (line : LineId) (s : State) : State :=
  if (s.line line).gapTimer.isRunning then s.gapExpired line else s

/-- R78: the run of a granted key claim is determined again: applied when the words cover it, the rest being released, or
the grant is released unused. -/
def State.useKeyGrant (s : State) (l : LineId) (words : Nat) : State :=
  match s.considered l with
  | some rel =>
    if (s.line l).inputRow = .editing ∧ s.runNeed l rel.run ≤ words then
      let r := s.takeConsidered l rel
      r.state.release (words - r.used)
    else s.release words
  | none => s.release words

/-- R78, R189: the key claim of a line is granted. -/
def effectKeyClaimGrant (line : LineId) (s : State) : State :=
  match s.nextGrant, (s.line line).claim with
  | some (.line l, words), .key _ =>
    if l = line then
      (((s.grant (.line line) words).modLine line fun x => { x with claim := .absent }).useKeyGrant line words).settle
        line
    else s
  | _, _ => s

/-! ## The event record (R167) -/

/-- R167, R195: the LINE_EVENT record of a line. -/
def lineEventRecord (l : LineId) (x : Line) : List Word :=
  record 0x07
    (if x.flags.receiveFault then
      [wordOf (byte l.val) x.flags.reported.toByte, wordOf x.settled.code x.framing, wordOf x.parityCount x.overrun]
    else if x.flags.verdictTimeout then
      [wordOf (byte l.val) x.flags.reported.toByte, wordOf x.settled.code 0, x.timeoutSerial.getD 0]
    else [wordOf (byte l.val) x.flags.reported.toByte, wordOf x.settled.code 0, 0])

/-- R167: what the posting of its event record does to a line. -/
def Line.afterEvent (x : Line) : Line :=
  let x := { x with claim := .absent }
  if x.flags.receiveFault then
    { x with flags := x.flags.remaining, framing := 0, parityCount := 0, overrun := 0 }
  else if x.flags.verdictTimeout then { x with flags := x.flags.remaining, timeoutSerial := none }
  else { x with flags := x.flags.remaining }

/-- R167, R189: the event claim of a line is granted and its record posted. -/
def effectLineEvent (line : LineId) (s : State) : State :=
  match s.nextGrant, (s.line line).claim with
  | some (.line l, words), .event =>
    if l = line then
      (((s.grant (.line line) words).post words (lineEventRecord line (s.line line))).modLine line
        Line.afterEvent).settle line
    else s
  | _, _ => s

/-! ## The inactivity timer (R101, R102) and Screen Maintenance (R105) -/

/-- The inactivity timer of a line's instance runs out. -/
def effectInactivityTimerExpiry (line : LineId) (s : State) : State :=
  if (s.instOf line).inactivity.isRunning then
    ((s.modInst line fun i => { i with inactivity := .spent }).setFlag line
      fun f => { f with inactive := true }).settle line
  else s

/-- Screen Maintenance composes an update unit on a line. -/
def effectUnitComposition (line : LineId) (s : State) : State :=
  s.compose line

end Sys2Proof.Machine
end

