-- ==== Sys2Proof/Machine/Window.lean ====
section
/-! DEFINITION. The window of the host port (chapter 11): resets, the end of the self-check, DATA and CONTROL accesses, the
assembly timer and the posting of an owed result. -/

namespace Sys2Proof.Machine

/-! ## Resets (R179; R20, R45, R50, R68, R103, R139, R140, R152, R168, R176) -/

/-- The lines after a reset: each as R68, R103 and R152 give it, its ready level as the input stands. -/
def State.resetLines (s : State) : Vector Line 12 :=
  allLines.foldl (fun v (l : LineId) => v.set l (Line.reset (s.line l).readyLevel (s.line l).wire)) s.lines

/-- R179: every block takes the values its chapter gives for a reset; what is not the part's (the waiting commands of the
model, host memory, the word last read and the bytes on the wires) stays (notes/assumptions/20.md). -/
def State.resetBy (s : State) (cause : ResetCause) : State :=
  { State.reset with
    resetCause := cause
    lines := s.resetLines
    dataOut := s.dataOut
    hostMemory := s.hostMemory
    pending := s.pending }

/-- R176: a delivery abandoned by a reset leaves the bytes of its answered cycles in its buffer. -/
def State.abandonTransfer (s : State) (answered : Nat) : State :=
  match s.transfer with
  | some r => s.partialTransfer r answered []
  | none => s

/-- Power is applied. R139 says that the buffer of a delivery in progress 'may hold part of an entry image' after either reset;
that a power-on reset leaves `hostMemory` as it was is the model's choice (notes/assumptions/28.md). -/
def effectPowerOnReset (s : State) : State :=
  s.resetBy .power

/-! ## The self-check (R180) -/

/-- R180: the first memory that fails gives the fault code. -/
def checkOutcome (valueOk libraryOk profileOk : Bool) : PartState × FaultCode :=
  if !valueOk then (.fault, .valueMemory)
  else if !libraryOk then (.fault, .libraryMemory)
  else if !profileOk then (.fault, .profileMemory)
  else (.ready, .none)

/-- The self-check ends; it is under way in STARTING alone. -/
def effectSelfCheckEnd (valueOk libraryOk profileOk : Bool) (s : State) : State :=
  match s.partState with
  | .starting =>
    { s with
      partState := (checkOutcome valueOk libraryOk profileOk).1
      faultCode := (checkOutcome valueOk libraryOk profileOk).2
      stateChange := true }
  | _ => s

/-! ## The words of the window (R177, R181, R182, R193) -/

/-- R177: a read of DATA. -/
def State.readData (s : State) : State :=
  match s.answerQueue with
  | w :: rest => { s with answerQueue := rest, dataOut := w }
  | [] => { s with dataOut := 0 }

/-- R181, R193: a CONTROL write: the three enables take the values written, and each flag whose clear indication is set is
cleared. -/
def State.writeControl (s : State) (c : Word) : State :=
  { s with
    answerEnable := c.getLsbD 7
    stateChangeEnable := c.getLsbD 8
    overflowEnable := c.getLsbD 9
    stateChange := s.stateChange && !c.getLsbD 5
    overflow := s.overflow && !c.getLsbD 6 }

/-- R177: the four words of the window. -/
inductive WindowWord where
  | data
  | statusControl
  | levels
  | identReset
  deriving DecidableEq, Repr

/-- R177: "four words at consecutive even byte offsets 0, 2, 4 and 6". -/
def WindowWord.offset : WindowWord → Nat
  | .data => 0
  | .statusControl => 2
  | .levels => 4
  | .identReset => 6

/-- R177: the width of an access. -/
inductive AccessWidth where
  | byte
  | word
  deriving DecidableEq, Repr

/-- R177: the word of the window that an access reaches: a word access at the word's own offset, a byte access at either of
its two bytes. -/
def windowWordAt (width : AccessWidth) (offset : Nat) : Option WindowWord :=
  match width, offset with
  | _, 0 => some .data
  | _, 2 => some .statusControl
  | _, 4 => some .levels
  | _, 6 => some .identReset
  | .byte, 1 => some .data
  | .byte, 3 => some .statusControl
  | .byte, 5 => some .levels
  | .byte, 7 => some .identReset
  | _, _ => none

/-- R177: a word read of a word of the window: what it returns and what it leaves. -/
def State.readWord (s : State) : WindowWord → Word × State
  | .data => (s.readData.dataOut, s.readData)
  | .statusControl => (s.statusWord, s)
  | .levels => (s.levelsWord, s)
  | .identReset => (identWord, s)

/-- R177: a word write of a word of the window; `answered` is PORT_RESET's operand (notes/assumptions/8.md). -/
def State.writeWord (s : State) (w : WindowWord) (value : Word) (answered : Nat) : State :=
  match w with
  | .data => s.writeData value
  | .statusControl => s.writeControl value
  | .levels => s
  | .identReset => (s.abandonTransfer answered).resetBy .port

/-- R177: a read of the window at a byte offset, where it reaches a word: "A byte access to any word of the window is answered
on the bus, has no effect, and reads 0x00". -/
def State.windowRead (s : State) (width : AccessWidth) (offset : Nat) : Option (Word × State) :=
  (windowWordAt width offset).map fun w =>
    match width with
    | .byte => (0, s)
    | .word => s.readWord w

/-! ## The rows of the window -/

/-- A word is written at RESET; "any value written causes a port reset" (R177). -/
def effectPortReset (value : Word) (answered : Nat) (s : State) : State :=
  s.writeWord .identReset value answered

/-- A word is written at DATA. -/
def effectDataWrite (w : Word) (s : State) : State :=
  s.writeWord .data w 0

/-- DATA is read. -/
def effectDataRead (s : State) : State :=
  (s.readWord .data).2

/-- A CONTROL write, for its interrupt enables. -/
def effectSetInterruptEnables (c : Word) (s : State) : State :=
  s.writeWord .statusControl c 0

/-- A CONTROL write whose state-change clear bit is set (notes/assumptions/9.md). -/
def effectClearStateChangeFlag (c : Word) (s : State) : State :=
  s.writeWord .statusControl (c ||| 0x0020) 0

/-- A CONTROL write whose OVERFLOW clear bit is set (notes/assumptions/9.md). -/
def effectClearOverflow (c : Word) (s : State) : State :=
  s.writeWord .statusControl (c ||| 0x0040) 0

/-! ## The assembler (R184) -/

/-- The assembly timer runs out. -/
def effectAssemblyTimerExpiry (s : State) : State :=
  s.truncateCommand

/-- The command unit's claim for an owed result is granted. -/
def effectAssemblyResultPost (s : State) : State :=
  s.postOwed

end Sys2Proof.Machine
end

