-- ==== Sys2Proof/Machine/Grants.lean ====
section
/-! DEFINITION. The effect of each row by itself, and the grants of R189: which claim is granted next, by which row, and which
grants follow in the happening that makes a claim. -/

namespace Sys2Proof.Machine

/-! ## The row of the next grant -/

/-- The row of the command table that takes a granted command. -/
def Command.row (c : Command) : Instr :=
  match c.code with
  | .loadForm => .loadForm
  | .discardForm => .discardForm
  | .queryForm => .queryForm
  | .setProfile => .setProfile
  | .configureLine => .configureLine
  | .enableLine => .enableLine
  | .disableLine => .disableLine
  | .queryLine => .queryLine
  | .resetLine => .resetLine
  | .openForm => .openForm
  | .closeForm => .closeForm
  | .clearEntry => .clearEntry
  | .holdInput => .holdInput
  | .resumeInput => .resumeInput
  | .readField => .readField
  | .writeField => .writeField
  | .setFieldState =>
    match c.highArg with
    | 2 => .setFieldStateUnprotect
    | 3 => .setFieldStateDefined
    | 4 => .setFieldStateMark
    | 5 => .setFieldStateUnmark
    | _ => .setFieldStateProtect
  | .placeCursor => .placeCursor
  | .showMessage => .showMessage
  | .repaint => .repaint
  | .postBuffer => .postBuffer
  | .withdrawBuffers => .withdrawBuffers
  | .acceptEntry => if c.verdict = 2 then .acceptEntryRenew else .acceptEntryClose
  | .returnEntry => .returnEntry
  | .queryPart => .queryPart

/-- R189: "A grant is a happening at the Host Port, taken whenever" the first waiting claim fits. -/
def State.grantHappening (s : State) : Option Instr :=
  match s.nextGrant with
  | some (.commandUnit, _) =>
    match s.headCommand with
    | some c => some c.row
    | none => some .assemblyResultPost
  | some (.line l, _) =>
    match (s.line l).claim with
    | .event => some (.lineEvent l)
    | _ => some (.keyClaimGrant l)
  | none => none

/-! ## The effects of the rows -/

/-- What each row does by itself; the claims it makes may be granted in the same happening (R189, `State.prompted`). -/
def State.effect (s : State) (i : Instr) : State :=
  match i with
  | .powerOnReset => effectPowerOnReset s
  | .portReset value answered => effectPortReset value answered s
  | .selfCheckEnd valueOk libraryOk profileOk => effectSelfCheckEnd valueOk libraryOk profileOk s
  | .dataWrite word => effectDataWrite word s
  | .dataRead => effectDataRead s
  | .setInterruptEnables control => effectSetInterruptEnables control s
  | .clearStateChangeFlag control => effectClearStateChangeFlag control s
  | .clearOverflow control => effectClearOverflow control s
  | .assemblyTimerExpiry => effectAssemblyTimerExpiry s
  | .assemblyResultPost => effectAssemblyResultPost s
  | .loadForm => effectLoadForm s
  | .discardForm => effectDiscardForm s
  | .queryForm => effectQueryForm s
  | .setProfile => effectSetProfile s
  | .configureLine => effectConfigureLine s
  | .enableLine => effectEnableLine s
  | .disableLine => effectDisableLine s
  | .queryLine => effectQueryLine s
  | .resetLine => effectResetLine s
  | .openForm => effectOpenForm s
  | .closeForm => effectCloseForm s
  | .clearEntry => effectClearEntry s
  | .holdInput => effectHoldInput s
  | .resumeInput => effectResumeInput s
  | .readField => effectReadField s
  | .writeField => effectWriteField s
  | .setFieldStateProtect => effectSetFieldStateProtect s
  | .setFieldStateUnprotect => effectSetFieldStateUnprotect s
  | .setFieldStateDefined => effectSetFieldStateDefined s
  | .setFieldStateMark => effectSetFieldStateMark s
  | .setFieldStateUnmark => effectSetFieldStateUnmark s
  | .placeCursor => effectPlaceCursor s
  | .showMessage => effectShowMessage s
  | .repaint => effectRepaint s
  | .postBuffer => effectPostBuffer s
  | .withdrawBuffers => effectWithdrawBuffers s
  | .acceptEntryClose => effectAcceptEntryClose s
  | .acceptEntryRenew => effectAcceptEntryRenew s
  | .returnEntry => effectReturnEntry s
  | .queryPart => effectQueryPart s
  | .transferStart => effectTransferStart s
  | .formFetchEnd bytes => effectFormFetchEnd bytes s
  | .profileFetchEnd bytes => effectProfileFetchEnd bytes s
  | .presetFetchEnd bytes => effectPresetFetchEnd bytes s
  | .deliveryComplete => effectDeliveryComplete s
  | .busFault answered bytes => effectBusFault answered bytes s
  | .characterReceived line ch => effectCharacterReceived line ch s
  | .breakEnd line => effectBreakEnd line s
  | .readyInputChange line present => effectReadyInputChange line present s
  | .settleTimerExpiry line => effectSettleTimerExpiry line s
  | .stallTimerExpiry line => effectStallTimerExpiry line s
  | .byteTransmitStart line => effectByteTransmitStart line s
  | .byteTaken line => effectByteTaken line s
  | .gapTimerExpiry line => effectGapTimerExpiry line s
  | .keyClaimGrant line => effectKeyClaimGrant line s
  | .lineEvent line => effectLineEvent line s
  | .inactivityTimerExpiry line => effectInactivityTimerExpiry line s
  | .verdictTimerExpiry line => effectVerdictTimerExpiry line s
  | .unitComposition line => effectUnitComposition line s
  | .receivedStreamIdleSeen line => effectReceivedStreamIdleSeen line s

/-! ## Grants in the happening that makes the claim (R189) -/

/-- R188: is the claim of a claimant in `s` the one that it has in `t`? -/
def State.claimStays (s t : State) : Claimant → Bool
  | .commandUnit => s.assembler == t.assembler
  | .line l => (s.line l).claim == (t.line l).claim

/-- The part without the waiting claim of a claimant. -/
def State.without (s : State) : Claimant → State
  | .commandUnit => { s with assembler := .free }
  | .line l => s.modLine l fun x => { x with claim := .absent }

/-- R188, R189: the part with the claims that a row finds waiting: all but the one that it grants, from which the search goes on. -/
def State.leftWaiting (s : State) (row : Instr) : State :=
  match s.nextGrant with
  | some (c, _) => if s.grantHappening = some row then { s.without c with pointer := c } else s
  | none => s

/-- R189: "Grants follow one another as long as the condition holds", for so many rounds. -/
def State.grants : Nat → State → State
  | 0, s => s
  | n + 1, s =>
    match s.grantHappening with
    | some row => (s.effect row).grants n
    | none => s

/-- R189: `t` is what a row by itself makes of `s`. "A claim made while no other claim waits and the room suffices is granted in the
happening that makes it", and "A claim withdrawn while it stands first lets the search go on to the next waiting claimant in the same
happening": grants follow where no claim was found waiting, or the first one waits no more (notes/assumptions/2.md). -/
def State.prompted (s : State) (row : Instr) (t : State) : State :=
  match (s.leftWaiting row).firstWaiting with
  | some c => if (s.leftWaiting row).claimStays t c then t else t.grants Config.grantRounds
  | none => t.grants Config.grantRounds

end Sys2Proof.Machine
end

