-- ==== Sys2Proof/Machine/Rows.lean ====
section
/-! DEFINITION. The meaning of each row: its effect, with the grants that follow in the same happening where it can make a claim
(R189). -/

namespace Sys2Proof.Machine

/-! ## The rows -/

/-- POWER_ON_RESET; it makes no claim. -/
def execPowerOnReset (s : State) : Host.Outcome State Fault Refusal := .next (effectPowerOnReset s)

/-- PORT_RESET; it makes no claim. -/
def execPortReset (value : Word) (answered : Nat) (s : State) : Host.Outcome State Fault Refusal :=
  .next (effectPortReset value answered s)

/-- SELF_CHECK_END; it makes no claim. -/
def execSelfCheckEnd (valueOk libraryOk profileOk : Bool) (s : State) : Host.Outcome State Fault Refusal :=
  .next (effectSelfCheckEnd valueOk libraryOk profileOk s)

/-- DATA_WRITE, and the grants of the claims it makes. -/
def execDataWrite (word : Word) (s : State) : Host.Outcome State Fault Refusal :=
  .next (s.prompted (.dataWrite word) (effectDataWrite word s))

/-- DATA_READ; it makes no claim. -/
def execDataRead (s : State) : Host.Outcome State Fault Refusal := .next (effectDataRead s)

/-- SET_INTERRUPT_ENABLES; it makes no claim. -/
def execSetInterruptEnables (control : Word) (s : State) : Host.Outcome State Fault Refusal :=
  .next (effectSetInterruptEnables control s)

/-- CLEAR_STATE_CHANGE_FLAG; it makes no claim. -/
def execClearStateChangeFlag (control : Word) (s : State) : Host.Outcome State Fault Refusal :=
  .next (effectClearStateChangeFlag control s)

/-- CLEAR_OVERFLOW; it makes no claim. -/
def execClearOverflow (control : Word) (s : State) : Host.Outcome State Fault Refusal := .next (effectClearOverflow control s)

/-- ASSEMBLY_TIMER_EXPIRY, and the grants of the claims it makes. -/
def execAssemblyTimerExpiry (s : State) : Host.Outcome State Fault Refusal :=
  .next (s.prompted .assemblyTimerExpiry (effectAssemblyTimerExpiry s))

/-- ASSEMBLY_RESULT_POST, and the grants of the claims it makes. -/
def execAssemblyResultPost (s : State) : Host.Outcome State Fault Refusal :=
  .next (s.prompted .assemblyResultPost (effectAssemblyResultPost s))

/-- LOAD_FORM, and the grants of the claims it makes. -/
def execLoadForm (s : State) : Host.Outcome State Fault Refusal := .next (s.prompted .loadForm (effectLoadForm s))

/-- DISCARD_FORM, and the grants of the claims it makes. -/
def execDiscardForm (s : State) : Host.Outcome State Fault Refusal := .next (s.prompted .discardForm (effectDiscardForm s))

/-- QUERY_FORM, and the grants of the claims it makes. -/
def execQueryForm (s : State) : Host.Outcome State Fault Refusal := .next (s.prompted .queryForm (effectQueryForm s))

/-- SET_PROFILE, and the grants of the claims it makes. -/
def execSetProfile (s : State) : Host.Outcome State Fault Refusal := .next (s.prompted .setProfile (effectSetProfile s))

/-- CONFIGURE_LINE, and the grants of the claims it makes. -/
def execConfigureLine (s : State) : Host.Outcome State Fault Refusal :=
  .next (s.prompted .configureLine (effectConfigureLine s))

/-- ENABLE_LINE, and the grants of the claims it makes. -/
def execEnableLine (s : State) : Host.Outcome State Fault Refusal := .next (s.prompted .enableLine (effectEnableLine s))

/-- DISABLE_LINE, and the grants of the claims it makes. -/
def execDisableLine (s : State) : Host.Outcome State Fault Refusal := .next (s.prompted .disableLine (effectDisableLine s))

/-- QUERY_LINE, and the grants of the claims it makes. -/
def execQueryLine (s : State) : Host.Outcome State Fault Refusal := .next (s.prompted .queryLine (effectQueryLine s))

/-- RESET_LINE, and the grants of the claims it makes. -/
def execResetLine (s : State) : Host.Outcome State Fault Refusal := .next (s.prompted .resetLine (effectResetLine s))

/-- OPEN_FORM, and the grants of the claims it makes. -/
def execOpenForm (s : State) : Host.Outcome State Fault Refusal := .next (s.prompted .openForm (effectOpenForm s))

/-- CLOSE_FORM, and the grants of the claims it makes. -/
def execCloseForm (s : State) : Host.Outcome State Fault Refusal := .next (s.prompted .closeForm (effectCloseForm s))

/-- CLEAR_ENTRY, and the grants of the claims it makes. -/
def execClearEntry (s : State) : Host.Outcome State Fault Refusal := .next (s.prompted .clearEntry (effectClearEntry s))

/-- HOLD_INPUT, and the grants of the claims it makes. -/
def execHoldInput (s : State) : Host.Outcome State Fault Refusal := .next (s.prompted .holdInput (effectHoldInput s))

/-- RESUME_INPUT, and the grants of the claims it makes. -/
def execResumeInput (s : State) : Host.Outcome State Fault Refusal := .next (s.prompted .resumeInput (effectResumeInput s))

/-- READ_FIELD, and the grants of the claims it makes. -/
def execReadField (s : State) : Host.Outcome State Fault Refusal := .next (s.prompted .readField (effectReadField s))

/-- WRITE_FIELD, and the grants of the claims it makes. -/
def execWriteField (s : State) : Host.Outcome State Fault Refusal := .next (s.prompted .writeField (effectWriteField s))

/-- SET_FIELD_STATE_PROTECT, and the grants of the claims it makes. -/
def execSetFieldStateProtect (s : State) : Host.Outcome State Fault Refusal :=
  .next (s.prompted .setFieldStateProtect (effectSetFieldStateProtect s))

/-- SET_FIELD_STATE_UNPROTECT, and the grants of the claims it makes. -/
def execSetFieldStateUnprotect (s : State) : Host.Outcome State Fault Refusal :=
  .next (s.prompted .setFieldStateUnprotect (effectSetFieldStateUnprotect s))

/-- SET_FIELD_STATE_DEFINED, and the grants of the claims it makes. -/
def execSetFieldStateDefined (s : State) : Host.Outcome State Fault Refusal :=
  .next (s.prompted .setFieldStateDefined (effectSetFieldStateDefined s))

/-- SET_FIELD_STATE_MARK, and the grants of the claims it makes. -/
def execSetFieldStateMark (s : State) : Host.Outcome State Fault Refusal :=
  .next (s.prompted .setFieldStateMark (effectSetFieldStateMark s))

/-- SET_FIELD_STATE_UNMARK, and the grants of the claims it makes. -/
def execSetFieldStateUnmark (s : State) : Host.Outcome State Fault Refusal :=
  .next (s.prompted .setFieldStateUnmark (effectSetFieldStateUnmark s))

/-- PLACE_CURSOR, and the grants of the claims it makes. -/
def execPlaceCursor (s : State) : Host.Outcome State Fault Refusal := .next (s.prompted .placeCursor (effectPlaceCursor s))

/-- SHOW_MESSAGE, and the grants of the claims it makes. -/
def execShowMessage (s : State) : Host.Outcome State Fault Refusal := .next (s.prompted .showMessage (effectShowMessage s))

/-- REPAINT, and the grants of the claims it makes. -/
def execRepaint (s : State) : Host.Outcome State Fault Refusal := .next (s.prompted .repaint (effectRepaint s))

/-- POST_BUFFER, and the grants of the claims it makes. -/
def execPostBuffer (s : State) : Host.Outcome State Fault Refusal := .next (s.prompted .postBuffer (effectPostBuffer s))

/-- WITHDRAW_BUFFERS, and the grants of the claims it makes. -/
def execWithdrawBuffers (s : State) : Host.Outcome State Fault Refusal :=
  .next (s.prompted .withdrawBuffers (effectWithdrawBuffers s))

/-- ACCEPT_ENTRY_CLOSE, and the grants of the claims it makes. -/
def execAcceptEntryClose (s : State) : Host.Outcome State Fault Refusal :=
  .next (s.prompted .acceptEntryClose (effectAcceptEntryClose s))

/-- ACCEPT_ENTRY_RENEW, and the grants of the claims it makes. -/
def execAcceptEntryRenew (s : State) : Host.Outcome State Fault Refusal :=
  .next (s.prompted .acceptEntryRenew (effectAcceptEntryRenew s))

/-- RETURN_ENTRY, and the grants of the claims it makes. -/
def execReturnEntry (s : State) : Host.Outcome State Fault Refusal := .next (s.prompted .returnEntry (effectReturnEntry s))

/-- QUERY_PART, and the grants of the claims it makes. -/
def execQueryPart (s : State) : Host.Outcome State Fault Refusal := .next (s.prompted .queryPart (effectQueryPart s))

/-- TRANSFER_START; it makes no claim. -/
def execTransferStart (s : State) : Host.Outcome State Fault Refusal := .next (effectTransferStart s)

/-- FORM_FETCH_END; it makes no claim. -/
def execFormFetchEnd (bytes : List Byte) (s : State) : Host.Outcome State Fault Refusal := .next (effectFormFetchEnd bytes s)

/-- PROFILE_FETCH_END; it makes no claim. -/
def execProfileFetchEnd (bytes : List Byte) (s : State) : Host.Outcome State Fault Refusal :=
  .next (effectProfileFetchEnd bytes s)

/-- PRESET_FETCH_END, and the grants of the claims it makes. -/
def execPresetFetchEnd (bytes : List Byte) (s : State) : Host.Outcome State Fault Refusal :=
  .next (s.prompted (.presetFetchEnd bytes) (effectPresetFetchEnd bytes s))

/-- DELIVERY_COMPLETE, and the grants of the claims it makes. -/
def execDeliveryComplete (s : State) : Host.Outcome State Fault Refusal :=
  .next (s.prompted .deliveryComplete (effectDeliveryComplete s))

/-- BUS_FAULT, and the grants of the claims it makes. -/
def execBusFault (answered : Nat) (bytes : List Byte) (s : State) : Host.Outcome State Fault Refusal :=
  .next (s.prompted (.busFault answered bytes) (effectBusFault answered bytes s))

/-- CHARACTER_RECEIVED, and the grants of the claims it makes. -/
def execCharacterReceived (line : LineId) (ch : RxChar) (s : State) : Host.Outcome State Fault Refusal :=
  .next (s.prompted (.characterReceived line ch) (effectCharacterReceived line ch s))

/-- BREAK_END; it makes no claim. -/
def execBreakEnd (line : LineId) (s : State) : Host.Outcome State Fault Refusal := .next (effectBreakEnd line s)

/-- READY_INPUT_CHANGE; it makes no claim. -/
def execReadyInputChange (line : LineId) (present : Bool) (s : State) : Host.Outcome State Fault Refusal :=
  .next (effectReadyInputChange line present s)

/-- SETTLE_TIMER_EXPIRY, and the grants of the claims it makes. -/
def execSettleTimerExpiry (line : LineId) (s : State) : Host.Outcome State Fault Refusal :=
  .next (s.prompted (.settleTimerExpiry line) (effectSettleTimerExpiry line s))

/-- STALL_TIMER_EXPIRY, and the grants of the claims it makes. -/
def execStallTimerExpiry (line : LineId) (s : State) : Host.Outcome State Fault Refusal :=
  .next (s.prompted (.stallTimerExpiry line) (effectStallTimerExpiry line s))

/-- BYTE_TRANSMIT_START; it makes no claim. -/
def execByteTransmitStart (line : LineId) (s : State) : Host.Outcome State Fault Refusal :=
  .next (effectByteTransmitStart line s)

/-- BYTE_TAKEN, and the grants of the claims it makes. -/
def execByteTaken (line : LineId) (s : State) : Host.Outcome State Fault Refusal :=
  .next (s.prompted (.byteTaken line) (effectByteTaken line s))

/-- GAP_TIMER_EXPIRY, and the grants of the claims it makes. -/
def execGapTimerExpiry (line : LineId) (s : State) : Host.Outcome State Fault Refusal :=
  .next (s.prompted (.gapTimerExpiry line) (effectGapTimerExpiry line s))

/-- KEY_CLAIM_GRANT, and the grants of the claims it makes. -/
def execKeyClaimGrant (line : LineId) (s : State) : Host.Outcome State Fault Refusal :=
  .next (s.prompted (.keyClaimGrant line) (effectKeyClaimGrant line s))

/-- LINE_EVENT, and the grants of the claims it makes. -/
def execLineEvent (line : LineId) (s : State) : Host.Outcome State Fault Refusal :=
  .next (s.prompted (.lineEvent line) (effectLineEvent line s))

/-- INACTIVITY_TIMER_EXPIRY, and the grants of the claims it makes. -/
def execInactivityTimerExpiry (line : LineId) (s : State) : Host.Outcome State Fault Refusal :=
  .next (s.prompted (.inactivityTimerExpiry line) (effectInactivityTimerExpiry line s))

/-- VERDICT_TIMER_EXPIRY, and the grants of the claims it makes. -/
def execVerdictTimerExpiry (line : LineId) (s : State) : Host.Outcome State Fault Refusal :=
  .next (s.prompted (.verdictTimerExpiry line) (effectVerdictTimerExpiry line s))

/-- UNIT_COMPOSITION, and the grants of the claims it makes. -/
def execUnitComposition (line : LineId) (s : State) : Host.Outcome State Fault Refusal :=
  .next (s.prompted (.unitComposition line) (effectUnitComposition line s))

/-- RECEIVED_STREAM_IDLE_SEEN; it makes no claim. -/
def execReceivedStreamIdleSeen (line : LineId) (s : State) : Host.Outcome State Fault Refusal :=
  .next (effectReceivedStreamIdleSeen line s)

/-! ## A write of the window (R177) -/

/-- R177: a write of the window at a byte offset, where it reaches a word. -/
def State.windowWrite (s : State) (width : AccessWidth) (offset : Nat) (value : Word) (answered : Nat) : Option State :=
  (windowWordAt width offset).map fun w =>
    match width with
    | .byte => s
    | .word =>
      match w with
      | .data => s.prompted (.dataWrite value) (s.writeWord .data value answered)
      | w => s.writeWord w value answered

end Sys2Proof.Machine
end

