-- ==== Sys2Proof/Machine/Dispatch.lean ====
section
/-! DEFINITION. One arm per command: its meaning. -/

namespace Sys2Proof.Machine

/-- The effect of a command on everything but the queue of waiting commands. -/
def exec (i : Instr) (s : State) : Host.Outcome State Fault Refusal :=
  match i with
  | .powerOnReset => Sys2Proof.Machine.execPowerOnReset s
  | .portReset value answered => Sys2Proof.Machine.execPortReset value answered s
  | .selfCheckEnd valueOk libraryOk profileOk => Sys2Proof.Machine.execSelfCheckEnd valueOk libraryOk profileOk s
  | .dataWrite word => Sys2Proof.Machine.execDataWrite word s
  | .dataRead => Sys2Proof.Machine.execDataRead s
  | .setInterruptEnables control => Sys2Proof.Machine.execSetInterruptEnables control s
  | .clearStateChangeFlag control => Sys2Proof.Machine.execClearStateChangeFlag control s
  | .clearOverflow control => Sys2Proof.Machine.execClearOverflow control s
  | .assemblyTimerExpiry => Sys2Proof.Machine.execAssemblyTimerExpiry s
  | .assemblyResultPost => Sys2Proof.Machine.execAssemblyResultPost s
  | .loadForm => Sys2Proof.Machine.execLoadForm s
  | .discardForm => Sys2Proof.Machine.execDiscardForm s
  | .queryForm => Sys2Proof.Machine.execQueryForm s
  | .setProfile => Sys2Proof.Machine.execSetProfile s
  | .configureLine => Sys2Proof.Machine.execConfigureLine s
  | .enableLine => Sys2Proof.Machine.execEnableLine s
  | .disableLine => Sys2Proof.Machine.execDisableLine s
  | .queryLine => Sys2Proof.Machine.execQueryLine s
  | .resetLine => Sys2Proof.Machine.execResetLine s
  | .openForm => Sys2Proof.Machine.execOpenForm s
  | .closeForm => Sys2Proof.Machine.execCloseForm s
  | .clearEntry => Sys2Proof.Machine.execClearEntry s
  | .holdInput => Sys2Proof.Machine.execHoldInput s
  | .resumeInput => Sys2Proof.Machine.execResumeInput s
  | .readField => Sys2Proof.Machine.execReadField s
  | .writeField => Sys2Proof.Machine.execWriteField s
  | .setFieldStateProtect => Sys2Proof.Machine.execSetFieldStateProtect s
  | .setFieldStateUnprotect => Sys2Proof.Machine.execSetFieldStateUnprotect s
  | .setFieldStateDefined => Sys2Proof.Machine.execSetFieldStateDefined s
  | .setFieldStateMark => Sys2Proof.Machine.execSetFieldStateMark s
  | .setFieldStateUnmark => Sys2Proof.Machine.execSetFieldStateUnmark s
  | .placeCursor => Sys2Proof.Machine.execPlaceCursor s
  | .showMessage => Sys2Proof.Machine.execShowMessage s
  | .repaint => Sys2Proof.Machine.execRepaint s
  | .postBuffer => Sys2Proof.Machine.execPostBuffer s
  | .withdrawBuffers => Sys2Proof.Machine.execWithdrawBuffers s
  | .acceptEntryClose => Sys2Proof.Machine.execAcceptEntryClose s
  | .acceptEntryRenew => Sys2Proof.Machine.execAcceptEntryRenew s
  | .returnEntry => Sys2Proof.Machine.execReturnEntry s
  | .queryPart => Sys2Proof.Machine.execQueryPart s
  | .transferStart => Sys2Proof.Machine.execTransferStart s
  | .formFetchEnd bytes => Sys2Proof.Machine.execFormFetchEnd bytes s
  | .profileFetchEnd bytes => Sys2Proof.Machine.execProfileFetchEnd bytes s
  | .presetFetchEnd bytes => Sys2Proof.Machine.execPresetFetchEnd bytes s
  | .deliveryComplete => Sys2Proof.Machine.execDeliveryComplete s
  | .busFault answered bytes => Sys2Proof.Machine.execBusFault answered bytes s
  | .characterReceived line ch => Sys2Proof.Machine.execCharacterReceived line ch s
  | .breakEnd line => Sys2Proof.Machine.execBreakEnd line s
  | .readyInputChange line present => Sys2Proof.Machine.execReadyInputChange line present s
  | .settleTimerExpiry line => Sys2Proof.Machine.execSettleTimerExpiry line s
  | .stallTimerExpiry line => Sys2Proof.Machine.execStallTimerExpiry line s
  | .byteTransmitStart line => Sys2Proof.Machine.execByteTransmitStart line s
  | .byteTaken line => Sys2Proof.Machine.execByteTaken line s
  | .gapTimerExpiry line => Sys2Proof.Machine.execGapTimerExpiry line s
  | .keyClaimGrant line => Sys2Proof.Machine.execKeyClaimGrant line s
  | .lineEvent line => Sys2Proof.Machine.execLineEvent line s
  | .inactivityTimerExpiry line => Sys2Proof.Machine.execInactivityTimerExpiry line s
  | .verdictTimerExpiry line => Sys2Proof.Machine.execVerdictTimerExpiry line s
  | .unitComposition line => Sys2Proof.Machine.execUnitComposition line s
  | .receivedStreamIdleSeen line => Sys2Proof.Machine.execReceivedStreamIdleSeen line s

end Sys2Proof.Machine
end

