-- ==== Sys2Proof/Machine/Tick.lean ====
section
/-! DEFINITION. What the block does when no command waits (notes/assumptions/3.md): the happenings that the spec says are
"taken whenever" their condition holds, and, when none does, one 10 ms tick of the timers. -/

namespace Sys2Proof.Machine

/-! ## The block's own happenings -/

/-- R69, R30: the Key Interpreter of a line takes what it considers. -/
def State.byteHappening (s : State) (l : LineId) : Option Instr :=
  if (s.line l).inputRow = .closing then (if (s.line l).typeAhead.isEmpty then none else some (.byteTaken l))
  else
    match s.considered l with
    | some rel => if s.takesFreely l rel then some (.byteTaken l) else none
    | none => none

/-- R170: the Bus Master starts a transfer. -/
def State.startHappening (s : State) : Option Instr :=
  match s.transfer, s.busQueue with
  | none, _ :: _ => some .transferStart
  | _, _ => none

/-- R105: Screen Maintenance composes a unit. -/
def State.composeHappening (s : State) (l : LineId) : Option Instr :=
  match s.composable l with
  | some _ => some (.unitComposition l)
  | none => none

/-- R162: the transmitter of a line starts a byte. -/
def State.transmitHappening (s : State) (l : LineId) : Option Instr :=
  if !(s.line l).output.isEmpty && (s.line l).on && ((s.line l).flow == .flowing || !(s.line l).config.flowControl) then
    some (.byteTransmitStart l)
  else none

/-- The happening the block takes of itself, in the order the model fixes (notes/assumptions/3.md). -/
def State.ownHappening (s : State) : Option Instr :=
  allLines.findSome? s.composeHappening <|> allLines.findSome? s.transmitHappening <|> s.grantHappening <|>
    allLines.findSome? s.byteHappening <|> s.startHappening

/-! ## The tick -/

/-- One tick of the timers of an instance. -/
def Inst.tick (i : Inst) : Inst := { i with inactivity := i.inactivity.tick, verdictTimer := i.verdictTimer.tick }

/-- One tick of the timers of a line. -/
def Line.tick (x : Line) : Line :=
  { x with
    settleTimer := x.settleTimer.tick
    stallTimer := x.stallTimer.tick
    gapTimer := x.gapTimer.tick
    inst := x.inst.map Inst.tick }

/-- R184: one tick of the assembly timer. -/
def Assembler.tick : Assembler → Assembler
  | .gathering t => .gathering t.tick
  | a => a

/-- The expiry of a timer that has run out. -/
def expiry (t : Timer) (i : Instr) : List Instr := if t.ranOut then [i] else []

/-- The expiries of a line's timers. -/
def Line.expiries (x : Line) (l : LineId) : List Instr :=
  expiry x.settleTimer (.settleTimerExpiry l) ++ expiry x.stallTimer (.stallTimerExpiry l) ++
    expiry x.gapTimer (.gapTimerExpiry l) ++
    (match x.inst with
      | some i => expiry i.inactivity (.inactivityTimerExpiry l) ++ expiry i.verdictTimer (.verdictTimerExpiry l)
      | none => [])

/-- The expiry of the assembly timer. -/
def Assembler.expiries : Assembler → List Instr
  | .gathering t => expiry t .assemblyTimerExpiry
  | _ => []

/-- One tick: every running timer counts one tick down, and the expiries of those that have run out wait as commands. -/
def State.tick (s : State) : State :=
  let t := allLines.foldl (fun s l => s.modLine l Line.tick) { s with assembler := s.assembler.tick }
  { t with pending := t.pending ++ t.assembler.expiries ++ allLines.flatMap fun l => Line.expiries (t.line l) l }

end Sys2Proof.Machine
end

