-- ==== Sys2Proof/Safety.lean ====
section
/-! DEFINITION. The words in which claims about the block are stated: what offering and taking a command mean, what follows
on a line, and what every state keeps. -/

namespace Sys2Proof.Safety

open Sys2Proof.Machine

/-! ## Results and the taking of a command -/

/-- R195: a RESULT: kind 0x01 and the word count, the tag and the status number, and the data words. -/
def result (tag status : Byte) (data : List Word) : List Word :=
  wordOf (byte (data.length + 2)) 0x01 :: wordOf tag status :: data

/-- R184: what a FREE assembler makes of the words in the command queue: nothing of an empty queue, a BAD_LENGTH result
owed for a count outside 2 to 40, and otherwise a command complete or under assembly. -/
def HeaderTaken (words : List Word) (a : Assembler) (queue : List Word) : Prop :=
  match words with
  | [] => a = .free ∧ queue = []
  | h :: rest =>
    if (lowByte h).toNat < 2 ∨ 40 < (lowByte h).toNat then a = .owing 0 .badLength ∧ queue = rest
    else
      queue = h :: rest ∧
        a = if (lowByte h).toNat ≤ rest.length + 1 then .complete (decodeHeader (highByte h) (lowByte h).toNat)
          else .gathering (.running 5)

/-- The command unit holds a complete command with these words at the head of the command queue, `rest` behind them, and
its claim is the one granted next (R184, R186, R189). -/
structure Offered (s : State) (code : CommandCode) (tag target : Byte) (args rest : List Word) : Prop where
  complete : s.assembler = .complete (.command code)
  words : ∃ h, (lowByte h).toNat = args.length + 2 ∧ s.commandQueue = h :: wordOf tag target :: (args ++ rest)
  turn : s.nextGrant = some (.commandUnit, code.reservation)

/-- R186: `t` is `u`, but that the command's words have left the command queue and the rotation pointer stands at the command
unit. That the header behind them is taken up in the same happening is DEDUCED (notes/assumptions/15.md). -/
def Took (u t : State) (rest : List Word) : Prop :=
  HeaderTaken rest t.assembler t.commandQueue ∧
    t = { u with assembler := t.assembler, commandQueue := t.commandQueue, pointer := .commandUnit }

/-- The codes, the least and greatest counts and the reservations of R185 and R194. -/
def commandTable : List (Nat × Nat × Nat × Nat × CommandCode) :=
  [(0x01, 5, 5, 4, .loadForm), (0x02, 2, 2, 2, .discardForm), (0x03, 2, 2, 8, .queryForm), (0x04, 4, 4, 4, .setProfile),
   (0x05, 9, 9, 2, .configureLine), (0x06, 2, 2, 2, .enableLine), (0x07, 2, 2, 2, .disableLine),
   (0x08, 2, 2, 14, .queryLine), (0x09, 3, 3, 5, .resetLine), (0x0A, 6, 6, 4, .openForm), (0x0B, 4, 4, 5, .closeForm),
   (0x0C, 3, 3, 2, .clearEntry), (0x0D, 2, 2, 2, .holdInput), (0x0E, 2, 2, 2, .resumeInput), (0x0F, 4, 4, 43, .readField),
   (0x10, 4, 40, 3, .writeField), (0x11, 4, 4, 3, .setFieldState), (0x12, 4, 4, 2, .placeCursor),
   (0x13, 4, 40, 2, .showMessage), (0x14, 3, 3, 2, .repaint), (0x15, 5, 5, 3, .postBuffer), (0x16, 2, 2, 3, .withdrawBuffers),
   (0x17, 4, 4, 3, .acceptEntry), (0x18, 4, 40, 2, .returnEntry), (0x19, 2, 2, 10, .queryPart)]

/-- R189: how far round the ring a claimant stands behind the pointer, the claimant after it first. -/
def ringDistance (p c : Claimant) : Nat := (c.place + 12 - p.place) % 13

/-- R188: the claim of a claimant in `s` is the one that it has in `t`. -/
def SameClaim (s t : State) : Claimant → Prop
  | .commandUnit => s.assembler = t.assembler
  | .line l => (s.line l).claim = (t.line l).claim

/-- R189: the row is that of the next grant, and this claimant is granted by it. -/
def GrantedBy (s : State) (row : Instr) (c : Claimant) : Prop :=
  s.grantHappening = some row ∧ ∃ n, s.nextGrant = some (c, n)

/-- R189: of the claims that the row finds waiting, but for the one that it grants, that of `c` is the first, searched round the
ring from the claimant after the one granted last. -/
def FirstFound (s : State) (row : Instr) (c : Claimant) : Prop :=
  (s.claimOf c ≠ none ∧ ¬ GrantedBy s row c) ∧
    ∀ p, (GrantedBy s row p ∨ (∀ g, ¬ GrantedBy s row g) ∧ p = s.pointer) →
      ∀ c', s.claimOf c' ≠ none → ¬ GrantedBy s row c' → ringDistance p c ≤ ringDistance p c'

/-- R189: "Grants follow one another as long as the condition holds": from `s`, grants lead to `t`, where none can follow or the
number of rounds is used up. -/
inductive GrantsLead : Nat → State → State → Prop
  | stop (n : Nat) (s : State) : s.nextGrant = none → GrantsLead n s s
  | spent (s : State) : GrantsLead 0 s s
  | grant {n : Nat} {s t : State} {row : Instr} : s.grantHappening = some row → GrantsLead n (s.effect row) t →
      GrantsLead (n + 1) s t

/-- `m'` is `m` with a run of bytes written from an address upward. -/
def Wrote (m m' : Memory) (address : Nat) (bytes : List Byte) : Prop :=
  (∀ k, k < bytes.length → m'.read (address + k) = bytes[k]?) ∧
    ∀ x, (x < address ∨ address + bytes.length ≤ x) → m'.read x = m.read x

/-! ## What keys release -/

/-- R72: no entry of the key table begins with this byte. -/
def StandsAlone (p : Profile) (b : Byte) : Prop := ∀ e ∈ p.keyTable, e.keys.head? ≠ some b

/-- R146: the control map's action for a control byte. -/
def mapsTo (p : Profile) (b : Byte) (a : Action) : Prop :=
  control b = true ∧ p.controlMap.getD (if b = 0x7F then 32 else b.toNat) .ignore = a

/-- R72: the sequence is exactly an entry of the key table, and this is its action. -/
def IsEntry (p : Profile) (q : List Byte) (a : Action) : Prop :=
  (∃ k ∈ p.keyTable, k.keys = q) ∧ ∀ k ∈ p.keyTable, k.keys = q → k.action = a

/-- R72: some entry of the key table is longer than the sequence and begins with it. -/
def OpensEntry (p : Profile) (q : List Byte) : Prop := ∃ k ∈ p.keyTable, q <+: k.keys ∧ k.keys ≠ q

/-- R70: an action as it is handed on: "An IGNORE element is dropped when the run is formed". -/
def handed (a : Action) : List Elem := if a = .ignore then [] else [.action a]

/-- R71: what a byte classified alone gives, and whether it asks for a bell. -/
def Alone (p : Profile) (b : Byte) (es : List Elem) (bell : Bool) : Prop :=
  (∃ a, mapsTo p b a ∧ es = handed a ∧ bell = false) ∨ (printable b = true ∧ es = [.char b] ∧ bell = false) ∨
    (control b = false ∧ printable b = false ∧ es = [] ∧ bell = true)

/-- R73, R75: the first release of the pending bytes: the longest entry that is a prefix of them gives its action, or, where no
entry is, their first byte goes through the control map; `rest` is left over. -/
def FirstOf (p : Profile) (pending : List Byte) (a : Action) (rest : List Byte) : Prop :=
  (∃ q, q ≠ [] ∧ pending = q ++ rest ∧ IsEntry p q a ∧
    ∀ k ∈ p.keyTable, k.keys <+: pending → k.keys.length ≤ q.length) ∨
  ∃ b, pending = b :: rest ∧ mapsTo p b a ∧ ∀ k ∈ p.keyTable, k.keys ≠ [] → ¬ k.keys <+: pending

/-- R72, R73: bytes examined one at a time with the pending bytes: the run they release, the bytes they leave pending, and whether
one of them asked for a bell. -/
inductive Examined (p : Profile) : List Byte → List Byte → List Elem → List Byte → Bool → Prop
  | none (pending : List Byte) : Examined p pending [] [] pending false
  | opens {pending : List Byte} {b : Byte} {bs es left bell} : OpensEntry p (pending ++ [b]) →
      Examined p (pending ++ [b]) bs es left bell → Examined p pending (b :: bs) es left bell
  | entry {pending : List Byte} {b : Byte} {a bs es left bell} : IsEntry p (pending ++ [b]) a →
      ¬ OpensEntry p (pending ++ [b]) → Examined p [] bs es left bell →
        Examined p pending (b :: bs) (handed a ++ es) left bell
  | alone {b : Byte} {es bs es' left bell bell'} : StandsAlone p b → Alone p b es bell →
      Examined p [] bs es' left bell' → Examined p [] (b :: bs) (es ++ es') left (bell || bell')
  | release {pending : List Byte} {b : Byte} {a rest bs es left bell} : pending ≠ [] →
      (∀ k ∈ p.keyTable, ¬ (pending ++ [b]) <+: k.keys) → FirstOf p pending a rest →
        Examined p [] (rest ++ b :: bs) es left bell → Examined p pending (b :: bs) (handed a ++ es) left bell

/-- R75: what the pending bytes release as they stand. -/
def PendingOut (p : Profile) (pending : List Byte) (es : List Elem) (left : List Byte) (bell : Bool) : Prop :=
  (pending = [] ∧ es = [] ∧ left = [] ∧ bell = false) ∨
  ∃ a rest es', FirstOf p pending a rest ∧ Examined p [] rest es' left bell ∧ es = handed a ++ es'

/-- R72, R73, R81: what an entry of the type-ahead releases when it is taken with the pending bytes. -/
def EntryOut (p : Profile) (action : BreakAction) (pending : List Byte) (e : Entry) (es : List Elem) (left : List Byte)
    (bell : Bool) : Prop :=
  match e, action with
  | .byte b, _ => Examined p pending [b] es left bell
  | .breakMarker, .ignore => es = [] ∧ left = pending ∧ bell = false
  | .breakMarker, .refresh => ∃ es', PendingOut p pending es' left bell ∧ es = es' ++ [.action .refresh]
  | .breakMarker, .attention => ∃ es', PendingOut p pending es' left bell ∧ es = es' ++ [.action .attention]

/-- R69, R75, R77: the run that the Key Interpreter of line `l` considers: that of a due release, or of the entry at the head. -/
def Considers (s : State) (l : LineId) (es : List Elem) : Prop :=
  ∃ left bell,
    ((s.line l).releaseDue = true ∧ PendingOut (s.lineProfile l) (s.line l).pendingKeys es left bell) ∨
    ((s.line l).releaseDue = false ∧ ∃ e q, (s.line l).typeAhead = e :: q ∧
      EntryOut (s.lineProfile l) (s.line l).config.breakAction (s.line l).pendingKeys e es left bell)

/-! ## What follows on a line -/

/-- R30: the rows of the table that interpret bytes. -/
def Interprets (x : Line) : Bool :=
  match x.inst with
  | some i =>
    !x.detached && !i.held &&
      decide (i.phase = .editing ∨ i.phase = .awaitBuffer ∨ i.phase = .delivering ∨ i.phase = .awaitVerdict)
  | none => false

/-- R30: the row that takes bytes and interprets them in EDITING. -/
def Editable (x : Line) : Bool :=
  match x.inst with
  | some i => decide (i.phase = .editing) && !i.held && !x.detached
  | none => false

/-- R74: the gap timer after a happening that leaves the rest of the line as `y`: it starts from the full key gap, goes on,
or stops. -/
def gapAfter (y : Line) : Timer :=
  if y.pendingKeys ≠ [] ∧ Interprets y = true ∧ y.typeAhead = [] ∧ y.releaseDue = false then
    match y.gapTimer with
    | .running n => .running n
    | _ => .running y.config.keyGap
  else .stopped

/-- R101: the inactivity timer of an instance after a happening that leaves its line as `y`: a stopped one starts from the
full time while the instance is edited, a running one stops when that ends, a spent one waits for a keystroke; a time of 0
starts none. -/
def inactivityAfter (y : Line) (i : Inst) : Timer :=
  match i.inactivity with
  | .stopped => if Editable y = true ∧ y.config.inactivity ≠ 0 then .running (100 * y.config.inactivity) else .stopped
  | .running n => if Editable y = true then .running n else .stopped
  | .spent => .spent

/-- `x` is `y` with what follows in the same happening: the gap timer (R74), the inactivity timer (R101) and the line's
claim, where a waiting key claim stays while the instance is edited (R79, R80), event flags claim otherwise (R166), and a
key claim is made for a release due or an entry of the type-ahead alone (R77). -/
structure Becomes (x y : Line) : Prop where
  line : x = { y with
    inst := y.inst.map fun i => { i with inactivity := inactivityAfter y i }
    gapTimer := gapAfter y
    claim := x.claim }
  keyStays : ∀ n, y.claim = .key n → Editable y = true → x.claim = .key n
  eventClaim : (Editable y = true → ∀ n, y.claim ≠ .key n) → y.flags.any = true → x.claim = .event
  otherClaim : (Editable y = true → ∀ n, y.claim ≠ .key n) → y.flags.any = false →
    x.claim = .absent ∨
      Editable y = true ∧ (y.releaseDue = true ∨ y.typeAhead ≠ []) ∧ ∃ n, 0 < n ∧ x.claim = .key n

/-- R77, R80: the claim `c` that a happening leaves on the line `l` of a part that stands as `v` but for that claim: in EDITING,
with no event flag set and no key claim waiting, the words that the considered run would need as the instance now stands are
claimed, and nothing is claimed where it needs none. -/
def ClaimMade (v : State) (l : LineId) (c : LineClaim) : Prop :=
  Editable (v.line l) = true → (v.line l).flags.any = false → (∀ n, (v.line l).claim ≠ .key n) →
    ∀ es, Considers v l es → c = if v.runNeed l es = 0 then .absent else .key (v.runNeed l es)

/-! ## What a row does -/

/-- R189: the row by itself makes `t` of `s`, and its happening is that with the grants that follow in it. -/
def Gives (row : Instr) (s t : State) : Prop := s.effect row = t ∧ exec row s = .next (s.prompted row t)

/-- The command row takes its command and leaves `u`. -/
def Does (row : Instr) (s : State) (rest : List Word) (u : State) : Prop := ∃ t, Gives row s t ∧ Took u t rest

/-- The command row takes its command and leaves `u`, with the line `l` as `y` and what follows there: the claim is made before
the next header is taken up. -/
def DoesOn (row : Instr) (s : State) (rest : List Word) (u : State) (l : LineId) (y : Line) : Prop :=
  ∃ t, Gives row s t ∧ Took (u.setLine l (t.line l)) t rest ∧ Becomes (t.line l) y ∧
    ClaimMade (State.setLine { t with assembler := .free, commandQueue := rest } l { t.line l with claim := y.claim }) l
      (t.line l).claim

/-- The command row answers at once with this result and changes nothing but the host port. -/
def Answers (row : Instr) (s : State) (rest : List Word) (r : List Word) : Prop :=
  Does row s rest { s with answerQueue := s.answerQueue ++ r }

/-- The command row answers at once with this result and changes nothing but the host port and what follows on line `l`. -/
def AnswersOn (row : Instr) (s : State) (rest : List Word) (r : List Word) (l : LineId) : Prop :=
  DoesOn row s rest { s with answerQueue := s.answerQueue ++ r } l (s.line l)

/-- The row of a happening on a line leaves `u`, with the line `l` as `y` and what follows there. -/
def Leaves (row : Instr) (s : State) (u : State) (l : LineId) (y : Line) : Prop :=
  ∃ x, Gives row s (u.setLine l x) ∧ Becomes x y ∧ ClaimMade (u.setLine l { x with claim := y.claim }) l x.claim

/-! ## Instances -/

/-- R60: the runtime records of the fields at their opening values, their stale marks as given. -/
def freshFields (d : FormDef) (stale : Option Nat) : List FieldRec :=
  (List.range d.fields.length).map fun n =>
    ⟨(d.default n).length, false, !fieldCheck (d.field n) (d.default n), false, .none, stale⟩

/-- The lowest-numbered field that the definition leaves unprotected. -/
def firstOpenField (d : FormDef) : Option Nat :=
  (List.range d.fields.length).find? fun n => !(d.field n).attrs.isProtected

/-- R31, R32, R33: an instance just opened, in PRESETTING (with the tag of its OPEN FORM) or in PAINTING with a full
repaint. -/
def opened (d : FormDef) (k : SlotId) (serial : Word) (base : Nat) (openTag : Option Byte) : Inst where
  slot := k
  serial := serial
  phase := if openTag.isSome then .presetting else .painting
  held := false
  late := false
  extent := ⟨base, (d.valueTotal + 7) / 8⟩
  cursorField := firstOpenField d
  cursorPos := 0
  insertMode := .overwrite
  edited := false
  message := []
  imageSize := 0
  resubmit := false
  heldBuffer := none
  reservation := if openTag.isSome then 4 else 0
  pendingOpen := openTag
  pendingClose := []
  inactivity := .stopped
  verdictTimer := .stopped
  fields := freshFields d (if openTag.isSome then none else some 0)
  textIndex := if openTag.isSome then none else some 0
  messageStale := openTag.isNone
  cursorStale := openTag.isNone
  paintLeft := none

/-- R29: the part after the retirement of an instance, its line apart: the extent is free again, the use count of its slot
falls by one, its place in the waiting-lines queue and its requests are gone, and its reservation is released. -/
def retired (s : State) (l : LineId) (i : Inst) : State :=
  State.setSlot
    { s with
      freeList := releaseExtent i.extent s.freeList
      waiting := s.waiting.filter fun m => m != l
      busQueue := s.busQueue.filter fun r => r.owner != .presetFetch l && r.owner != .delivery l
      reserved := s.reserved - i.reservation }
    i.slot { s.slot i.slot with useCount := (s.slot i.slot).useCount - 1 }

/-- R29, R42: a line after the retirement of its instance, with a clear queued where one is asked for and the line is ON and
not detached. -/
def retiredLine (x : Line) (clear : Bool) : Line :=
  { x with
    pendingKeys := []
    releaseDue := false
    typeAhead := []
    inst := none
    clearPending := x.clearPending || clear && x.on && !x.detached }

/-- R43: the line-level effects of a RESET LINE, with the instance's display work discarded. -/
def flushedLine (x : Line) : Line :=
  { x with
    typeAhead := []
    output := []
    pendingKeys := []
    releaseDue := false
    flags := EventFlags.clear
    timeoutSerial := none
    framing := 0
    parityCount := 0
    overrun := 0
    flow := .flowing
    stallTimer := .stopped
    claim := .absent
    clearPending := false
    bellPending := false
    knownCursor := none
    inst := x.inst.map fun i =>
      { i with
        fields := i.fields.map fun r => { r with staleFrom := none }
        textIndex := none
        messageStale := false
        cursorStale := false
        paintLeft := none } }

/-- Is the transfer in progress the one the instance waits for? -/
def waitsFor (s : State) (l : LineId) (i : Inst) : Prop :=
  ∃ r, s.transfer = some r ∧
    (i.phase = .presetting ∧ r.owner = .presetFetch l ∨ i.phase = .delivering ∧ r.owner = .delivery l)

/-- R84: the cursor enters a field at a position, or is NONE. -/
def atCursor (i : Inst) (field : Option Nat) (pos : Nat) : Inst :=
  { i with cursorField := field, cursorPos := pos, edited := false, cursorStale := true }

/-- R104: the instance's items of a full repaint. -/
def repainted (i : Inst) : Inst :=
  { i with
    fields := i.fields.map fun r => { r with staleFrom := some 0 }
    textIndex := some 0
    messageStale := true
    cursorStale := true
    paintLeft := none }

/-- R104, R117: a line with a full repaint set; EDITING becomes PAINTING. -/
def repaintedLine (x : Line) (i : Inst) : Line :=
  { x with
    clearPending := x.clearPending || !x.detached
    inst := some { repainted i with phase := if i.phase = .editing then .painting else i.phase } }

/-- R37, R60, R135: an instance whose entry starts again at the opening values. -/
def restarted (d : FormDef) (i : Inst) : Inst :=
  atCursor
    { i with
      fields := freshFields d (some 0)
      late := false
      message := []
      messageStale := true
      paintLeft := none
      phase := .painting }
    (firstOpenField d) 0

/-- R51: the record of a field of an instance. -/
def withField (i : Inst) (n : Nat) (r : FieldRec) : Inst := { i with fields := i.fields.set n r }

/-- R128, R129: an instance matched to a descriptor. -/
def matched (i : Inst) (d : Descriptor) : Inst := { i with phase := .delivering, heldBuffer := some d }

/-- R129: the part after a descriptor has joined the list: the oldest waiting instance whose image fits takes it, or it stays
in the list where it joined. -/
def Offers (s : State) (d : Descriptor) (joined : List Descriptor) (u : State) : Prop :=
  (∀ m, s.waiting.find? (fun m => decide ((s.instOf m).imageSize ≤ d.length.toNat)) = some m →
    u = State.setLine
      { s with
        waiting := s.waiting.filter fun x => x != m
        busQueue := s.busQueue ++ [⟨.delivery m, d.address, (s.instOf m).imageSize⟩] }
      m { s.line m with inst := (s.line m).inst.map fun i => matched i d }) ∧
    (s.waiting.find? (fun m => decide ((s.instOf m).imageSize ≤ d.length.toNat)) = none →
      u = { s with bufferList := joined })

/-- R28: a command that names the line `l` and, by its serial or by 0, the instance `i` there. -/
structure Named (s : State) (target : Byte) (serial : Word) (l : LineId) (i : Inst) : Prop where
  line : target.toNat = l.val
  inst : (s.line l).inst = some i
  serial : serial = 0 ∨ serial = i.serial

/-- The line `l` with this instance. -/
def lineWith (s : State) (l : LineId) (i : Inst) : Line := { s.line l with inst := some i }

/-- R51, R66: a field's record after a change of its protection override: the cursor leaves a cursor field that became
protected for the next unprotected field in field order, wrapping, and a cursor at NONE enters the lowest unprotected
field. -/
def overridden (d : FormDef) (i : Inst) (n : Nat) (o : Override) : Inst :=
  let j := withField i n { i.field n with override := o }
  if j.fieldProtected d n = i.fieldProtected d n then j
  else if j.fieldProtected d n = true then
    if i.cursorField = some n then
      atCursor j (((List.range d.fields.length).rotate (n + 1)).find? fun m => !j.fieldProtected d m) 0
    else j
  else if i.cursorField = none then
    atCursor j ((List.range d.fields.length).find? fun m => !j.fieldProtected d m) 0
  else j

/-! ## Lines and the bus -/

/-- R166: a line with event flags changed; on an ON line only. -/
def flagged (x : Line) (f : EventFlags → EventFlags) : Line := if x.on = true then { x with flags := f x.flags } else x

/-- R157: a receive count that rises, to 255 at most. -/
def raised (c : Byte) : Byte := if c = 255 then 255 else c + 1

/-- R30, R158, R159: a byte or a break marker meets the line: IDLE_KEY without an instance, discarded on a detached line,
placed in a type-ahead of fewer than 32 entries, and an overrun otherwise. -/
def meets (x : Line) (e : Entry) : Line :=
  if x.inst = none then { x with flags := { x.flags with idleKey := true } }
  else if x.detached = true then x
  else if x.typeAhead.length < 32 then { x with typeAhead := x.typeAhead ++ [e] }
  else { x with overrun := raised x.overrun, flags := { x.flags with receiveFault := true } }

/-- R157: the byte of a character: seven or eight data bits. -/
def dataByte (x : Line) (c : RxChar) : Byte := match x.config.dataBits with | .seven => c.data &&& 0x7F | .eight => c.data

/-- R157: does the parity bit disagree with the data bits? What even and odd parity mean is PRESUMED (notes/assumptions/17.md). -/
def parityBad (x : Line) (c : RxChar) : Prop :=
  let ones := ((List.range 8).filter fun k => (dataByte x c).getLsbD k).length + if c.parityBit then 1 else 0
  x.config.parity = .even ∧ ones % 2 = 1 ∨ x.config.parity = .odd ∧ ones % 2 = 0

/-- R157, R160: the line `x` after a character: the five steps in order, the first that disposes of it. -/
structure Received (x : Line) (p : Profile) (c : RxChar) (y : Line) : Prop where
  isBreak : dataByte x c = 0 → c.stopIdle = false → y = meets { x with breakState := .inBreak } .breakMarker
  framing : dataByte x c ≠ 0 → c.stopIdle = false →
    y = { x with framing := raised x.framing, flags := { x.flags with receiveFault := true } }
  parity : c.stopIdle = true → parityBad x c →
    y = { x with parityCount := raised x.parityCount, flags := { x.flags with receiveFault := true } }
  xoff : c.stopIdle = true → ¬ parityBad x c → x.config.flowControl = true → dataByte x c = p.xoff →
    y = if x.flow = .paused then x
      else { x with
        flow := .paused
        stallTimer := if x.config.stallCeiling = 0 then .stopped else .running (100 * x.config.stallCeiling) }
  xon : c.stopIdle = true → ¬ parityBad x c → x.config.flowControl = true → dataByte x c ≠ p.xoff →
    dataByte x c = p.xon → y = if x.flow = .flowing then x else { x with flow := .flowing, stallTimer := .stopped }
  delivered : c.stopIdle = true → ¬ parityBad x c →
    (x.config.flowControl = false ∨ dataByte x c ≠ p.xoff ∧ dataByte x c ≠ p.xon) → y = meets x (.byte (dataByte x c))

/-- R40: the end of the transfer a CLOSING instance waited for: what it owed, then the answers to the pending closes in order;
the instance is retired and one clear queued if any close asked for it. -/
def ClosedBy (s t : State) (l : LineId) (i : Inst) (owed : List Word) : Prop :=
  Becomes (t.line l) (retiredLine (s.line l) (i.pendingClose.any PendingClose.clear)) ∧
    t = State.setLine
      { retired s l i with
        transfer := none
        transferBuffer := t.transferBuffer
        hostMemory := t.hostMemory
        reserved := s.reserved - i.reservation - (i.pendingClose.map PendingClose.reservation).sum
        answerQueue := s.answerQueue ++ owed ++ (i.pendingClose.map fun p => result p.tag 0 []).flatten }
      l (t.line l)

/-- R195: the two words of a buffer's address in a notice, with the byte above the second. -/
def addressWords (a : HostAddr) (high : Byte) : List Word := [a.setWidth 16, wordOf ((a >>> 16).setWidth 8) high]

/-! ## Keystrokes -/

/-- R30, R69: the Key Interpreter of line `l` may take the entry at the head of the type-ahead, with `q` behind it. -/
structure AtHead (s : State) (l : LineId) (i : Inst) (e : Entry) (q : List Entry) : Prop where
  inst : (s.line l).inst = some i
  attached : (s.line l).detached = false
  notHeld : i.held = false
  head : (s.line l).typeAhead = e :: q
  noneDue : (s.line l).releaseDue = false

/-- R71, R72, R81: the entry gives the action alone: a byte the control map names, the last byte of a key table entry that no
longer one continues, or a break marker. -/
def Presses (s : State) (l : LineId) (e : Entry) (a : Action) : Prop :=
  (∃ b, e = .byte b ∧ (s.line l).pendingKeys = [] ∧ StandsAlone (s.lineProfile l) b ∧ mapsTo (s.lineProfile l) b a) ∨
  (∃ b k, e = .byte b ∧ k ∈ (s.lineProfile l).keyTable ∧ k.keys = (s.line l).pendingKeys ++ [b] ∧
    ∀ j ∈ (s.lineProfile l).keyTable, k.keys <+: j.keys → j.keys = k.keys ∧ j.action = a) ∨
  (e = .breakMarker ∧ (s.line l).pendingKeys = [] ∧
    a = match (s.line l).config.breakAction with
      | .ignore => .ignore
      | .refresh => .refresh
      | .attention => .attention)

/-- R71: the entry is a byte, no control byte, that is classified alone. -/
def Sends (s : State) (l : LineId) (e : Entry) (b : Byte) : Prop :=
  e = .byte b ∧ control b = false ∧ (s.line l).pendingKeys = [] ∧ StandsAlone (s.lineProfile l) b

/-- R69, R72, R101: a line after a keystroke, with `q` left of the type-ahead: nothing is pending, and the inactivity timer
starts anew. -/
def keystroke (y : Line) (q : List Entry) : Line :=
  { y with
    typeAhead := q
    pendingKeys := []
    gapTimer := .stopped
    inst := y.inst.map fun i => { i with inactivity := .stopped } }

/-- R85, R109: a bell is requested on a line that is not detached. -/
def rung (y : Line) : Line := { y with bellPending := true }

/-- R114: the line `y` after a run on the line `x`: while message or cursor work left at the end of a paint waits, the fields on
which the run created work are noted behind it (notes/assumptions/29.md). -/
def workNoted (x y : Line) : Line :=
  { y with
    inst := y.inst.map fun j =>
      { j with
        paintLeft := j.paintLeft.map fun ns =>
          ns ++ (List.range j.fields.length).filter fun n =>
            ((x.inst.getD Inst.blank).field n).staleFrom = none ∧ (j.field n).staleFrom ≠ none ∧ n ∉ ns } }

/-- R77, R78: what the Key Interpreter of line `l` considers is used, and its run leaves `u` with the line `l` as `y`: a run that
needs no word is applied at once, where no key claim waits; one that needs words waits at the head, and a key claim of just those
words is made where no event flag is set; it is applied at the grant of a key claim that covers it, which posts `notices`, keeps
`kept` words and releases the rest; and a grant too small is released unused. Field work that the run created is noted (R114). -/
def Uses (s : State) (l : LineId) (need kept : Nat) (notices : List Word) (u : State) (y : Line) : Prop :=
  ((∀ w, (s.line l).claim ≠ .key w) →
    (need = 0 → Leaves (.byteTaken l) s u l (workNoted (s.line l) y)) ∧
    (0 < need → ∃ x, Gives (.byteTaken l) s (s.setLine l x) ∧ Becomes x (s.line l) ∧
      ((s.line l).flags.any = false → x.claim = .key need))) ∧
  ∀ words, s.nextGrant = some (.line l, words) → (s.line l).claim = .key words →
    (need ≤ words →
      Leaves (.keyClaimGrant l) s
        { u with pointer := .line l, answerQueue := s.answerQueue ++ notices, reserved := s.reserved + kept } l
        { workNoted (s.line l) y with claim := .absent }) ∧
    (words < need →
      Leaves (.keyClaimGrant l) s { s with pointer := .line l } l { s.line l with claim := .absent })

/-- R69: the entry at the head is taken, with `q` left of the type-ahead, and its run leaves `u` with the line `l` as `y`. -/
def Takes (s : State) (l : LineId) (q : List Entry) (need kept : Nat) (notices : List Word) (u : State) (y : Line) : Prop :=
  Uses s l need kept notices u (keystroke y q)

/-- R68, R72 to R75: a line whose pending bytes were released, with `left` pending after it and a bell where one was asked for. -/
def relieved (x : Line) (left : List Byte) (bell : Bool) : Line :=
  { x with
    pendingKeys := left
    gapTimer := .stopped
    releaseDue := false
    bellPending := x.bellPending || bell && !x.detached }

/-- R76, R77, R78: the run `es` that line `l` considers is applied element by element to the line as `before` makes it, and `after`
follows on the line: at once where it needs no word, and otherwise at the grant of a key claim that covers the words it needs as
the instance then stands, where the words it does not use are released; a grant too small is released unused. -/
def RunsWhole (s : State) (l : LineId) (es : List Elem) (before after : Line → Line) : Prop :=
  ((∀ w, (s.line l).claim ≠ .key w) →
    (s.runNeed l es = 0 → ∀ r, r = (s.setLine l (before (s.line l))).applyRun l es →
      Leaves (.byteTaken l) s r.state l (after (r.state.line l))) ∧
    (0 < s.runNeed l es → Leaves (.byteTaken l) s s l (s.line l))) ∧
  ∀ words g, s.nextGrant = some (.line l, words) → (s.line l).claim = .key words → Editable (s.line l) = true →
    g = State.setLine { s with pointer := .line l, reserved := s.reserved + words } l { s.line l with claim := .absent } →
      (g.runNeed l es ≤ words → ∀ r, r = (g.setLine l (before (g.line l))).applyRun l es →
        Leaves (.keyClaimGrant l) s { r.state with reserved := r.state.reserved - (words - r.used) } l
          (after (r.state.line l))) ∧
      (words < g.runNeed l es →
        Leaves (.keyClaimGrant l) s { s with pointer := .line l } l { s.line l with claim := .absent })

/-- The fields of an instance that are effectively unprotected, in field order. -/
def openOf (d : FormDef) (i : Inst) : List Nat := (List.range d.fields.length).filter fun n => !i.fieldProtected d n

/-- R52, R54, R56, R87, R90: a field's record after a clerk edit that leaves `len` bytes, the first changed at `p`. -/
def typedRec (r : FieldRec) (len p : Nat) : FieldRec :=
  { r with
    valueLength := len
    touched := true
    errorMark := false
    staleFrom :=
      if r.errorMark = true ∧ r.invalid = false then some 0
      else some (match r.staleFrom with | some q => min p q | none => p) }

/-- R87, R90: an instance after a clerk edit of field `n` that leaves the cursor at `pos`. -/
def typedInst (i : Inst) (n len p pos : Nat) : Inst :=
  { withField i n (typedRec (i.field n) len p) with
    edited := true
    cursorPos := pos
    cursorStale := i.cursorStale || decide (pos ≠ i.cursorPos) }

/-- R89: an instance whose cursor moves within its field. -/
def cursorAt (i : Inst) (pos : Nat) : Inst :=
  { i with cursorPos := pos, cursorStale := i.cursorStale || decide (pos ≠ i.cursorPos) }

/-- R52, R87, R90: a clerk edit leaves field `n` of the instance `i` with the value `v`, first changed at `p`, and the cursor at
`pos`; it needs no word. That the bytes of the field's room beyond the value stay is DEDUCED (notes/assumptions/23.md). -/
def Edits (s : State) (l : LineId) (q : List Entry) (i : Inst) (n : Nat) (v : List Byte) (p pos : Nat) : Prop :=
  ∃ m, Wrote s.valueMemory m (8 * i.extent.base + (s.form i).offset n) v ∧
    Takes s l q 0 0 [] { s with valueMemory := m } (lineWith s l (typedInst i n v.length p pos))

/-- R86: the value `w` that placing the character `c` at the cursor position `p` makes of `v`. -/
def Places (mode : InsertMode) (length p : Nat) (v : List Byte) (c : Byte) (w : List Byte) : Prop :=
  (mode = .overwrite ∧ p < v.length ∧ w = v.set p c) ∨
  (v.length < length ∧ p = v.length ∧ w = v ++ [c]) ∨
  (mode = .insert ∧ v.length < length ∧ p < v.length ∧ w = v.take p ++ c :: v.drop p)

/-- R56, R59, R92: a field's record after its forward-exit check found `v` and gave `out`, the value left and whether it
passes. -/
def exitedRec (r : FieldRec) (v : List Byte) (out : List Byte × Bool) : FieldRec :=
  { r with
    valueLength := out.1.length
    invalid := !out.2
    staleFrom :=
      if out.2 = false ∨ (r.invalid = true ∧ r.errorMark = false) then some 0
      else if out.1 = v then r.staleFrom
      else some (match r.staleFrom with | some q => min (firstDiff v out.1) q | none => firstDiff v out.1) }

/-- R92, R93: an instance after the forward-exit check of its cursor field `n`: the cursor position stays within the value (at a
failing exit too, notes/assumptions/12.md). -/
def exitedInst (i : Inst) (n : Nat) (v : List Byte) (out : List Byte × Bool) : Inst :=
  { withField i n (exitedRec (i.field n) v out) with
    cursorPos := min i.cursorPos out.1.length
    cursorStale := i.cursorStale || decide (out.1.length < i.cursorPos) }

/-- R95: what a leaving of field `n` posts. -/
def exitNotice (d : FormDef) (l : LineId) (i : Inst) (n : Nat) : List Word :=
  if (d.field n).attrs.notify = true ∧ i.edited = true then [0x0403, wordOf (byte l.val) (byte n), i.serial] else []

/-- R121: does a field with the value `v` fail the sweep? -/
def failsSweep (f : FieldDef) (v : List Byte) : Bool := !fieldCheck f v || (f.attrs.mandatory && v.all fun b => b == 0x20)

/-- R53, R56: a field's record after a check without canonical form. -/
def checkedRec (r : FieldRec) (ok : Bool) : FieldRec :=
  { r with
    invalid := !ok
    staleFrom := if (r.invalid || r.errorMark) = (!ok || r.errorMark) then r.staleFrom else some 0 }

/-- R121: an instance after the sweep, whose fields up to `stop` were checked: all of them where the sweep passed. -/
def sweptInst (d : FormDef) (i : Inst) (value : Nat → List Byte) (stop : Option Nat) : Inst :=
  { i with
    fields := (List.range i.fields.length).map fun n =>
      if i.fieldProtected d n = false ∧ ∀ z ∈ stop, n ≤ z then checkedRec (i.field n) (fieldCheck (d.field n) (value n))
      else i.field n }

/-- R123: an instance whose submission succeeds, its match with a buffer apart. -/
def submittedInst (i : Inst) : Inst :=
  { i with
    resubmit := i.late
    late := false
    imageSize := imageSizeOf i.fields
    message := []
    messageStale := true
    reservation := 6 }

/-- R119 to R123, R128: the sweep of the instance `i` over the values that stand in `u`, in a run that needs 6 words: refused at
the first field that fails, or matched with the oldest buffer that fits, or waiting for one. -/
structure Submits (s : State) (l : LineId) (q : List Entry) (u : State) (i : Inst) : Prop where
  refused : ∀ z,
    (openOf (s.form i) i).find? (fun n => failsSweep ((s.form i).field n) ((u.setLine l (lineWith s l i)).value l n)) = some z →
      ∀ j, j = sweptInst (s.form i) i ((u.setLine l (lineWith s l i)).value l) (some z) →
        Takes s l q 6 0 [] u
          (rung (lineWith s l (atCursor (withField j z { j.field z with staleFrom := some 0 }) (some z) 0)))
  passed :
    (openOf (s.form i) i).find? (fun n => failsSweep ((s.form i).field n) ((u.setLine l (lineWith s l i)).value l n)) = none →
      ∀ j, j = submittedInst (sweptInst (s.form i) i ((u.setLine l (lineWith s l i)).value l) none) →
        (∀ older d newer, s.bufferList = older ++ d :: newer → (∀ e ∈ older, e.length.toNat < j.imageSize) →
          j.imageSize ≤ d.length.toNat →
            Takes s l q 6 6 []
              { u with
                bufferList := older ++ newer
                busQueue := s.busQueue ++ [⟨.delivery l, d.address, j.imageSize⟩] }
              (lineWith s l (matched j d))) ∧
        ((∀ e ∈ s.bufferList, e.length.toNat < j.imageSize) →
          Takes s l q 6 6 [] { u with waiting := s.waiting ++ [l] } (lineWith s l { j with phase := .awaitBuffer }))

/-- R59, R92: the value of field `n`, `v`, and the memory `m` after a forward-exit check that gave `out`. -/
def ExitWrites (s : State) (i : Inst) (n : Nat) (m m' : Memory) (v : List Byte) (out : List Byte × Bool) : Prop :=
  (out.1 = v → m' = m) ∧ (out.1 ≠ v → Wrote m m' (8 * i.extent.base + (s.form i).offset n) out.1)

/-- R92, R93, R95: a forward exit from the cursor field `n` of the instance `i`, whose value is `v`, over value memory `m`. -/
def Exits (s : State) (l : LineId) (q : List Entry) (m : Memory) (i : Inst) (n : Nat) (v : List Byte) : Prop :=
  ∃ m', ExitWrites s i n m m' v (exitOutcome ((s.form i).field n) v) ∧
    ∀ j, j = exitedInst i n v (exitOutcome ((s.form i).field n) v) →
      ((exitOutcome ((s.form i).field n) v).2 = false →
        Takes s l q 0 0 [] { s with valueMemory := m' } (rung (lineWith s l j))) ∧
      ((exitOutcome ((s.form i).field n) v).2 = true →
        (∀ k, (openOf (s.form i) i).find? (fun k => decide (n < k)) = some k →
          Takes s l q (exitNotice (s.form i) l i n).length 0 (exitNotice (s.form i) l i n) { s with valueMemory := m' }
            (lineWith s l (atCursor j (some k) 0))) ∧
        ((openOf (s.form i) i).find? (fun k => decide (n < k)) = none →
          ((s.form i).lastField = .stay →
            Takes s l q 0 0 [] { s with valueMemory := m' } (rung (lineWith s l j))) ∧
          ((s.form i).lastField = .wrap → ∀ k, (openOf (s.form i) i).head? = some k →
            Takes s l q (exitNotice (s.form i) l i n).length 0 (exitNotice (s.form i) l i n) { s with valueMemory := m' }
              (lineWith s l (atCursor j (some k) 0))) ∧
          ((s.form i).lastField = .submit → Submits s l q { s with valueMemory := m' } j)))

/-! ## The screen -/

/-- R107, R142: the address of a screen position, omitted where the known terminal cursor is there. -/
def addressed (s : State) (l : LineId) (row col : Nat) : List Byte :=
  if (s.line l).knownCursor = some (row, col) then [] else (s.lineProfile l).address row col

/-- R110, R111, R112: bytes between the highlight sequences where `on` holds. -/
def highlit (p : Profile) (on : Bool) (bs : List Byte) : List Byte :=
  if on = true then p.highlightOn ++ bs ++ p.highlightOff else bs

/-- R114: a line on which PAINTING becomes EDITING where no clear, no text item and no stale field is left; message and cursor work
that remains is to be composed before field work that keystrokes create. -/
def painted (d : FormDef) (y : Line) : Line :=
  { y with
    inst := y.inst.map fun i =>
      if i.phase = .painting ∧ y.detached = false ∧ y.clearPending = false ∧
          (∀ k ∈ i.textIndex, d.texts.length ≤ k) ∧ ∀ r ∈ i.fields, r.staleFrom = none then
        { i with phase := .editing, paintLeft := if i.messageStale = true ∨ i.cursorStale = true then some [] else none }
      else i }

/-- R114: the field's work was created by keystrokes while message or cursor work left at the end of a paint waits. -/
def Behind (i : Inst) (n : Nat) : Prop := ∃ ns, i.paintLeft = some ns ∧ n ∈ ns

/-- R112, R114: an instance whose message row has been composed: nothing is left of a paint where the cursor is not stale either. -/
def messageDone (i : Inst) : Inst :=
  { i with messageStale := false, paintLeft := if i.cursorStale = true then i.paintLeft else none }

/-- R113, R114: an instance whose cursor placement has been composed: nothing is left of a paint, and the cursor stays stale where
field work stands behind it (notes/assumptions/29.md). -/
def cursorDone (i : Inst) : Inst :=
  { i with cursorStale := match i.paintLeft with | some (_ :: _) => true | _ => false, paintLeft := none }

/-- R105, R106, R114: the composition of a unit of these bytes on the line `l`: it is placed whole, with the line as `y`, where
the output queue has room for it, and not at all otherwise. -/
def Composes (s : State) (l : LineId) (bytes : List Byte) (y : Line) : Prop :=
  ((s.line l).output.length + bytes.length ≤ 256 →
    Leaves (.unitComposition l) s s l (painted (s.formOf l) { y with output := (s.line l).output ++ bytes })) ∧
  (256 < (s.line l).output.length + bytes.length → exec (.unitComposition l) s = .next s)

/-- R111: the unit of field `n` is composed, from the position `start` on. -/
def ComposesField (s : State) (l : LineId) (i : Inst) (n start : Nat) : Prop :=
  Composes s l
    (addressed s l ((s.form i).field n).row (((s.form i).field n).col + start) ++
      highlit (s.lineProfile l) ((i.field n).invalid || (i.field n).errorMark)
        (((s.value l n).drop start).map (fun b => if ((s.form i).field n).attrs.concealed = true then 0x2A else b) ++
          List.replicate (((s.form i).field n).length - max start (i.field n).valueLength) ((s.form i).field n).fill))
    { lineWith s l (withField i n { i.field n with staleFrom := none }) with
      knownCursor := some (((s.form i).field n).row, ((s.form i).field n).col + ((s.form i).field n).length) }

/-! ## Reset, memory, and what every state keeps -/

/-- R179 and the reset columns of the other chapters: `t` is `s` after a reset. -/
structure AfterReset (cause : ResetCause) (s t : State) : Prop where
  partState : t.partState = .starting
  resetCause : t.resetCause = cause
  faultCode : t.faultCode = .none
  flags : t.stateChange = false ∧ t.overflow = false
  enables : t.answerEnable = false ∧ t.stateChangeEnable = false ∧ t.overflowEnable = false
  commandQueue : t.commandQueue = [] ∧ t.assembler = .free
  answerQueue : t.answerQueue = [] ∧ t.reserved = 0 ∧ t.pointer = .commandUnit
  slots : ∀ k, t.slot k = ⟨.empty, 0⟩
  profiles : ∀ p, t.profileSlot p = ⟨.ready Profile.default, 0⟩
  lines : ∀ l, t.line l = Line.reset (s.line l).readyLevel (s.line l).wire
  serial : t.nextSerial = 1
  freeList : t.freeList = [⟨0, 1536⟩]
  delivery : t.bufferList = [] ∧ t.waiting = []
  bus : t.busQueue = [] ∧ t.transfer = none
  unset : ∀ a, t.valueMemory.read a = none ∧ t.transferBuffer.read a = none
  outside : t.pending = s.pending ∧ t.dataOut = s.dataOut

/-- The three addressed memories have their canonical form. -/
def MemoryForm (s : State) : Prop :=
  s.valueMemory.wf = true ∧ s.transferBuffer.wf = true ∧ s.hostMemory.wf = true

/-- R124, R159, R162, R182: no queue holds more than its capacity. -/
def WithinCapacity (s : State) : Prop :=
  s.commandQueue.length ≤ 128 ∧ s.bufferList.length ≤ 16 ∧
    ∀ l, (s.line l).typeAhead.length ≤ 32 ∧ (s.line l).output.length ≤ 256

/-- R180, R182: until the part is READY every line is as a reset leaves it, no command is held, nothing is asked of the bus
and the answer queue is empty. -/
def Quiet (s : State) : Prop :=
  s.partState ≠ .ready →
    s.commandQueue = [] ∧ s.assembler = .free ∧ s.answerQueue = [] ∧ s.busQueue = [] ∧ s.transfer = none ∧
      ∀ l, ∃ ready wire, s.line l = Line.reset ready wire

/-- R46: free entries of at least one granule, in address order, no two adjacent. -/
def FreeListForm : List Extent → Prop
  | [] => True
  | [e] => 0 < e.count
  | e :: f :: rest => 0 < e.count ∧ e.base + e.count < f.base ∧ FreeListForm (f :: rest)

/-- R5 to R10, R14 to R16: what the checks of an image leave true of a form definition. -/
structure FormSound (d : FormDef) : Prop where
  name : d.name.length = 6
  rows : 1 ≤ d.rows ∧ d.rows ≤ 32
  columns : 20 ≤ d.columns ∧ d.columns ≤ 132
  messageRow : ∀ r, d.messageRow = some r → r < d.rows
  fieldCount : 1 ≤ d.fields.length ∧ d.fields.length ≤ 48
  textCount : d.texts.length ≤ 32
  poolLength : d.pool.length ≤ 1024
  valueTotal : d.valueTotal = (d.fields.map FieldDef.length).sum
  field : ∀ f ∈ d.fields,
    f.row < d.rows ∧ d.messageRow ≠ some f.row ∧ 1 ≤ f.length ∧ f.length ≤ 80 ∧ f.col + f.length < d.columns ∧
      f.minLength ≤ f.length ∧ (f.type ≠ .amount → f.scale = 0) ∧ f.scale ≤ 4 ∧
      (0 < f.scale → f.scale + 2 ≤ f.length) ∧ printable f.fill = true ∧ f.defaultLength ≤ f.length ∧
      (0 < f.defaultLength → f.defaultOffset + f.defaultLength ≤ d.pool.length)
  apart : d.fields.Pairwise fun f g => f.row = g.row → f.col + f.length ≤ g.col ∨ g.col + g.length ≤ f.col
  text : ∀ t ∈ d.texts,
    t.row < d.rows ∧ 1 ≤ t.textLength ∧ t.textLength ≤ 80 ∧ t.col + t.textLength ≤ d.columns ∧
      t.textOffset + t.textLength ≤ d.pool.length

/-- R168: an owner's request stands in the queue or is the transfer in progress. -/
def Asked (s : State) (o : Owner) : Prop := o ∈ (s.transfer.toList ++ s.busQueue).map Request.owner

/-- R186, R187: the words the owners hold reserved: the commands still to be answered by a LOADING slot or profile, an instance
in PRESETTING or a pending close, and the DELIVERED notices to come. -/
def owed (s : State) : Nat :=
  ((List.finRange 24).map fun k => match (s.slot k).state with | .loading _ r => r | _ => 0).sum +
  ((List.finRange 4).map fun p => match (s.profileSlot p).state with | .loading _ r => r | _ => 0).sum +
  (allLines.map fun l =>
    match s.inst l with
    | some i => i.reservation + (i.pendingClose.map PendingClose.reservation).sum
    | none => 0).sum

/-- R22, R33, R39, R123, R128: what an instance holds for the answers it owes, phase by phase. -/
def Holds (i : Inst) : Prop :=
  match i.phase with
  | .presetting => i.reservation = 4 ∧ i.pendingOpen.isSome = true ∧ i.heldBuffer = none ∧ i.pendingClose = []
  | .awaitBuffer => i.reservation = 6 ∧ i.pendingOpen = none ∧ i.heldBuffer = none ∧ i.pendingClose = []
  | .delivering => i.reservation = 6 ∧ i.pendingOpen = none ∧ i.heldBuffer.isSome = true ∧ i.pendingClose = []
  | .closing =>
    (i.reservation = 4 ∧ i.pendingOpen.isSome = true ∧ i.heldBuffer = none ∨
      i.reservation = 6 ∧ i.pendingOpen = none ∧ i.heldBuffer.isSome = true) ∧
    ∀ p ∈ i.pendingClose, p.reservation = 5
  | _ => i.reservation = 0 ∧ i.pendingOpen = none ∧ i.heldBuffer = none ∧ i.pendingClose = []

/-- R127, R168, R187: the books of the part: the waiting-lines queue holds exactly the instances in AWAIT_BUFFER, each once; each
owner has at most one request, and has one exactly while it waits for its end; the reserved words are those the owners hold; and
the answer queue never exceeds its 256 words. -/
structure Booked (s : State) : Prop where
  waiting : s.waiting.Nodup ∧ ∀ l, l ∈ s.waiting ↔ ∃ i, s.inst l = some i ∧ i.phase = .awaitBuffer
  once : ((s.transfer.toList ++ s.busQueue).map Request.owner).Nodup
  forms : ∀ k, Asked s (.formFetch k) ↔ ∃ tag, (s.slot k).state = .loading tag 4
  profiles : ∀ p, Asked s (.profileFetch p) ↔ ∃ tag, (s.profileSlot p).state = .loading tag 4
  presets : ∀ l, Asked s (.presetFetch l) ↔
    ∃ i, s.inst l = some i ∧ (i.phase = .presetting ∨ i.phase = .closing ∧ i.pendingOpen.isSome = true)
  deliveries : ∀ l, Asked s (.delivery l) ↔
    ∃ i, s.inst l = some i ∧ (i.phase = .delivering ∨ i.phase = .closing ∧ i.pendingOpen = none)
  loading : (∀ k tag r, (s.slot k).state = .loading tag r → r = 4) ∧
    ∀ p tag r, (s.profileSlot p).state = .loading tag r → r = 4
  instances : ∀ l i, s.inst l = some i → Holds i
  closing : ∀ l i, s.inst l = some i → i.phase = .closing →
    ∃ r, s.transfer = some r ∧ (r.owner = .presetFetch l ∨ r.owner = .delivery l)
  reserved : s.reserved = owed s
  room : s.answerQueue.length + s.reserved ≤ 256

/-- R83: the cursor stands in an effectively unprotected field of the form, at a position within its value, and at 0 while a preset
may still replace the value. -/
def CursorWithin (s : State) : Prop :=
  ∀ l i n, s.inst l = some i → i.cursorField = some n →
    n < i.fields.length ∧ i.fieldProtected (s.form i) n = false ∧ i.cursorPos ≤ (i.field n).valueLength ∧
      (i.phase = .presetting → i.cursorPos = 0)

/-- R23: the phases in which an entry is frozen. -/
def Frozen (p : Phase) : Prop := p = .awaitBuffer ∨ p = .delivering ∨ p = .awaitVerdict ∨ p = .closing

/-- R2, R140, R148: the use count of a slot is the number of instances on it and a slot in use is READY; the user count of a
profile is the number of ON lines that name it and a profile in use is READY. -/
def CountsExact (s : State) : Prop :=
  (∀ k, (s.slot k).useCount = (allLines.filter fun l => decide ((s.inst l).map Inst.slot = some k)).length ∧
    (0 < (s.slot k).useCount → ∃ d, (s.slot k).state = .ready d)) ∧
  ∀ p, (s.profileSlot p).userCount =
      (allLines.filter fun l => (s.line l).on && decide ((s.line l).config.profile = p)).length ∧
    (0 < (s.profileSlot p).userCount → ∃ r, (s.profileSlot p).state = .ready r)

/-- R10, R22, R47, R51: every READY slot holds a checked form, and every instance has one record for each field of its form,
no value longer than its field, and an extent of the form's size. -/
def RecordsWhole (s : State) : Prop :=
  (∀ k d, (s.slot k).state = .ready d → FormSound d) ∧
  ∀ l i, s.inst l = some i →
    i.fields.length = (s.form i).fields.length ∧ i.extent.count = ((s.form i).valueTotal + 7) / 8 ∧
      ∀ n, n < i.fields.length → (i.field n).valueLength ≤ ((s.form i).field n).length

/-- R46: value memory is divided between the free entries and the extents of the live instances: every granule below 1536
belongs to exactly one of them and no other granule to any. -/
def Divided (s : State) : Prop :=
  FreeListForm s.freeList ∧ (∀ l i, s.inst l = some i → 0 < i.extent.count) ∧
    ∀ g, ((s.freeList ++ allLines.filterMap fun l => (s.inst l).map Inst.extent).filter
      fun e => decide (e.base ≤ g ∧ g < e.base + e.count)).length = if g < 1536 then 1 else 0

end Sys2Proof.Safety
end

