-- ==== Sys2Proof/Certificates/Slice0/Obligations.lean ====
section
/-! DEFINITION. The statements about the block that are to be proved. Their words (`Offered`, `Does`, `Answers`, `Becomes`
and the others) are Sys2Proof/Safety.lean's. A statement of what a row does is a statement of its own effect, after which grants may
follow in the same happening (R189, `Gives`, and the statement `Obligations.GrantRotation`). A statement about a command row is about
the taking of the granted command at the head of the queue: that the row is the taking and carries no operand is the MODEL's choice
(notes/assumptions/2.md); that the next header is taken up in the same happening is DEDUCED (notes/assumptions/15.md). -/

open Sys2Proof Sys2Proof.Machine Sys2Proof.Safety

/-! ## The step -/

/-- A step takes the command at the front of the queue and is its happening on the state with the queue's rest. The queue is the
MODEL's (notes/assumptions/24.md). -/
def Obligations.StepRunsFrontCommand : Prop :=
  ∀ (c : Instr) (s : State) (rest : List Instr), s.pending = c :: rest → step s = exec c { s with pending := rest }

/-- The MODEL's choice (notes/assumptions/3.md): with no command waiting the block takes its own next happening, the
composition of a unit before any other, and, when there is none, one tick: every running timer counts down by one, and the
expiries of those that have run out, and nothing else, wait as commands. -/
def Obligations.StepWithoutCommand : Prop :=
  (∀ s : State, s.pending = [] →
    (∀ c, s.ownHappening = some c → step s = exec c s) ∧
      (s.ownHappening = none →
        ∃ t, step s = .next t ∧ t = { s with lines := t.lines, assembler := t.assembler, pending := t.pending } ∧
          t.pending = t.assembler.expiries ++ allLines.flatMap (fun l => (t.line l).expiries l) ∧
          (∀ timer, s.assembler = .gathering timer → t.assembler = .gathering timer.tick) ∧
          ((∀ timer, s.assembler ≠ .gathering timer) → t.assembler = s.assembler) ∧
          (∀ l, t.line l =
            { s.line l with
              settleTimer := (s.line l).settleTimer.tick
              stallTimer := (s.line l).stallTimer.tick
              gapTimer := (s.line l).gapTimer.tick
              inst := (s.line l).inst.map fun i =>
                { i with inactivity := i.inactivity.tick, verdictTimer := i.verdictTimer.tick } }) ∧
          (∀ n, s.assembler = .gathering (.running n) → (n ≤ 1 ↔ Instr.assemblyTimerExpiry ∈ t.pending)) ∧
          ∀ l n,
            ((s.line l).settleTimer = .running n → (n ≤ 1 ↔ Instr.settleTimerExpiry l ∈ t.pending)) ∧
            ((s.line l).stallTimer = .running n → (n ≤ 1 ↔ Instr.stallTimerExpiry l ∈ t.pending)) ∧
            ((s.line l).gapTimer = .running n → (n ≤ 1 ↔ Instr.gapTimerExpiry l ∈ t.pending)) ∧
            ∀ i, (s.line l).inst = some i →
              (i.inactivity = .running n → (n ≤ 1 ↔ Instr.inactivityTimerExpiry l ∈ t.pending)) ∧
              (i.verdictTimer = .running n → (n ≤ 1 ↔ Instr.verdictTimerExpiry l ∈ t.pending)))) ∧
  ((∀ n, (Timer.running (n + 1)).tick = .running n) ∧ Timer.tick .stopped = .stopped ∧ Timer.tick .spent = .spent) ∧
  ∀ (s : State) (l : LineId) (u : UnitKind), s.composable l = some u → ∃ m, s.ownHappening = some (.unitComposition m)

/-! ## Resets and the self-check -/

/-- R179 and the reset values of the other chapters, item by item, in the model's reset state. The levels of the ready inputs
are the MODEL's choice (notes/assumptions/5.md). -/
def Obligations.ResetValues : Prop :=
  AfterReset .power State.reset State.reset ∧
    (∀ l, (State.reset.line l).config =
        ⟨.r9600, .eight, .none, .one, 0, true, false, 10, .ignore, 5, 0, 30, 0⟩ ∧
      (State.reset.line l).on = false ∧ (State.reset.line l).settled = .notMonitored ∧
      (State.reset.line l).detached = false ∧ (State.reset.line l).flow = .flowing ∧
      (State.reset.line l).typeAhead = [] ∧ (State.reset.line l).output = [] ∧
      (State.reset.line l).flags.any = false ∧ (State.reset.line l).inst = none ∧
      (State.reset.line l).pendingKeys = [] ∧ (State.reset.line l).knownCursor = none) ∧
    State.reset.pending = [] ∧ State.reset.interrupt = false

/-- R179: power applied, in any state: every block takes its reset values and the cause is POWER. R176, R179: a write to RESET,
whatever the value and the part state: the cause is PORT, and a delivery in progress leaves in its host buffer the bytes of the
cycles answered before. What a reset keeps of the outside (notes/assumptions/5.md and 20.md), that power-on leaves none
of an abandoned delivery (28.md) and the operand `answered` (8.md) are the MODEL's choice. -/
def Obligations.ResetsTaken : Prop :=
  (∀ s : State, ∃ t, exec .powerOnReset s = .next t ∧ AfterReset .power s t ∧ t.hostMemory = s.hostMemory) ∧
  (∀ (s : State) (value : Word) (answered : Nat), ∃ t, exec (.portReset value answered) s = .next t ∧
      AfterReset .port s t ∧
      match s.transfer with
      | some ⟨.delivery l, address, length⟩ =>
        Wrote s.hostMemory t.hostMemory address.toNat
          ((s.entryImage l).take (bytesMoved address.toNat length answered))
      | _ => t.hostMemory = s.hostMemory)

/-- R180: the end of the self-check: the first memory that fails gives the fault code, READY when all three pass,
and the state-change flag is set either way. -/
def Obligations.SelfCheckEnds : Prop :=
  ∀ (s : State) (libraryOk profileOk : Bool), s.partState = .starting →
    exec (.selfCheckEnd false libraryOk profileOk) s =
        .next { s with partState := .fault, faultCode := .valueMemory, stateChange := true } ∧
      exec (.selfCheckEnd true false profileOk) s =
        .next { s with partState := .fault, faultCode := .libraryMemory, stateChange := true } ∧
      exec (.selfCheckEnd true true false) s =
        .next { s with partState := .fault, faultCode := .profileMemory, stateChange := true } ∧
      exec (.selfCheckEnd true true true) s =
        .next { s with partState := .ready, faultCode := .none, stateChange := true }

/-! ## The window -/

/-- R182, R184: a word written at DATA: discarded unless the part is READY with OVERFLOW clear; otherwise it joins a queue of
fewer than 128 words, a FREE assembler takes up the header at the head, and a GATHERING one is COMPLETE when its command is
whole. R183: overflow: OVERFLOW is set, every word is discarded, a TRUNCATED result is owed for a command the assembler held,
with its tag when its second word had been written, and a result already owed stays owed. This is the write by itself; what is
granted in the same happening (R189) is said by `Gives` and GrantRotation. -/
def Obligations.DataWritesTaken : Prop :=
  (∀ (s : State) (w : Word),
      ((s.partState ≠ .ready ∨ s.overflow = true) → exec (.dataWrite w) s = .next s) ∧
      (s.partState = .ready → s.overflow = false → s.commandQueue.length < 128 →
        ∃ t, Gives (.dataWrite w) s t ∧
          t = { s with commandQueue := t.commandQueue, assembler := t.assembler } ∧
          match s.assembler with
          | .free => HeaderTaken (s.commandQueue ++ [w]) t.assembler t.commandQueue
          | .gathering timer =>
            t.commandQueue = s.commandQueue ++ [w] ∧
              ∀ h rest, s.commandQueue = h :: rest →
                t.assembler =
                  if (lowByte h).toNat ≤ rest.length + 2 then .complete (decodeHeader (highByte h) (lowByte h).toNat)
                  else .gathering timer
          | a => t.commandQueue = s.commandQueue ++ [w] ∧ t.assembler = a)) ∧
  (∀ (s : State) (w : Word), s.partState = .ready → s.overflow = false → 128 ≤ s.commandQueue.length →
      ∃ t, Gives (.dataWrite w) s t ∧
        t = { s with overflow := true, commandQueue := [], assembler := t.assembler } ∧
        (s.assembler = .free → t.assembler = .free) ∧
        (∀ tag st, s.assembler = .owing tag st → t.assembler = .owing tag st) ∧
        ∀ h tagWord rest, s.commandQueue = h :: tagWord :: rest →
          ((∃ timer, s.assembler = .gathering timer) ∨ ∃ d, s.assembler = .complete d) →
            t.assembler = .owing (lowByte tagWord) .truncated)

/-- R185, R194: the decoding of a complete command: an unknown code, a count below or above the command's own, or
the command; and the words it reserves. -/
def Obligations.CommandsDecode : Prop :=
  (∀ e ∈ commandTable, ∀ count,
    decodeHeader (byte e.1) count =
        (if count < e.2.1 then .refused .tooShort else if e.2.2.1 < count then .refused .tooLong
          else .command e.2.2.2.2) ∧
      e.2.2.2.2.reservation = e.2.2.2.1) ∧
    ∀ (code : Byte) (count : Nat), (code.toNat = 0 ∨ 0x19 < code.toNat) → decodeHeader code count = .refused .badCode

/-- R177: a read of DATA removes and returns the word at the head of the answer queue, and returns 0 from an empty one. R181,
R193: a CONTROL write: the enables take bits 7, 8 and 9, and bits 5 and 6 clear the flags. The two clearing rows are the write
with their own bit set (notes/assumptions/9.md). R177: the rows are the word accesses at offsets 0, 2 and 6; a word read of
STATUS, LEVELS or IDENT changes nothing, a word write at LEVELS has no effect, and a byte access to any word reads 0 and has none.
That the word read stands in `dataOut` is the MODEL's (notes/assumptions/18.md). -/
def Obligations.WindowAccessesTaken : Prop :=
  (∀ s : State,
      (∀ w rest, s.answerQueue = w :: rest → exec .dataRead s = .next { s with answerQueue := rest, dataOut := w }) ∧
        (s.answerQueue = [] → exec .dataRead s = .next { s with dataOut := 0 })) ∧
  (∀ (s : State) (c : Word),
      exec (.setInterruptEnables c) s =
          .next { s with
            answerEnable := c.getLsbD 7
            stateChangeEnable := c.getLsbD 8
            overflowEnable := c.getLsbD 9
            stateChange := if c.getLsbD 5 then false else s.stateChange
            overflow := if c.getLsbD 6 then false else s.overflow } ∧
        exec (.clearStateChangeFlag c) s =
          .next { s with
            answerEnable := c.getLsbD 7
            stateChangeEnable := c.getLsbD 8
            overflowEnable := c.getLsbD 9
            stateChange := false
            overflow := if c.getLsbD 6 then false else s.overflow } ∧
        exec (.clearOverflow c) s =
          .next { s with
            answerEnable := c.getLsbD 7
            stateChangeEnable := c.getLsbD 8
            overflowEnable := c.getLsbD 9
            stateChange := if c.getLsbD 5 then false else s.stateChange
            overflow := false }) ∧
  (∀ (s : State) (value : Word) (answered : Nat),
      (∃ t, s.windowRead .word 0 = some (t.dataOut, t) ∧ exec .dataRead s = .next t) ∧
        (∃ t, s.windowWrite .word 0 value answered = some t ∧ exec (.dataWrite value) s = .next t) ∧
        s.windowRead .word 2 = some (s.statusWord, s) ∧
        (∃ t, s.windowWrite .word 2 value answered = some t ∧ exec (.setInterruptEnables value) s = .next t) ∧
        s.windowRead .word 4 = some (s.levelsWord, s) ∧ s.windowWrite .word 4 value answered = some s ∧
        s.windowRead .word 6 = some (identWord, s) ∧
        (∃ t, s.windowWrite .word 6 value answered = some t ∧ exec (.portReset value answered) s = .next t) ∧
        ∀ offset, offset < 8 → s.windowRead .byte offset = some (0, s) ∧ s.windowWrite .byte offset value answered = some s)

/-- R193: the items of STATUS, CONTROL, LEVELS and IDENT at their bits. R181: a CONTROL write gives each enable its new value and
clears each flag whose clear indication is set, the other left as it is; and the interrupt request line is asserted while at least
one of the three conditions holds. -/
def Obligations.StatusAndInterrupt : Prop :=
  (identWord = 0xFE01 ∧
    ∀ s : State,
      (s.statusWord.toNat % 4 = match s.partState with | .starting => 0 | .ready => 1 | .fault => 2) ∧
        (s.statusWord.getLsbD 2 = true ↔ s.resetCause = .port) ∧
        (s.statusWord.toNat / 8 % 4 =
          match s.faultCode with | .none => 0 | .valueMemory => 1 | .libraryMemory => 2 | .profileMemory => 3) ∧
        s.statusWord.getLsbD 5 = s.stateChange ∧ s.statusWord.getLsbD 6 = s.overflow ∧
        s.statusWord.getLsbD 7 = s.answerEnable ∧ s.statusWord.getLsbD 8 = s.stateChangeEnable ∧
        s.statusWord.getLsbD 9 = s.overflowEnable ∧ s.statusWord.getLsbD 10 = s.interrupt ∧
        (s.statusWord.getLsbD 11 = true ↔ s.answerQueue.length = 256) ∧
        (s.commandQueue.length ≤ 128 → (lowByte s.levelsWord).toNat = 128 - s.commandQueue.length) ∧
        (s.answerQueue.length ≤ 256 →
          s.answerQueue.length =
            (highByte s.levelsWord).toNat + if s.statusWord.getLsbD 11 = true then 256 else 0)) ∧
  (∀ s : State, s.interrupt = true ↔
      (s.answerQueue ≠ [] ∧ s.answerEnable = true) ∨ (s.stateChange = true ∧ s.stateChangeEnable = true) ∨
        (s.overflow = true ∧ s.overflowEnable = true)) ∧
  ∀ (s : State) (c : Word) (answered : Nat),
    s.windowWrite .word 2 c answered =
      some { s with
        answerEnable := c.getLsbD 7
        stateChangeEnable := c.getLsbD 8
        overflowEnable := c.getLsbD 9
        stateChange := if c.getLsbD 5 then false else s.stateChange
        overflow := if c.getLsbD 6 then false else s.overflow }

/-! ## The assembler and the rotation -/

/-- R184: the assembly timer runs out on a GATHERING command: its words are removed and a TRUNCATED result is owed, with the
command's tag when its second word was present and 0 otherwise. R184, R185: the command unit's two-word claim for an owed result
is the next grant: the result is posted, a command of a bad code or count leaves the queue, and the next header is taken up. The
expiry row acts on a running timer whatever its count, by the MODEL's choice (notes/assumptions/4.md). -/
def Obligations.AssemblerHappenings : Prop :=
  (∀ (s : State) (n : Nat), s.assembler = .gathering (.running n) →
      (∀ h tagWord rest, s.commandQueue = h :: tagWord :: rest →
        Gives .assemblyTimerExpiry s
          { s with
            commandQueue := s.commandQueue.drop (lowByte h).toNat
            assembler := .owing (lowByte tagWord) .truncated }) ∧
      ∀ h, s.commandQueue = [h] → 2 ≤ (lowByte h).toNat →
        Gives .assemblyTimerExpiry s { s with commandQueue := [], assembler := .owing 0 .truncated }) ∧
  (∀ (s : State) (st : Status), s.nextGrant = some (.commandUnit, 2) →
      (∀ tag, s.assembler = .owing tag st →
        Does .assemblyResultPost s s.commandQueue
          { s with answerQueue := s.answerQueue ++ result tag st.code [] }) ∧
      ∀ h tagWord body rest, s.assembler = .complete (.refused st) →
        s.commandQueue = h :: tagWord :: (body ++ rest) → (lowByte h).toNat = body.length + 2 →
        Does .assemblyResultPost s rest
          { s with answerQueue := s.answerQueue ++ result (lowByte tagWord) st.code [] })

/-- R189: the next grant is that of the first claimant with a waiting claim, searched from the claimant after the
pointer, when its claim is no larger than the free room; while it is larger, nobody is granted. Every row does its own effect, and
grants follow in the same happening where it finds no claim waiting, so that a claim it makes is granted when the room suffices, or
where the first claim it finds waiting is withdrawn; while that one waits on, none follows. Each grant has its row of the table. A
grant of a claim that had to wait is a happening of its own; that, and the bound on the rounds, are the MODEL's
(notes/assumptions/2.md). -/
def Obligations.GrantRotation : Prop :=
  (∀ (s : State) (c : Claimant) (n : Nat),
    s.nextGrant = some (c, n) ↔
      s.claimOf c = some n ∧ n ≤ 256 - (s.answerQueue.length + s.reserved) ∧
        ∀ c', s.claimOf c' ≠ none → ringDistance s.pointer c ≤ ringDistance s.pointer c') ∧
  (∀ (s : State) (row : Instr), exec row s = .next (s.prompted row (s.effect row))) ∧
  (∀ (s t : State) (row : Instr),
    ((∀ c, s.claimOf c ≠ none → GrantedBy s row c) → GrantsLead 1024 t (s.prompted row t)) ∧
      ∀ c, FirstFound s row c →
        (SameClaim s t c → s.prompted row t = t) ∧ (¬ SameClaim s t c → GrantsLead 1024 t (s.prompted row t))) ∧
  ∀ (s : State) (n : Nat),
    (∀ l, s.nextGrant = some (.line l, n) →
      (∀ w, (s.line l).claim = .key w → s.grantHappening = some (.keyClaimGrant l)) ∧
        ((s.line l).claim = .event → s.grantHappening = some (.lineEvent l))) ∧
    (s.nextGrant = some (.commandUnit, n) →
      (∀ tag st, s.assembler = .owing tag st → s.grantHappening = some .assemblyResultPost) ∧
        ∀ c, s.headCommand = some c → s.grantHappening = some c.row)

/-! ## The form library -/

/-- R11: LOAD FORM: the first of the four conditions that holds gives the result; otherwise the slot becomes
LOADING, its definition is gone, and a FORM_FETCH joins the Bus Master's queue with the result still to come. That the row is
the taking and carries no operand is the MODEL's choice (notes/assumptions/2.md), and that the next header is taken up in the same
happening is DEDUCED (15.md). -/
def Obligations.LoadFormTaken : Prop :=
  ∀ (s : State) (tag target : Byte) (low high len : Word) (rest : List Word),
    Offered s .loadForm tag target [low, high, len] rest →
      (23 < target.toNat → Answers .loadForm s rest (result tag 9 [])) ∧
      ∀ k : SlotId, target.toNat = k.val →
        if len.toNat < 16 ∨ 1808 < len.toNat ∨ 0x1000000 ≤ low.toNat + 0x10000 * high.toNat ∨
            0x1000000 < low.toNat + 0x10000 * high.toNat + len.toNat then
          Answers .loadForm s rest (result tag 23 [])
        else if (s.slot k).isLoading = true then Answers .loadForm s rest (result tag 11 [])
        else if 0 < (s.slot k).useCount then Answers .loadForm s rest (result tag 12 [])
        else
          Does .loadForm s rest
            (State.setSlot
              { s with
                reserved := s.reserved + 4
                busQueue :=
                  s.busQueue ++ [⟨.formFetch k, BitVec.ofNat 24 (low.toNat + 0x10000 * high.toNat), len.toNat⟩] }
              k ⟨.loading tag 4, 0⟩)

/-- R18: DISCARD FORM: the first of the four conditions that holds gives the result with no change; otherwise the
slot becomes EMPTY and the result is OK, at once. That the row is the taking and carries no operand is the MODEL's
choice (notes/assumptions/2.md), and that the next header is taken up in the same happening is DEDUCED (15.md). -/
def Obligations.DiscardFormTaken : Prop :=
  ∀ (s : State) (tag target : Byte) (rest : List Word),
    Offered s .discardForm tag target [] rest →
      (23 < target.toNat → Answers .discardForm s rest (result tag 9 [])) ∧
      ∀ k : SlotId, target.toNat = k.val →
        if (s.slot k).isLoading = true then Answers .discardForm s rest (result tag 11 [])
        else if 0 < (s.slot k).useCount then Answers .discardForm s rest (result tag 12 [])
        else if (s.slot k).state = .empty then Answers .discardForm s rest (result tag 10 [])
        else
          Does .discardForm s rest
            (State.setSlot { s with answerQueue := s.answerQueue ++ result tag 0 [] } k ⟨.empty, 0⟩)

/-- R19: QUERY FORM: the slot's state, use count, name, field count and value total; zeros for the last three of a
slot that is not READY. It changes nothing. -/
def Obligations.QueryFormTaken : Prop :=
  ∀ (s : State) (tag target : Byte) (rest : List Word),
    Offered s .queryForm tag target [] rest →
      (23 < target.toNat → Answers .queryForm s rest (result tag 9 [])) ∧
      ∀ k : SlotId, target.toNat = k.val →
        match (s.slot k).state with
        | .empty =>
          Answers .queryForm s rest (result tag 0 [wordOf 0 (byte (s.slot k).useCount), 0, 0, 0, 0, 0])
        | .loading _ _ =>
          Answers .queryForm s rest (result tag 0 [wordOf 1 (byte (s.slot k).useCount), 0, 0, 0, 0, 0])
        | .ready d =>
          Answers .queryForm s rest
            (result tag 0
              (wordOf 2 (byte (s.slot k).useCount) :: wordsOfBytes d.name ++ [word d.fields.length, word d.valueTotal]))

/-- R13, R172: a FORM_FETCH ends without a fault: its bytes stand in the transfer buffer, and the slot becomes READY with the
definition they hold, or EMPTY with the first check that fails; the result of its LOAD FORM is posted into its reservation in
the same happening. That the bytes come as an operand is the MODEL's choice (notes/assumptions/7.md). -/
def Obligations.FormFetchEnds : Prop :=
  ∀ (s : State) (k : SlotId) (address : HostAddr) (n : Nat) (bytes : List Byte) (tag : Byte) (r : Nat),
    s.transfer = some ⟨.formFetch k, address, n⟩ → (s.slot k).state = .loading tag r → bytes.length = n →
      ∃ t, exec (.formFetchEnd bytes) s = .next t ∧ Wrote s.transferBuffer t.transferBuffer 0 bytes ∧
        (formImageCheck bytes n = none →
          t = State.setSlot
            { s with
              transfer := none
              transferBuffer := t.transferBuffer
              reserved := s.reserved - r
              answerQueue := s.answerQueue ++
                result tag 0 [word (formOfImage bytes).fields.length, word (formOfImage bytes).valueTotal] }
            k ⟨.ready (formOfImage bytes), 0⟩) ∧
        ∀ code index, formImageCheck bytes n = some (code, index) →
          t = State.setSlot
            { s with
              transfer := none
              transferBuffer := t.transferBuffer
              reserved := s.reserved - r
              answerQueue := s.answerQueue ++ result tag 26 [word code, word index] }
            k ⟨.empty, 0⟩

/-- R10, R14, R15, R16: what an image that passes every check holds: a form of 1 to 48 fields and at most 32 text
items on 1 to 32 rows of 20 to 132 columns, whose fields lie within the row, off the message row and off one another,
and whose value total is the sum of its field lengths. -/
def Obligations.CheckedFormsAreSound : Prop :=
  ∀ (img : List Byte) (n : Nat), img.length = n → formImageCheck img n = none → FormSound (formOfImage img)

/-! ## The profile store -/

/-- R149: SET PROFILE: the first of the four conditions that holds gives the result; otherwise the profile becomes LOADING and a
PROFILE_FETCH of 171 bytes joins the Bus Master's queue with the result still to come. R150, R172: a PROFILE_FETCH ends without
a fault: the profile becomes READY, with the record of the image when every check passes and with the defaults otherwise, and
the result of its SET PROFILE is posted in the same happening. That the bytes come as an operand is the MODEL's choice
(notes/assumptions/7.md). -/
def Obligations.ProfilesSet : Prop :=
  (∀ (s : State) (tag target : Byte) (low high : Word) (rest : List Word),
      Offered s .setProfile tag target [low, high] rest →
        (3 < target.toNat → Answers .setProfile s rest (result tag 23 [])) ∧
        ∀ p : ProfileId, target.toNat = p.val →
          if 0x1000000 < low.toNat + 0x10000 * high.toNat + 171 then Answers .setProfile s rest (result tag 23 [])
          else if (s.profileSlot p).isLoading = true then Answers .setProfile s rest (result tag 14 [])
          else if 0 < (s.profileSlot p).userCount then Answers .setProfile s rest (result tag 12 [])
          else
            Does .setProfile s rest
              (State.setProfile
                { s with
                  reserved := s.reserved + 4
                  busQueue :=
                    s.busQueue ++ [⟨.profileFetch p, BitVec.ofNat 24 (low.toNat + 0x10000 * high.toNat), 171⟩] }
                p ⟨.loading tag 4, (s.profileSlot p).userCount⟩)) ∧
  (∀ (s : State) (p : ProfileId) (address : HostAddr) (bytes : List Byte) (tag : Byte) (r : Nat),
      s.transfer = some ⟨.profileFetch p, address, 171⟩ → (s.profileSlot p).state = .loading tag r → bytes.length = 171 →
        ∃ t, exec (.profileFetchEnd bytes) s = .next t ∧ Wrote s.transferBuffer t.transferBuffer 0 bytes ∧
          (profileImageCheck bytes = none →
            t = State.setProfile
              { s with
                transfer := none
                transferBuffer := t.transferBuffer
                reserved := s.reserved - r
                answerQueue := s.answerQueue ++ result tag 0 [] }
              p ⟨.ready (profileOfImage bytes), (s.profileSlot p).userCount⟩) ∧
          ∀ code index, profileImageCheck bytes = some (code, index) →
            t = State.setProfile
              { s with
                transfer := none
                transferBuffer := t.transferBuffer
                reserved := s.reserved - r
                answerQueue := s.answerQueue ++ result tag 13 [word code, word index] }
              p ⟨.ready Profile.default, (s.profileSlot p).userCount⟩)

/-! ## The line commands -/

/-- R153: CONFIGURE LINE: BAD_LINE, LINE_ON, then BAD_ARGUMENT for an item outside its values; otherwise every item
is replaced. R153, R194: the configuration block: a block of 14 bytes whose items all lie within their values is read as
the configuration whose block it is, and such a configuration is read back from its block. -/
def Obligations.LinesConfigured : Prop :=
  (∀ (s : State) (tag target : Byte) (args rest : List Word), args.length = 7 →
      Offered s .configureLine tag target args rest →
        (11 < target.toNat → Answers .configureLine s rest (result tag 6 [])) ∧
        ∀ l : LineId, target.toNat = l.val →
          if (s.line l).on = true then Answers .configureLine s rest (result tag 8 [])
          else
            match LineConfig.ofBytes (bytesOfWords args) with
            | none => Answers .configureLine s rest (result tag 23 [])
            | some config =>
              Does .configureLine s rest
                (State.setLine { s with answerQueue := s.answerQueue ++ result tag 0 [] } l
                  { s.line l with config := config })) ∧
  ((∀ (b : List Byte) (c : LineConfig), b.length = 14 → LineConfig.ofBytes b = some c →
      c.bytes = b ∧ 1 ≤ c.settle ∧ c.settle ≤ 255 ∧ 1 ≤ c.keyGap ∧ c.keyGap ≤ 50 ∧ c.inactivity ≤ 900 ∧
        c.verdict ≤ 255 ∧ c.stallCeiling ≤ 255) ∧
      ∀ c : LineConfig, 1 ≤ c.settle → c.settle ≤ 255 → 1 ≤ c.keyGap → c.keyGap ≤ 50 → c.inactivity ≤ 900 →
        c.verdict ≤ 255 → c.stallCeiling ≤ 255 → LineConfig.ofBytes c.bytes = some c)

/-- R148, R154: ENABLE LINE: BAD_LINE, LINE_ON, then BAD_PROFILE while the profile is LOADING; otherwise the line is ON and
fresh, the profile's user count rises by one, and with ready monitoring settled ready and detached follow the ready level. R118,
R148, R155: DISABLE LINE: BAD_LINE, LINE_OFF, then HAS_INSTANCE; otherwise the line is OFF with its queues, counts, flags,
timers and display work gone, and the profile's user count falls by one. That the flag `idleSeen` stands for what the receiver
has seen is the MODEL's (notes/assumptions/17.md). -/
def Obligations.LinesSwitched : Prop :=
  (∀ (s : State) (tag target : Byte) (rest : List Word),
      Offered s .enableLine tag target [] rest →
        (11 < target.toNat → Answers .enableLine s rest (result tag 6 [])) ∧
        ∀ l : LineId, target.toNat = l.val →
          if (s.line l).on = true then Answers .enableLine s rest (result tag 8 [])
          else if (s.profileSlot (s.line l).config.profile).isLoading = true then
            Answers .enableLine s rest (result tag 13 [])
          else
            Does .enableLine s rest
              ((State.setProfile { s with answerQueue := s.answerQueue ++ result tag 0 [] } (s.line l).config.profile
                  { s.profileSlot (s.line l).config.profile with
                    userCount := (s.profileSlot (s.line l).config.profile).userCount + 1 }).setLine l
                { s.line l with
                  on := true
                  settled :=
                    if (s.line l).config.readyMonitoring = true then
                      (if (s.line l).readyLevel = true then .present else .absent)
                    else .notMonitored
                  detached := (s.line l).config.readyMonitoring && !(s.line l).readyLevel
                  settleTimer := .stopped
                  flow := .flowing
                  stallTimer := .stopped
                  breakState := .idle
                  idleSeen := false
                  typeAhead := []
                  output := []
                  framing := 0
                  parityCount := 0
                  overrun := 0
                  flags := EventFlags.clear
                  timeoutSerial := none })) ∧
  (∀ (s : State) (tag target : Byte) (rest : List Word),
      Offered s .disableLine tag target [] rest →
        (11 < target.toNat → Answers .disableLine s rest (result tag 6 [])) ∧
        ∀ l : LineId, target.toNat = l.val →
          if (s.line l).on = false then Answers .disableLine s rest (result tag 7 [])
          else if (s.line l).inst ≠ none then Answers .disableLine s rest (result tag 16 [])
          else
            Does .disableLine s rest
              ((State.setProfile { s with answerQueue := s.answerQueue ++ result tag 0 [] } (s.line l).config.profile
                  { s.profileSlot (s.line l).config.profile with
                    userCount := (s.profileSlot (s.line l).config.profile).userCount - 1 }).setLine l
                { s.line l with
                  on := false
                  settled := .notMonitored
                  detached := false
                  settleTimer := .stopped
                  flow := .flowing
                  stallTimer := .stopped
                  breakState := .idle
                  idleSeen := false
                  typeAhead := []
                  output := []
                  framing := 0
                  parityCount := 0
                  overrun := 0
                  flags := EventFlags.clear
                  timeoutSerial := none
                  claim := .absent
                  clearPending := false
                  bellPending := false
                  knownCursor := none }))

/-- R156, R195: QUERY LINE: the configuration block, the line state, the ready level, settled ready, detached and
the flow state, the phase and serial of the instance, and the numbers of entries and bytes held. It changes nothing. -/
def Obligations.QueryLineTaken : Prop :=
  ∀ (s : State) (tag target : Byte) (rest : List Word),
    Offered s .queryLine tag target [] rest →
      (11 < target.toNat → Answers .queryLine s rest (result tag 6 [])) ∧
      ∀ l : LineId, target.toNat = l.val →
        Answers .queryLine s rest
          (result tag 0
            (wordsOfBytes
              ((s.line l).config.bytes ++
                [if (s.line l).on = true then 1 else 0, if (s.line l).readyLevel = true then 1 else 0,
                 match (s.line l).settled with | .absent => 0 | .present => 1 | .notMonitored => 2,
                 byte ((if (s.line l).detached = true then 1 else 0) + if (s.line l).flow = .paused then 2 else 0),
                 match (s.line l).inst with | some i => i.phase.code | none => 0,
                 match (s.line l).inst with | some i => lowByte i.serial | none => 0,
                 match (s.line l).inst with | some i => highByte i.serial | none => 0,
                 byte (s.line l).typeAhead.length, byte ((s.line l).output.length % 256),
                 byte ((s.line l).output.length / 256)])))

/-! ## The instance table -/

/-- R28: the checks of a command that names an instance, in order: BAD_LINE, NO_INSTANCE, STALE (a serial of 0
passes, and HOLD INPUT and RESUME INPUT carry none), then the phase check; the first that fails gives the result and
changes nothing. R28: the phase check of each command, row by row of the rule's table. -/
def Obligations.InstanceCommandsRefused : Prop :=
  (∀ (s : State) (code : CommandCode) (tag target : Byte) (args rest : List Word),
      code ∈ [.closeForm, .clearEntry, .holdInput, .resumeInput, .readField, .writeField, .setFieldState, .placeCursor,
        .showMessage, .repaint, .acceptEntry, .returnEntry] →
      Offered s code tag target args rest →
        (11 < target.toNat → Answers (Command.row ⟨code, tag, target, args⟩) s rest (result tag 6 [])) ∧
        ∀ l : LineId, target.toNat = l.val →
          ((s.line l).inst = none → Answers (Command.row ⟨code, tag, target, args⟩) s rest (result tag 15 [])) ∧
          ∀ i, (s.line l).inst = some i →
            if code ≠ .holdInput ∧ code ≠ .resumeInput ∧ args.getD 0 0 ≠ 0 ∧ args.getD 0 0 ≠ i.serial then
              Answers (Command.row ⟨code, tag, target, args⟩) s rest (result tag 17 [])
            else
              ∀ st, phaseCheck code i = some st →
                Answers (Command.row ⟨code, tag, target, args⟩) s rest (result tag st.code [])) ∧
  (∀ i : Inst,
      (phaseCheck .closeForm i = if i.phase = .closing then some .closing else none) ∧
      (∀ c ∈ [CommandCode.clearEntry, .writeField],
        phaseCheck c i =
          if i.phase = .painting ∨ i.phase = .editing then none
          else if i.phase = .presetting ∨ i.phase = .closing then some .wrongPhase else some .frozen) ∧
      (∀ c ∈ [CommandCode.holdInput, .resumeInput, .showMessage],
        phaseCheck c i = if i.phase = .closing then some .wrongPhase else none) ∧
      (phaseCheck .readField i = if i.phase = .presetting then some .wrongPhase else none) ∧
      (phaseCheck .setFieldState i =
        if i.phase = .presetting ∨ i.phase = .closing then some .wrongPhase
        else if i.phase = .delivering then some .frozen else none) ∧
      (phaseCheck .placeCursor i = if i.phase = .painting ∨ i.phase = .editing then none else some .wrongPhase) ∧
      (phaseCheck .repaint i = if i.phase = .presetting ∨ i.phase = .closing then some .wrongPhase else none) ∧
      (phaseCheck .acceptEntry i =
        if i.phase = .awaitVerdict then none
        else if i.phase = .editing ∧ i.late = true then some .tooLate else some .wrongPhase) ∧
      (phaseCheck .returnEntry i =
        if i.phase = .awaitVerdict ∨ i.phase = .awaitBuffer then none
        else if i.phase = .editing ∧ i.late = true then some .tooLate else some .wrongPhase))

/-- R31: OPEN FORM is checked in this order: BAD_LINE, LINE_OFF, HAS_INSTANCE, BAD_SLOT, SLOT_EMPTY, SLOT_BUSY, a
preset out of bounds BAD_ARGUMENT, and no free entry as large as the extent NO_ROOM; the first that holds gives the
result and changes nothing. -/
def Obligations.OpenFormRefused : Prop :=
  ∀ (s : State) (tag target : Byte) (slot low high len : Word) (rest : List Word),
    Offered s .openForm tag target [slot, low, high, len] rest →
      (11 < target.toNat → Answers .openForm s rest (result tag 6 [])) ∧
      ∀ l : LineId, target.toNat = l.val →
        if (s.line l).on = false then Answers .openForm s rest (result tag 7 [])
        else if (s.line l).inst ≠ none then Answers .openForm s rest (result tag 16 [])
        else if 23 < slot.toNat then Answers .openForm s rest (result tag 9 [])
        else
          ∀ k : SlotId, slot.toNat = k.val →
            if (s.slot k).state = .empty then Answers .openForm s rest (result tag 10 [])
            else if (s.slot k).isLoading = true then Answers .openForm s rest (result tag 11 [])
            else if len ≠ 0 ∧ (len.toNat < 4 ∨ 4040 < len.toNat ∨
                0x1000000 < low.toNat + 0x10000 * high.toNat + len.toNat) then
              Answers .openForm s rest (result tag 23 [])
            else
              (∀ e ∈ s.freeList, e.count < ((s.slot k).form.valueTotal + 7) / 8) →
                Answers .openForm s rest (result tag 24 [])

/-- R31, R32: OPEN FORM without a preset: an instance in PAINTING at its opening values, in the first free entry large enough,
with the next serial, a full repaint set, and the serial in the result. R31, R33: OPEN FORM with a preset: an instance in
PRESETTING at its opening values, no display work and no result yet, and a PRESET_FETCH at the tail of the Bus Master's queue.
That a preset sets no display work is DEDUCED (notes/assumptions/25.md). -/
def Obligations.OpenFormTaken : Prop :=
  (∀ (s : State) (tag target : Byte) (slot low high : Word) (rest : List Word) (l : LineId) (k : SlotId) (d : FormDef)
        (base : Nat) (free : List Extent),
      Offered s .openForm tag target [slot, low, high, 0] rest → target.toNat = l.val → slot.toNat = k.val →
      (s.line l).on = true → (s.line l).inst = none → (s.slot k).state = .ready d →
      allocate ((d.valueTotal + 7) / 8) s.freeList = some (base, free) →
        DoesOn .openForm s rest
          (State.setSlot
            { s with
              freeList := free
              nextSerial := nextSerialAfter s.takenSerial
              valueMemory := openingMemory d base s.valueMemory
              answerQueue := s.answerQueue ++ result tag 0 [s.takenSerial] }
            k { s.slot k with useCount := (s.slot k).useCount + 1 })
          l
          { s.line l with
            inst := some (opened d k s.takenSerial base none)
            clearPending := (s.line l).clearPending || !(s.line l).detached }) ∧
  (∀ (s : State) (tag target : Byte) (slot low high len : Word) (rest : List Word) (l : LineId) (k : SlotId)
        (d : FormDef) (base : Nat) (free : List Extent),
      Offered s .openForm tag target [slot, low, high, len] rest → target.toNat = l.val → slot.toNat = k.val →
      (s.line l).on = true → (s.line l).inst = none → (s.slot k).state = .ready d →
      4 ≤ len.toNat → len.toNat ≤ 4040 → low.toNat + 0x10000 * high.toNat + len.toNat ≤ 0x1000000 →
      allocate ((d.valueTotal + 7) / 8) s.freeList = some (base, free) →
        DoesOn .openForm s rest
          (State.setSlot
            { s with
              freeList := free
              nextSerial := nextSerialAfter s.takenSerial
              valueMemory := openingMemory d base s.valueMemory
              reserved := s.reserved + 4
              busQueue :=
                s.busQueue ++ [⟨.presetFetch l, BitVec.ofNat 24 (low.toNat + 0x10000 * high.toNat), len.toNat⟩] }
            k { s.slot k with useCount := (s.slot k).useCount + 1 })
          l { s.line l with inst := some (opened d k s.takenSerial base (some tag)) })

/-- R27: the serial taken is held by no live instance and is not 0, and next serial becomes the value after it,
wrapping from 65535 to 1. -/
def Obligations.SerialTakenIsFresh : Prop :=
  ∀ s : State, s.nextSerial ≠ 0 →
    (∀ l i, (s.line l).inst = some i → i.serial ≠ s.takenSerial) ∧ s.takenSerial ≠ 0 ∧
      nextSerialAfter s.takenSerial ≠ 0 ∧
      nextSerialAfter s.takenSerial = (if s.takenSerial = 65535 then 1 else s.takenSerial + 1) ∧
      ((∀ l i, (s.line l).inst = some i → i.serial ≠ s.nextSerial) → s.takenSerial = s.nextSerial)

/-- R47, R60: the opening values: the bytes of each field's default stand at the field's place in the extent, and no
byte outside the extent changes. -/
def Obligations.OpeningValuesWritten : Prop :=
  ∀ (d : FormDef) (base : Nat) (m : Memory),
    (∀ n, n < d.fields.length → (d.default n).length ≤ (d.field n).length) →
      (∀ n k, n < d.fields.length → k < (d.default n).length →
        (openingMemory d base m).read (8 * base + d.offset n + k) = (d.default n)[k]?) ∧
      ∀ x, (x < 8 * base ∨ 8 * base + (d.fields.map FieldDef.length).sum ≤ x) →
        (openingMemory d base m).read x = m.read x

/-- R34, R36: a PRESET_FETCH whose image fails a check: the instance is retired and the OPEN's result is BAD_IMAGE with the
check code and index. R34, R35: a PRESET_FETCH whose image passes: the entries are applied in image order, the last for a field
standing; the fields no entry names keep their values and records but for their stale marks, and no byte outside the extent
changes; the instance moves to PAINTING with a full repaint, and the OPEN's result is OK with the serial. R40, R172: one that ends
without a fault while its instance is CLOSING: CLOSED_EARLY, then the pending closes, whatever the bytes. That the bytes come as an
operand is the MODEL's choice (notes/assumptions/7.md). -/
def Obligations.PresetFetchEnds : Prop :=
  (∀ (s : State) (l : LineId) (address : HostAddr) (n : Nat) (bytes : List Byte) (i : Inst) (openTag : Byte)
        (code index : Nat),
      s.transfer = some ⟨.presetFetch l, address, n⟩ → bytes.length = n → (s.line l).inst = some i →
      i.phase = .presetting → i.pendingOpen = some openTag → presetImage (s.form i) bytes n = .error (code, index) →
        ∃ t, Gives (.presetFetchEnd bytes) s t ∧ Wrote s.transferBuffer t.transferBuffer 0 bytes ∧
          Becomes (t.line l) (retiredLine (s.line l) false) ∧
          t = State.setLine
            { retired s l i with
              transfer := none
              transferBuffer := t.transferBuffer
              answerQueue := s.answerQueue ++ result openTag 26 [word code, word index] }
            l (t.line l)) ∧
  (∀ (s : State) (l : LineId) (address : HostAddr) (n : Nat) (bytes : List Byte) (i : Inst) (openTag : Byte)
        (entries : List (Nat × List Byte)),
      s.transfer = some ⟨.presetFetch l, address, n⟩ → bytes.length = n → (s.line l).inst = some i →
      i.phase = .presetting → i.pendingOpen = some openTag → presetImage (s.form i) bytes n = .ok entries →
      i.fields.length = (s.form i).fields.length →
      (∀ m, m < i.fields.length → (i.field m).valueLength ≤ ((s.form i).field m).length) →
        ∃ t j, Gives (.presetFetchEnd bytes) s t ∧ Wrote s.transferBuffer t.transferBuffer 0 bytes ∧
          Becomes (t.line l)
            { s.line l with inst := some j, clearPending := (s.line l).clearPending || !(s.line l).detached } ∧
          t = State.setLine
            { s with
              transfer := none
              transferBuffer := t.transferBuffer
              valueMemory := t.valueMemory
              reserved := s.reserved - i.reservation
              answerQueue := s.answerQueue ++ result openTag 0 [i.serial] }
            l (t.line l) ∧
          j = { repainted i with fields := j.fields, phase := .painting, reservation := 0, pendingOpen := none } ∧
          (∀ m, m < i.fields.length → t.value l m = (entries.reverse.lookup m).getD (s.value l m)) ∧
          j.fields.length = i.fields.length ∧
          (∀ m v, entries.reverse.lookup m = some v →
            j.field m =
              ⟨v.length, false, !fieldCheck ((s.form i).field m) v, false, (i.field m).override, some 0⟩) ∧
          (∀ m, m < i.fields.length → entries.reverse.lookup m = none →
            j.field m = { i.field m with staleFrom := some 0 }) ∧
          ∀ x, (x < 8 * i.extent.base ∨ 8 * i.extent.base + ((s.form i).fields.map FieldDef.length).sum ≤ x) →
            t.valueMemory.read x = s.valueMemory.read x) ∧
  (∀ (s : State) (l : LineId) (address : HostAddr) (n : Nat) (bytes : List Byte) (i : Inst) (openTag : Byte),
      s.transfer = some ⟨.presetFetch l, address, n⟩ → bytes.length = n → (s.line l).inst = some i →
      i.phase = .closing → i.pendingOpen = some openTag →
        ∃ t, Gives (.presetFetchEnd bytes) s t ∧ Wrote s.transferBuffer t.transferBuffer 0 bytes ∧
          t.hostMemory = s.hostMemory ∧ ClosedBy s t l i (result openTag 29 []))

/-- R39, R42: CLOSE FORM in PAINTING, EDITING, AWAIT_BUFFER or AWAIT_VERDICT, or in PRESETTING with its request still queued:
the instance is retired, CLOSED_EARLY answers the OPEN of the last, the CLOSE result follows, and a clear is queued where the
flag asks for it. R39: CLOSE FORM while the transfer of the instance is in progress: the instance is CLOSING, the tag and its
clear-screen flag are kept with the reserved room, and no result is posted yet. That the flag is the low byte of its word is
DEDUCED (notes/assumptions/11.md). -/
def Obligations.CloseFormTaken : Prop :=
  (∀ (s : State) (tag target : Byte) (serial flag : Word) (rest : List Word) (l : LineId) (i : Inst),
      Offered s .closeForm tag target [serial, flag] rest → target.toNat = l.val → (s.line l).inst = some i →
      (serial = 0 ∨ serial = i.serial) →
        ((i.phase = .painting ∨ i.phase = .editing ∨ i.phase = .awaitBuffer ∨ i.phase = .awaitVerdict) →
          DoesOn .closeForm s rest { retired s l i with answerQueue := s.answerQueue ++ result tag 0 [] } l
            (retiredLine (s.line l) (decide (lowByte flag ≠ 0)))) ∧
        ∀ openTag, i.phase = .presetting → i.pendingOpen = some openTag → ¬ waitsFor s l i →
          DoesOn .closeForm s rest
            { retired s l i with answerQueue := s.answerQueue ++ result openTag 29 [] ++ result tag 0 [] } l
            (retiredLine (s.line l) (decide (lowByte flag ≠ 0)))) ∧
  (∀ (s : State) (tag target : Byte) (serial flag : Word) (rest : List Word) (l : LineId) (i : Inst),
      Offered s .closeForm tag target [serial, flag] rest → target.toNat = l.val → (s.line l).inst = some i →
      (serial = 0 ∨ serial = i.serial) → waitsFor s l i →
        DoesOn .closeForm s rest { s with reserved := s.reserved + 5 } l
          { s.line l with
            inst := some { i with
              phase := .closing
              pendingClose := i.pendingClose ++ [⟨tag, decide (lowByte flag ≠ 0), 5⟩] } })

/-- R39: CLOSE FORM in DELIVERING with its request still queued: the held descriptor returns to the head of the buffer list and
is offered to the waiting lines, or, from a list of 16, is given up in the result. That the flag is the low byte of its word is
DEDUCED (notes/assumptions/11.md). -/
def Obligations.CloseFormInDelivering : Prop :=
  ∀ (s : State) (tag target : Byte) (serial flag : Word) (rest : List Word) (l : LineId) (i : Inst) (d : Descriptor),
    Offered s .closeForm tag target [serial, flag] rest → target.toNat = l.val → (s.line l).inst = some i →
    (serial = 0 ∨ serial = i.serial) → i.phase = .delivering → i.heldBuffer = some d → ¬ waitsFor s l i →
    l ∉ s.waiting →
      (s.bufferList.length < 16 →
        ∃ u, Offers { retired s l i with answerQueue := s.answerQueue ++ result tag 0 [] } d (d :: s.bufferList) u ∧
          DoesOn .closeForm s rest u l (retiredLine (s.line l) (decide (lowByte flag ≠ 0)))) ∧
      (16 ≤ s.bufferList.length →
        DoesOn .closeForm s rest
          { retired s l i with
            answerQueue := s.answerQueue ++
              result tag 0 [d.address.setWidth 16, (d.address >>> 16).setWidth 16, d.length] }
          l (retiredLine (s.line l) (decide (lowByte flag ≠ 0))))

/-- R43, R44: RESET LINE: BAD_LINE, or the line-level effects and then the instance's end: at once in PAINTING, EDITING,
AWAIT_BUFFER or AWAIT_VERDICT; with its request still queued, at once too, CLOSED_EARLY answering the OPEN in PRESETTING and the
descriptor returned to the list or given up in DELIVERING; or kept as a pending close in CLOSING and while a transfer of the
instance is in progress. The flag's byte (notes/assumptions/11.md) and the timeout serial (22.md) are DEDUCED. -/
def Obligations.ResetLineTaken : Prop :=
  ∀ (s : State) (tag target : Byte) (flag : Word) (rest : List Word),
    Offered s .resetLine tag target [flag] rest →
      (11 < target.toNat → Answers .resetLine s rest (result tag 6 [])) ∧
      ∀ l : LineId, target.toNat = l.val →
        ((s.line l).inst = none →
          DoesOn .resetLine s rest { s with answerQueue := s.answerQueue ++ result tag 0 [] } l
            { flushedLine (s.line l) with
              clearPending := decide (lowByte flag ≠ 0) && (s.line l).on && !(s.line l).detached }) ∧
        ∀ i, (s.line l).inst = some i →
          ((i.phase = .painting ∨ i.phase = .editing ∨ i.phase = .awaitBuffer ∨ i.phase = .awaitVerdict) →
            DoesOn .resetLine s rest { retired s l i with answerQueue := s.answerQueue ++ result tag 0 [] } l
              (retiredLine (flushedLine (s.line l)) (decide (lowByte flag ≠ 0)))) ∧
          (∀ openTag, i.phase = .presetting → i.pendingOpen = some openTag → ¬ waitsFor s l i →
            DoesOn .resetLine s rest
              { retired s l i with answerQueue := s.answerQueue ++ result openTag 29 [] ++ result tag 0 [] } l
              (retiredLine (flushedLine (s.line l)) (decide (lowByte flag ≠ 0)))) ∧
          (∀ d, i.phase = .delivering → i.heldBuffer = some d → ¬ waitsFor s l i → l ∉ s.waiting →
            (s.bufferList.length < 16 →
              ∃ u, Offers { retired s l i with answerQueue := s.answerQueue ++ result tag 0 [] } d (d :: s.bufferList) u ∧
                DoesOn .resetLine s rest u l (retiredLine (flushedLine (s.line l)) (decide (lowByte flag ≠ 0)))) ∧
            (16 ≤ s.bufferList.length →
              DoesOn .resetLine s rest
                { retired s l i with
                  answerQueue := s.answerQueue ++
                    result tag 0 [d.address.setWidth 16, (d.address >>> 16).setWidth 16, d.length] }
                l (retiredLine (flushedLine (s.line l)) (decide (lowByte flag ≠ 0))))) ∧
          ((i.phase = .closing ∨ waitsFor s l i) →
            DoesOn .resetLine s rest { s with reserved := s.reserved + 5 } l
              { flushedLine (s.line l) with
                inst := (flushedLine (s.line l)).inst.map fun j =>
                  { j with
                    phase := .closing
                    pendingClose := j.pendingClose ++ [⟨tag, decide (lowByte flag ≠ 0), 5⟩] } })

/-- R37: CLEAR ENTRY: every field at its opening value, late and edited-since-entry clear, the message empty, the cursor in the
first unprotected field, everything marked stale without a clear, and the phase PAINTING. R38: HOLD INPUT sets the held flag and
RESUME INPUT clears it, in every phase but CLOSING. That every cursor entry marks the cursor stale is DEDUCED
(notes/assumptions/13.md); what a cursor at NONE holds is the MODEL's choice (27.md). -/
def Obligations.EntryCommandsTaken : Prop :=
  (∀ (s : State) (tag target : Byte) (serial : Word) (rest : List Word) (l : LineId) (i : Inst),
      Offered s .clearEntry tag target [serial] rest → Named s target serial l i →
      (i.phase = .painting ∨ i.phase = .editing) →
        DoesOn .clearEntry s rest
          { s with
            valueMemory := openingMemory (s.form i) i.extent.base s.valueMemory
            answerQueue := s.answerQueue ++ result tag 0 [] }
          l (lineWith s l (restarted (s.form i) i))) ∧
  (∀ (s : State) (tag target : Byte) (rest : List Word) (l : LineId) (i : Inst),
      Named s target 0 l i → i.phase ≠ .closing →
        (Offered s .holdInput tag target [] rest →
          DoesOn .holdInput s rest { s with answerQueue := s.answerQueue ++ result tag 0 [] } l
            (lineWith s l { i with held := true })) ∧
        (Offered s .resumeInput tag target [] rest →
          DoesOn .resumeInput s rest { s with answerQueue := s.answerQueue ++ result tag 0 [] } l
            (lineWith s l { i with held := false })))

/-! ## Fields and the screen -/

/-- R61, R195: READ FIELD, in every phase but PRESETTING: BAD_FIELD for a number that is no field's, otherwise the
value length, the field's flags and its value bytes, two to a word. It changes no value, field or cursor. -/
def Obligations.ReadFieldTaken : Prop :=
  ∀ (s : State) (tag target : Byte) (serial field : Word) (rest : List Word) (l : LineId) (i : Inst),
    Offered s .readField tag target [serial, field] rest → Named s target serial l i → i.phase ≠ .presetting →
      if (s.form i).fields.length ≤ field.toNat then AnswersOn .readField s rest (result tag 21 []) l
      else
        AnswersOn .readField s rest
          (result tag 0
            (wordOf (byte (i.field field.toNat).valueLength)
                (byte
                  ((i.field field.toNat).touched.toNat + 2 * (i.field field.toNat).invalid.toNat +
                    4 * (i.field field.toNat).errorMark.toNat + 8 * (i.fieldProtected (s.form i) field.toNat).toNat +
                    16 * match (i.field field.toNat).override with | .none => 0 | .isProtected => 1 | .unprotected => 2)) ::
              wordsOfBytes (s.value l field.toNat)))
          l

/-- R62, R63: WRITE FIELD in PAINTING or EDITING: BAD_FIELD, BAD_VALUE, BAD_ARGUMENT, BAD_VALUE, or the bytes become
the value, touched and the error mark are cleared, invalid follows the check, the field is stale from 0 and a cursor in
it returns to its start. No byte outside the value changes; that the rest of the field's room is among them is DEDUCED
(notes/assumptions/23.md). -/
def Obligations.WriteFieldTaken : Prop :=
  ∀ (s : State) (tag target n len : Byte) (serial : Word) (tail rest : List Word) (l : LineId) (i : Inst),
    Offered s .writeField tag target (serial :: wordOf n len :: tail) rest → Named s target serial l i →
    (i.phase = .painting ∨ i.phase = .editing) → i.fields.length = (s.form i).fields.length →
      if i.fields.length ≤ n.toNat then AnswersOn .writeField s rest (result tag 21 []) l
      else if ((s.form i).field n.toNat).length < len.toNat then AnswersOn .writeField s rest (result tag 22 []) l
      else if tail.length ≠ (len.toNat + 1) / 2 then AnswersOn .writeField s rest (result tag 23 []) l
      else if ∃ b ∈ (bytesOfWords tail).take len.toNat, printable b = false then
        AnswersOn .writeField s rest (result tag 22 []) l
      else
        ∃ m, Wrote s.valueMemory m (8 * i.extent.base + (s.form i).offset n.toNat) ((bytesOfWords tail).take len.toNat) ∧
          DoesOn .writeField s rest
            { s with
              valueMemory := m
              answerQueue := s.answerQueue ++
                result tag 0
                  [if fieldCheck ((s.form i).field n.toNat) ((bytesOfWords tail).take len.toNat) = true then 0 else 1] }
            l
            (lineWith s l
              (let j := withField i n.toNat
                { i.field n.toNat with
                  valueLength := len.toNat
                  touched := false
                  errorMark := false
                  invalid := !fieldCheck ((s.form i).field n.toNat) ((bytesOfWords tail).take len.toNat)
                  staleFrom := some 0 }
              if i.cursorField = some n.toNat then atCursor j (some n.toNat) 0 else j))

/-- R65, R66: SET FIELD STATE with PROTECT (1), UNPROTECT (2) or DEFINED (3): the override changes, the cursor is settled, and
the result carries the cursor field and the effective protection. That every cursor entry marks the cursor stale is DEDUCED
(notes/assumptions/13.md); what a cursor at NONE holds is the MODEL's choice (27.md). -/
def Obligations.FieldProtectionSet : Prop :=
  ∀ (s : State) (tag target n : Byte) (serial : Word) (rest : List Word) (l : LineId) (i : Inst) (row : Instr) (op : Byte)
      (o : Override),
    (row, op, o) ∈ [(Instr.setFieldStateProtect, (1 : Byte), Override.isProtected),
      (.setFieldStateUnprotect, 2, .unprotected), (.setFieldStateDefined, 3, .none)] →
    Offered s .setFieldState tag target [serial, wordOf n op] rest → Named s target serial l i →
    (i.phase = .painting ∨ i.phase = .editing ∨ i.phase = .awaitBuffer ∨ i.phase = .awaitVerdict) →
    i.fields.length = (s.form i).fields.length → n.toNat < i.fields.length →
      DoesOn row s rest
        { s with
          answerQueue := s.answerQueue ++
            result tag 0
              [wordOf
                (match (overridden (s.form i) i n.toNat o).cursorField with | some m => byte m | none => 255)
                (if (overridden (s.form i) i n.toNat o).fieldProtected (s.form i) n.toNat = true then 1 else 0)] }
        l (lineWith s l (overridden (s.form i) i n.toNat o))

/-- R54, R65: SET FIELD STATE with MARK (4) or UNMARK (5): the error mark is set or cleared and the field is stale
from 0; value, touched, invalid and cursor stay. R65: SET FIELD STATE refused on its arguments: BAD_FIELD for a number
that is no field's, then BAD_ARGUMENT for an operation that is none of the five. That the PROTECT row takes the latter
is the MODEL's choice (notes/assumptions/10.md). -/
def Obligations.FieldMarksAndRefusals : Prop :=
  (∀ (s : State) (tag target n : Byte) (serial : Word) (rest : List Word) (l : LineId) (i : Inst) (row : Instr) (op : Byte)
        (mark : Bool),
      (row, op, mark) ∈ [(Instr.setFieldStateMark, (4 : Byte), true), (.setFieldStateUnmark, 5, false)] →
      Offered s .setFieldState tag target [serial, wordOf n op] rest → Named s target serial l i →
      (i.phase = .painting ∨ i.phase = .editing ∨ i.phase = .awaitBuffer ∨ i.phase = .awaitVerdict) →
      i.fields.length = (s.form i).fields.length → n.toNat < i.fields.length →
        DoesOn row s rest
          { s with
            answerQueue := s.answerQueue ++
              result tag 0
                [wordOf (match i.cursorField with | some m => byte m | none => 255)
                  (if i.fieldProtected (s.form i) n.toNat = true then 1 else 0)] }
          l (lineWith s l (withField i n.toNat { i.field n.toNat with errorMark := mark, staleFrom := some 0 }))) ∧
  (∀ (s : State) (tag target n op : Byte) (serial : Word) (rest : List Word) (l : LineId) (i : Inst),
      Offered s .setFieldState tag target [serial, wordOf n op] rest → Named s target serial l i →
      (i.phase = .painting ∨ i.phase = .editing ∨ i.phase = .awaitBuffer ∨ i.phase = .awaitVerdict) →
        ((s.form i).fields.length ≤ n.toNat →
          AnswersOn (Command.row ⟨.setFieldState, tag, target, [serial, wordOf n op]⟩) s rest (result tag 21 []) l) ∧
        (n.toNat < (s.form i).fields.length → (op = 0 ∨ 5 < op.toNat) →
          AnswersOn .setFieldStateProtect s rest (result tag 23 []) l))

/-- R84, R99: PLACE CURSOR in PAINTING or EDITING: BAD_FIELD for no field or an effectively protected one, BAD_ARGUMENT for a
position above the value length, otherwise the cursor enters the field there. R116: SHOW MESSAGE in every phase but CLOSING:
BAD_VALUE, BAD_ARGUMENT, BAD_VALUE, or the message is replaced, stale except in PRESETTING. R104, R117: REPAINT: a full repaint
(its clear on an attached line alone); EDITING becomes PAINTING and the other phases stay. That every cursor entry marks the
cursor stale (notes/assumptions/13.md) and that the high byte of the word with SHOW MESSAGE's length, which holds no item, is not
examined (11.md) are DEDUCED. -/
def Obligations.ScreenCommandsTaken : Prop :=
  (∀ (s : State) (tag target n pos : Byte) (serial : Word) (rest : List Word) (l : LineId) (i : Inst),
      Offered s .placeCursor tag target [serial, wordOf n pos] rest → Named s target serial l i →
      (i.phase = .painting ∨ i.phase = .editing) →
        if (s.form i).fields.length ≤ n.toNat ∨ i.fieldProtected (s.form i) n.toNat = true then
          AnswersOn .placeCursor s rest (result tag 21 []) l
        else if (i.field n.toNat).valueLength < pos.toNat then AnswersOn .placeCursor s rest (result tag 23 []) l
        else
          DoesOn .placeCursor s rest { s with answerQueue := s.answerQueue ++ result tag 0 [] } l
            (lineWith s l (atCursor i (some n.toNat) pos.toNat))) ∧
  (∀ (s : State) (tag target len high : Byte) (serial : Word) (tail rest : List Word) (l : LineId) (i : Inst),
      Offered s .showMessage tag target (serial :: wordOf len high :: tail) rest → Named s target serial l i →
      i.phase ≠ .closing →
        if 80 < len.toNat then AnswersOn .showMessage s rest (result tag 22 []) l
        else if tail.length ≠ (len.toNat + 1) / 2 then AnswersOn .showMessage s rest (result tag 23 []) l
        else if ∃ b ∈ (bytesOfWords tail).take len.toNat, printable b = false then
          AnswersOn .showMessage s rest (result tag 22 []) l
        else
          DoesOn .showMessage s rest { s with answerQueue := s.answerQueue ++ result tag 0 [] } l
            (lineWith s l
              { i with
                message := (bytesOfWords tail).take len.toNat
                messageStale := if i.phase = .presetting then i.messageStale else true })) ∧
  (∀ (s : State) (tag target : Byte) (serial : Word) (rest : List Word) (l : LineId) (i : Inst),
      Offered s .repaint tag target [serial] rest → Named s target serial l i → i.phase ≠ .presetting →
      i.phase ≠ .closing →
        DoesOn .repaint s rest { s with answerQueue := s.answerQueue ++ result tag 0 [] } l (repaintedLine (s.line l) i))

/-! ## Submission and delivery -/

/-- R125, R129: POST BUFFER: LIST_FULL, BAD_BUFFER, BAD_ARGUMENT, or the descriptor joins the tail and is offered to
the waiting lines; the result carries the descriptors then listed and the line that took it, or 255. -/
def Obligations.PostBufferTaken : Prop :=
  ∀ (s : State) (tag target : Byte) (low high len : Word) (rest : List Word),
    Offered s .postBuffer tag target [low, high, len] rest →
      if 16 ≤ s.bufferList.length then Answers .postBuffer s rest (result tag 27 [])
      else if len.toNat < 16 then Answers .postBuffer s rest (result tag 28 [])
      else if 0x1000000 < low.toNat + 0x10000 * high.toNat + len.toNat then
        Answers .postBuffer s rest (result tag 23 [])
      else
        ∃ u, Offers s ⟨BitVec.ofNat 24 (low.toNat + 0x10000 * high.toNat), len⟩
            (s.bufferList ++ [⟨BitVec.ofNat 24 (low.toNat + 0x10000 * high.toNat), len⟩]) u ∧
          Does .postBuffer s rest
            { u with
              answerQueue := s.answerQueue ++
                result tag 0
                  [wordOf (byte u.bufferList.length)
                    (match s.waiting.find? (fun m => decide ((s.instOf m).imageSize ≤ len.toNat)) with
                      | some m => byte m.val
                      | none => 255)] }

/-- R126: WITHDRAW BUFFERS: the list is emptied, the result carries the number removed, and nothing else changes. -/
def Obligations.WithdrawBuffersTaken : Prop :=
  ∀ (s : State) (tag target : Byte) (rest : List Word),
    Offered s .withdrawBuffers tag target [] rest →
      Does .withdrawBuffers s rest
        { s with bufferList := [], answerQueue := s.answerQueue ++ result tag 0 [word s.bufferList.length] }

/-- R134, R135: ACCEPT ENTRY in AWAIT_VERDICT: CLOSE retires the instance and queues a clear where the flag asks;
RENEW starts a new entry on it with a new serial at the opening values; another verdict is BAD_ARGUMENT, which the CLOSE
row takes by the MODEL's choice (notes/assumptions/10.md), as is what a cursor at NONE holds (27.md). -/
def Obligations.AcceptEntryTaken : Prop :=
  ∀ (s : State) (tag target flag : Byte) (serial : Word) (rest : List Word) (l : LineId) (i : Inst),
    Named s target serial l i → i.phase = .awaitVerdict →
      (Offered s .acceptEntry tag target [serial, wordOf 1 flag] rest →
        DoesOn .acceptEntryClose s rest { retired s l i with answerQueue := s.answerQueue ++ result tag 0 [0] } l
          (retiredLine (s.line l) (decide (flag ≠ 0)))) ∧
      (Offered s .acceptEntry tag target [serial, wordOf 2 flag] rest →
        DoesOn .acceptEntryRenew s rest
          { s with
            nextSerial := nextSerialAfter s.takenSerial
            valueMemory := openingMemory (s.form i) i.extent.base s.valueMemory
            answerQueue := s.answerQueue ++ result tag 0 [s.takenSerial] }
          l
          (lineWith s l
            { restarted (s.form i) i with
              verdictTimer := .stopped
              serial := s.takenSerial
              imageSize := 0
              resubmit := false
              insertMode := .overwrite })) ∧
      ∀ verdict : Byte, verdict ≠ 1 → verdict ≠ 2 →
        Offered s .acceptEntry tag target [serial, wordOf verdict flag] rest →
          AnswersOn .acceptEntryClose s rest (result tag 23 []) l

/-- R136: RETURN ENTRY in AWAIT_BUFFER or AWAIT_VERDICT: BAD_FIELD, BAD_VALUE, BAD_ARGUMENT, BAD_VALUE, or the entry returns to
EDITING with the cursor in the field, its error mark set and the message shown; a place in the waiting-lines queue and the
reservation are given back. That every cursor entry marks the cursor stale is DEDUCED (notes/assumptions/13.md). -/
def Obligations.ReturnEntryTaken : Prop :=
  ∀ (s : State) (tag target n len : Byte) (serial : Word) (tail rest : List Word) (l : LineId) (i : Inst),
    Offered s .returnEntry tag target (serial :: wordOf n len :: tail) rest → Named s target serial l i →
    (i.phase = .awaitBuffer ∨ i.phase = .awaitVerdict) →
      if (s.form i).fields.length ≤ n.toNat ∨ i.fieldProtected (s.form i) n.toNat = true then
        AnswersOn .returnEntry s rest (result tag 21 []) l
      else if 80 < len.toNat then AnswersOn .returnEntry s rest (result tag 22 []) l
      else if tail.length ≠ (len.toNat + 1) / 2 then AnswersOn .returnEntry s rest (result tag 23 []) l
      else if ∃ b ∈ (bytesOfWords tail).take len.toNat, printable b = false then
        AnswersOn .returnEntry s rest (result tag 22 []) l
      else
        DoesOn .returnEntry s rest
          { s with
            waiting := s.waiting.filter fun m => m != l
            reserved := s.reserved - i.reservation
            answerQueue := s.answerQueue ++ result tag 0 [] }
          l
          (lineWith s l
            { atCursor (withField i n.toNat { i.field n.toNat with errorMark := true, staleFrom := some 0 })
                (some n.toNat) 0 with
              phase := .editing
              verdictTimer := .stopped
              reservation := 0
              message := (bytesOfWords tail).take len.toNat
              messageStale := true })

/-- R190: QUERY PART: the part state, the free granules, the largest free entry, the numbers of free entries, of
descriptors listed, of waiting instances and of requests queued, and the next serial. It changes nothing. -/
def Obligations.QueryPartTaken : Prop :=
  ∀ (s : State) (tag target : Byte) (rest : List Word),
    Offered s .queryPart tag target [] rest →
      ∃ largest, (∀ e ∈ s.freeList, e.count ≤ largest) ∧ (largest = 0 ∨ ∃ e ∈ s.freeList, e.count = largest) ∧
        Answers .queryPart s rest
          (result tag 0
            [match s.partState with | .starting => 0 | .ready => 1 | .fault => 2,
             word (s.freeList.map Extent.count).sum, word largest, word s.freeList.length, word s.bufferList.length,
             word s.waiting.length, word s.busQueue.length, s.nextSerial])

/-! ## The bus master -/

/-- R170: the request at the head of the queue becomes the transfer in progress, when there is none; nothing starts
otherwise. -/
def Obligations.TransferStarts : Prop :=
  ∀ s : State,
    (∀ r rest, s.transfer = none → s.busQueue = r :: rest →
      exec .transferStart s = .next { s with transfer := some r, busQueue := rest }) ∧
    ((s.transfer ≠ none ∨ s.busQueue = []) → exec .transferStart s = .next s)

/-- R131, R133, R173: a DELIVERY completes: the entry image stands in the host buffer, the DELIVERED notice is posted into the
instance's reservation with its closed flag clear, and the instance waits for a verdict with its verdict timer started. R40: in
CLOSING the notice carries its closed flag set, the instance is retired and the pending closes are answered. That the host
memory keeps the part's writes is the MODEL's choice (notes/assumptions/7.md). -/
def Obligations.DeliveryCompletes : Prop :=
  ∀ (s : State) (l : LineId) (address : HostAddr) (n : Nat) (i : Inst) (d : Descriptor),
    s.transfer = some ⟨.delivery l, address, n⟩ → (s.line l).inst = some i → i.heldBuffer = some d →
      ∃ t, Gives .deliveryComplete s t ∧ Wrote s.hostMemory t.hostMemory address.toNat (s.entryImage l) ∧
        (i.phase ≠ .closing →
          Becomes (t.line l)
            (lineWith s l
              { i with
                phase := .awaitVerdict
                heldBuffer := none
                reservation := 0
                verdictTimer :=
                  if (s.line l).config.verdict = 0 then .stopped else .running (100 * (s.line l).config.verdict) }) ∧
          t = State.setLine
            { s with
              transfer := none
              hostMemory := t.hostMemory
              reserved := s.reserved - i.reservation
              answerQueue := s.answerQueue ++
                [0x0206, wordOf (byte l.val) (byte i.slot.val), i.serial] ++ addressWords d.address 0 ++
                  [word i.imageSize] }
            l (t.line l)) ∧
        (i.phase = .closing →
          t.transferBuffer = s.transferBuffer ∧
          ClosedBy s t l i
            ([0x0206, wordOf (byte l.val) (byte i.slot.val), i.serial] ++ addressWords d.address 1 ++
              [word i.imageSize]))

/-- R123, R130, R191, R196: the entry image: the header of 8 bytes, then for each field in order its number, value length,
state and a pad byte, the value, and a pad byte after an odd value; as long as the image size. -/
def Obligations.EntryImageLaid : Prop :=
  ∀ (s : State) (l : LineId) (i : Inst), (s.line l).inst = some i → i.fields.length = (s.form i).fields.length →
    s.entryImage l =
        [lowByte (word i.imageSize), highByte (word i.imageSize), lowByte i.serial, highByte i.serial, byte l.val,
          byte i.slot.val, byte i.fields.length, if i.resubmit = true then 1 else 0] ++
        ((List.range i.fields.length).map fun n =>
          [byte n, byte (i.field n).valueLength,
            byte
              ((i.field n).touched.toNat + 2 * (i.field n).invalid.toNat + 4 * (i.field n).errorMark.toNat +
                8 * (i.fieldProtected (s.form i) n).toNat), 0] ++
            s.value l n ++ if (i.field n).valueLength % 2 = 1 then [0] else []).flatten ∧
      (s.entryImage l).length = imageSizeOf i.fields

/-- R17, R36, R132, R150, R174: a bus fault on any cycle ends the transfer: the bytes of the cycles answered before it stand
where they were moved; the slot becomes EMPTY, the profile takes the defaults, the preset's instance is retired, each with
BUS_FAULT; a delivery posts DELIVERY_FAULT, gives its descriptor up and returns its instance to EDITING with a bell. The
operands of the row are the MODEL's choice (notes/assumptions/7.md and 8.md). -/
def Obligations.BusFaultsTaken : Prop :=
  ∀ (s : State) (r : Request) (answered : Nat) (bytes : List Byte),
    s.transfer = some r → bytesMoved r.address.toNat r.length answered < r.length →
      ∃ t, Gives (.busFault answered bytes) s t ∧
        ((∀ l, r.owner ≠ .delivery l) →
          t.hostMemory = s.hostMemory ∧
            Wrote s.transferBuffer t.transferBuffer 0 (bytes.take (bytesMoved r.address.toNat r.length answered))) ∧
        (∀ k tag q, r.owner = .formFetch k → (s.slot k).state = .loading tag q →
          t = State.setSlot
            { s with
              transfer := none
              transferBuffer := t.transferBuffer
              reserved := s.reserved - q
              answerQueue := s.answerQueue ++ result tag 25 [] }
            k ⟨.empty, 0⟩) ∧
        (∀ p tag q, r.owner = .profileFetch p → (s.profileSlot p).state = .loading tag q →
          t = State.setProfile
            { s with
              transfer := none
              transferBuffer := t.transferBuffer
              reserved := s.reserved - q
              answerQueue := s.answerQueue ++ result tag 25 [] }
            p ⟨.ready Profile.default, (s.profileSlot p).userCount⟩) ∧
        (∀ l i openTag, r.owner = .presetFetch l → (s.line l).inst = some i → i.pendingOpen = some openTag →
          (i.phase ≠ .closing →
            Becomes (t.line l) (retiredLine (s.line l) false) ∧
              t = State.setLine
                { retired s l i with
                  transfer := none
                  transferBuffer := t.transferBuffer
                  answerQueue := s.answerQueue ++ result openTag 25 [] }
                l (t.line l)) ∧
          (i.phase = .closing → ClosedBy s t l i (result openTag 29 []))) ∧
        ∀ l i d, r.owner = .delivery l → (s.line l).inst = some i → i.heldBuffer = some d →
          t.transferBuffer = s.transferBuffer ∧
          Wrote s.hostMemory t.hostMemory r.address.toNat
            ((s.entryImage l).take (bytesMoved r.address.toNat r.length answered)) ∧
          (i.phase ≠ .closing →
            Becomes (t.line l)
              { lineWith s l { i with phase := .editing, heldBuffer := none, reservation := 0 } with
                bellPending := (s.line l).bellPending || !(s.line l).detached } ∧
            t = State.setLine
              { s with
                transfer := none
                hostMemory := t.hostMemory
                reserved := s.reserved - i.reservation
                answerQueue := s.answerQueue ++ [0x0305, wordOf (byte l.val) 0, i.serial] ++ addressWords d.address 0 }
              l (t.line l)) ∧
          (i.phase = .closing →
            ClosedBy s t l i ([0x0305, wordOf (byte l.val) 0, i.serial] ++ addressWords d.address 0))

/-! ## The serial lines -/

/-- R157, R158, R159, R160: a character received on an ON line whose receiver has seen its stream idle and stands in no break
goes through the five steps; any other line takes none. The form of a character, and what the receiver does in a break, are the
MODEL's choice (notes/assumptions/17.md); that the start of a break is told without the parity bit is DEDUCED (17.md); what even and
odd parity mean, in the step that checks the parity, is PRESUMED (17.md). -/
def Obligations.CharacterTaken : Prop :=
  ∀ (s : State) (l : LineId) (c : RxChar),
    ((s.line l).on = true → (s.line l).idleSeen = true → (s.line l).breakState = .idle →
      ∃ y, Received (s.line l) (s.lineProfile l) c y ∧ Leaves (.characterReceived l c) s s l y) ∧
    (((s.line l).on = false ∨ (s.line l).idleSeen = false ∨ (s.line l).breakState = .inBreak) →
      exec (.characterReceived l c) s = .next s)

/-- R154, R158, R162: the end of a break makes the break state IDLE; an ON line's receiver sees its stream idle; and the
transmitter of an ON line starts the byte at the head of the output queue when the line flows or flow control is off, framed as the
configuration gives: its value above 0x7F not carried with 7 data bits, the parity bit when parity is configured, and the stop
bits. `idleSeen` and `wire` are the MODEL's (notes/assumptions/17.md and 18.md); what even and odd parity mean is PRESUMED
(17.md). -/
def Obligations.ReceiverAndTransmitter : Prop :=
  ∀ (s : State) (l : LineId),
    exec (.breakEnd l) s = .next (s.setLine l { s.line l with breakState := .idle }) ∧
    exec (.receivedStreamIdleSeen l) s =
      .next (s.setLine l { s.line l with idleSeen := (s.line l).idleSeen || (s.line l).on }) ∧
    (∀ b rest, (s.line l).output = b :: rest → (s.line l).on = true →
      ((s.line l).flow = .flowing ∨ (s.line l).config.flowControl = false) →
        exec (.byteTransmitStart l) s =
          .next (s.setLine l
            { s.line l with
              output := rest
              wire :=
                let data := match (s.line l).config.dataBits with | .seven => b &&& 0x7F | .eight => b
                let ones := ((List.range 8).filter fun k => data.getLsbD k).length
                some
                  ⟨(s.line l).config.dataBits, data,
                    match (s.line l).config.parity with
                    | .none => none
                    | .even => some (decide (ones % 2 = 1))
                    | .odd => some (decide (ones % 2 = 0)),
                    (s.line l).config.stopBits⟩ })) ∧
    (((s.line l).output = [] ∨ (s.line l).on = false ∨
        ((s.line l).flow = .paused ∧ (s.line l).config.flowControl = true)) →
      exec (.byteTransmitStart l) s = .next s)

/-- R163, R164, R165: the ready level follows the input; on an ON line with ready monitoring the settle timer starts when the
level comes to differ from settled ready and stops when it returns; at its end a loss detaches the line and a return attaches
it, each setting READY_CHANGED. The expiry row acts on a running timer whatever its count, by the MODEL's choice
(notes/assumptions/4.md). -/
def Obligations.ReadyMonitored : Prop :=
  ∀ (s : State) (l : LineId),
    (∀ present, exec (.readyInputChange l present) s =
      .next (s.setLine l
        { s.line l with
          readyLevel := present
          settleTimer :=
            if (s.line l).on = false ∨ (s.line l).config.readyMonitoring = false ∨ (s.line l).readyLevel = present then
              (s.line l).settleTimer
            else if (s.line l).settled = (if present = true then .present else .absent) then .stopped
            else
              match (s.line l).settleTimer with
              | .running n => .running n
              | _ => .running (s.line l).config.settle })) ∧
    ∀ n, (s.line l).settleTimer = .running n →
      ((s.line l).readyLevel = false →
        Leaves (.settleTimerExpiry l) s s l
          { s.line l with
            settled := .absent
            settleTimer := .stopped
            detached := true
            typeAhead := []
            output := []
            pendingKeys := []
            releaseDue := false
            flow := .flowing
            stallTimer := .stopped
            flags := { (s.line l).flags with readyChanged := true }
            clearPending := false
            bellPending := false
            knownCursor := none
            inst := (flushedLine (s.line l)).inst }) ∧
      ((s.line l).readyLevel = true →
        (∀ i, (s.line l).inst = some i → i.phase ≠ .presetting →
          Leaves (.settleTimerExpiry l) s s l
            (repaintedLine
              { s.line l with
                settled := .present
                settleTimer := .stopped
                detached := false
                flags := { (s.line l).flags with readyChanged := true } }
              i)) ∧
        ((∀ i, (s.line l).inst = some i → i.phase = .presetting) →
          Leaves (.settleTimerExpiry l) s s l
            { s.line l with
              settled := .present
              settleTimer := .stopped
              detached := false
              flags := { (s.line l).flags with readyChanged := true } }))

/-- R102, R133, R161: the stall timer runs out: STALLED and spent; the inactivity timer runs out: INACTIVE and spent; the
verdict timer runs out: EDITING with late set, a bell, and VERDICT_TIMEOUT with the serial. The rows act on a running timer
whatever its count, by the MODEL's choice (notes/assumptions/4.md). -/
def Obligations.LineTimersRunOut : Prop :=
  ∀ (s : State) (l : LineId),
    (∀ n, (s.line l).stallTimer = .running n →
      Leaves (.stallTimerExpiry l) s s l
        (flagged { s.line l with stallTimer := .spent } fun f => { f with stalled := true })) ∧
    ∀ i, (s.line l).inst = some i →
      (∀ n, i.inactivity = .running n →
        Leaves (.inactivityTimerExpiry l) s s l
          (flagged (lineWith s l { i with inactivity := .spent }) fun f => { f with inactive := true })) ∧
      ∀ n, i.verdictTimer = .running n → i.phase = .awaitVerdict →
        Leaves (.verdictTimerExpiry l) s s l
          { flagged (lineWith s l { i with phase := .editing, late := true, verdictTimer := .stopped })
              (fun f => { f with verdictTimeout := true }) with
            bellPending := (s.line l).bellPending || !(s.line l).detached
            timeoutSerial := some i.serial }

/-- R167: the event claim of a line is the next grant: the LINE_EVENT record reports the flags set and the counts with
RECEIVE_FAULT, or else the serial with VERDICT_TIMEOUT; what it reports is cleared, and a VERDICT_TIMEOUT that gave way stays.
That only a waiting claim is stored is DEDUCED (notes/assumptions/21.md). -/
def Obligations.LineEventPosted : Prop :=
  ∀ (s : State) (l : LineId), s.nextGrant = some (.line l, 4) → (s.line l).claim = .event →
    ∃ x, Becomes x
        { s.line l with
          claim := .absent
          flags := { EventFlags.clear with
            verdictTimeout := (s.line l).flags.verdictTimeout && (s.line l).flags.receiveFault }
          framing := if (s.line l).flags.receiveFault = true then 0 else (s.line l).framing
          parityCount := if (s.line l).flags.receiveFault = true then 0 else (s.line l).parityCount
          overrun := if (s.line l).flags.receiveFault = true then 0 else (s.line l).overrun
          timeoutSerial :=
            if (s.line l).flags.receiveFault = false ∧ (s.line l).flags.verdictTimeout = true then none
            else (s.line l).timeoutSerial } ∧
      Gives (.lineEvent l) s
        (State.setLine
          { s with
            pointer := .line l
            answerQueue := s.answerQueue ++
              [0x0704,
                wordOf (byte l.val)
                  (byte
                    ((s.line l).flags.readyChanged.toNat + 2 * (s.line l).flags.inactive.toNat +
                      4 * (s.line l).flags.stalled.toNat +
                      8 * ((s.line l).flags.verdictTimeout && !(s.line l).flags.receiveFault).toNat +
                      16 * (s.line l).flags.receiveFault.toNat + 32 * (s.line l).flags.idleKey.toNat)),
                wordOf (match (s.line l).settled with | .absent => 0 | .present => 1 | .notMonitored => 2)
                  (if (s.line l).flags.receiveFault = true then (s.line l).framing else 0),
                if (s.line l).flags.receiveFault = true then wordOf (s.line l).parityCount (s.line l).overrun
                else if (s.line l).flags.verdictTimeout = true then (s.line l).timeoutSerial.getD 0
                else 0] }
          l x)

/-! ## Keystrokes -/

/-- R30, R52, R57, R69, R86, R87: a byte of the type-ahead is taken: discarded in CLOSING, and in EDITING a printable byte the
cursor field's type admits is placed at the cursor. R76: in the AWAIT phases a REFRESH repaints, and every other action and
character is discarded with a bell. R71, R85 to R91, R98: in EDITING: the keys that move the cursor, delete, and switch the insert
mode; what is refused with a bell; IGNORE, REFRESH, CANCEL and ATTENTION; and the keys under cursor NONE. R88, R92 to R95: NEXT, PREV
and the NEXT of AUTO_ADVANCE: the forward-exit check, STAY, WRAP and SUBMIT, and the FIELD_EXIT notice of a NOTIFY field that was
edited. R72, R81: a byte that makes a proper prefix of an entry becomes pending, and a break marker under IGNORE leaves the pending
bytes; the key gap starts anew and nothing is released. R73, R76, R81: any entry that is taken releases one run, the pending bytes
by their longest entry or the control map and the rest examined again, and its elements are applied in order. R77: what needs words
waits, with a claim of just those words. That bytes of the field's room beyond the value stay is DEDUCED (notes/assumptions/23.md),
and so are the cursor position after a failing exit (12.md), that an entry into the same field and position marks the cursor
stale (13.md) and which fields wait behind the work a paint left (`workNoted`, 29.md);
that a held instance in CLOSING has its bytes taken (26.md) is the MODEL's choice. -/
def Obligations.TypedByteTaken : Prop :=
  (∀ (s : State) (l : LineId) (i : Inst) (e : Entry) (q : List Entry),
      (s.line l).inst = some i → (s.line l).typeAhead = e :: q → (s.line l).detached = false →
        (i.phase = .closing → exec (.byteTaken l) s = .next (s.setLine l { s.line l with typeAhead := q })) ∧
        ∀ b n v, i.phase = .editing → i.held = false → e = .byte b → printable b = true →
          StandsAlone (s.lineProfile l) b → (s.line l).pendingKeys = [] → (s.line l).releaseDue = false →
          (∀ w, (s.line l).claim ≠ .key w) → i.cursorField = some n → n < i.fields.length →
          i.fields.length = (s.form i).fields.length →
          ((s.form i).field n).attrs.autoAdvance = false →
          ((s.form i).field n).type.admits (fold (s.form i) ((s.form i).field n) b) = true →
          ((i.insertMode = .overwrite ∧ i.cursorPos < (i.field n).valueLength ∧
              v = (s.value l n).set i.cursorPos (fold (s.form i) ((s.form i).field n) b)) ∨
            ((i.field n).valueLength < ((s.form i).field n).length ∧ i.cursorPos = (i.field n).valueLength ∧
              v = s.value l n ++ [fold (s.form i) ((s.form i).field n) b]) ∨
            (i.insertMode = .insert ∧ (i.field n).valueLength < ((s.form i).field n).length ∧
              i.cursorPos < (i.field n).valueLength ∧
              v = (s.value l n).take i.cursorPos ++
                fold (s.form i) ((s.form i).field n) b :: (s.value l n).drop i.cursorPos)) →
          ∃ m x, Gives (.byteTaken l) s (State.setLine { s with valueMemory := m } l x) ∧
            Wrote s.valueMemory m (8 * i.extent.base + (s.form i).offset n) v ∧
            Becomes x
              { lineWith s l
                  { withField i n
                      { i.field n with
                        valueLength := v.length
                        touched := true
                        errorMark := false
                        staleFrom :=
                          if (i.field n).errorMark = true ∧ (i.field n).invalid = false then some 0
                          else some (match (i.field n).staleFrom with | some p => min p i.cursorPos | none => i.cursorPos) }
                    with
                    edited := true
                    cursorPos := i.cursorPos + 1
                    cursorStale := true
                    inactivity := .stopped } with
                typeAhead := q
                gapTimer := .stopped }) ∧
  (∀ (s : State) (l : LineId) (i : Inst) (e : Entry) (q : List Entry), AtHead s l i e q →
      (i.phase = .awaitBuffer ∨ i.phase = .delivering ∨ i.phase = .awaitVerdict) → (∀ w, (s.line l).claim ≠ .key w) →
        (Presses s l e .ignore → Leaves (.byteTaken l) s s l (keystroke (s.line l) q)) ∧
        (Presses s l e .refresh → Leaves (.byteTaken l) s s l (keystroke (repaintedLine (s.line l) i) q)) ∧
        (∀ a, Presses s l e a → a ≠ .ignore → a ≠ .refresh →
          Leaves (.byteTaken l) s s l (keystroke (rung (s.line l)) q)) ∧
        ∀ b, Sends s l e b → Leaves (.byteTaken l) s s l (keystroke (rung (s.line l)) q)) ∧
  (∀ (s : State) (l : LineId) (i : Inst) (e : Entry) (q : List Entry), AtHead s l i e q → i.phase = .editing →
      (Presses s l e .ignore → Takes s l q 0 0 [] s (s.line l)) ∧
      (Presses s l e .refresh → Takes s l q 0 0 [] s (repaintedLine (s.line l) i)) ∧
      (Presses s l e .cancel → Takes s l q 3 0 [0x0603, wordOf (byte l.val) 0, i.serial] s (s.line l)) ∧
      (Presses s l e .attention →
        Takes s l q 4 0
          [0x0504, wordOf (byte l.val) (match i.cursorField with | some n => byte n | none => 255), i.serial,
            wordOf (match i.cursorField with | some n => ((s.form i).field n).helpCode | none => 0) 0]
          s (s.line l)) ∧
      (∀ b, Sends s l e b → (printable b = false ∨ i.cursorField = none) → Takes s l q 0 0 [] s (rung (s.line l))) ∧
      (∀ a, Presses s l e a → i.cursorField = none → a ∉ [.ignore, .submit, .cancel, .attention, .refresh] →
        Takes s l q 0 0 [] s (rung (s.line l))) ∧
      ∀ n, i.cursorField = some n → n < i.fields.length → i.fields.length = (s.form i).fields.length →
        (∀ b, Sends s l e b → printable b = true →
          (((s.form i).field n).type.admits (fold (s.form i) ((s.form i).field n) b) = false ∨
            (i.field n).valueLength = ((s.form i).field n).length ∧
              (i.insertMode = .insert ∨ i.cursorPos = (i.field n).valueLength)) →
            Takes s l q 0 0 [] s (rung (s.line l))) ∧
        (Presses s l e .left →
          (i.cursorPos = 0 → Takes s l q 0 0 [] s (rung (s.line l))) ∧
          (i.cursorPos ≠ 0 → Takes s l q 0 0 [] s (lineWith s l (cursorAt i (i.cursorPos - 1))))) ∧
        (Presses s l e .right →
          (i.cursorPos = (i.field n).valueLength → Takes s l q 0 0 [] s (rung (s.line l))) ∧
          (i.cursorPos < (i.field n).valueLength →
            Takes s l q 0 0 [] s (lineWith s l (cursorAt i (i.cursorPos + 1))))) ∧
        (Presses s l e .home → Takes s l q 0 0 [] s (lineWith s l (cursorAt i 0))) ∧
        (Presses s l e .toEnd → Takes s l q 0 0 [] s (lineWith s l (cursorAt i (i.field n).valueLength))) ∧
        (Presses s l e .rubout →
          (i.cursorPos = 0 → Takes s l q 0 0 [] s (rung (s.line l))) ∧
          (0 < i.cursorPos → i.cursorPos ≤ (i.field n).valueLength →
            Edits s l q i n ((s.value l n).eraseIdx (i.cursorPos - 1)) (i.cursorPos - 1) (i.cursorPos - 1))) ∧
        (Presses s l e .delete →
          (i.cursorPos = (i.field n).valueLength → Takes s l q 0 0 [] s (rung (s.line l))) ∧
          (i.cursorPos < (i.field n).valueLength →
            Edits s l q i n ((s.value l n).eraseIdx i.cursorPos) i.cursorPos i.cursorPos)) ∧
        (Presses s l e .clearField →
          ((i.field n).valueLength = 0 → Takes s l q 0 0 [] s (s.line l)) ∧
          (0 < (i.field n).valueLength → Edits s l q i n [] 0 0)) ∧
        (Presses s l e .insertToggle →
          Takes s l q 0 0 [] s
            (lineWith s l
              { i with insertMode := match i.insertMode with | .overwrite => .insert | .insert => .overwrite }))) ∧
  (∀ (s : State) (l : LineId) (i : Inst) (e : Entry) (q : List Entry) (n : Nat), AtHead s l i e q → i.phase = .editing →
    i.cursorField = some n → n < i.fields.length → i.fields.length = (s.form i).fields.length →
      (Presses s l e .next → Exits s l q s.valueMemory i n (s.value l n)) ∧
      (Presses s l e .prev →
        (∀ k, (openOf (s.form i) i).reverse.find? (fun k => decide (k < n)) = some k →
          Takes s l q (exitNotice (s.form i) l i n).length 0 (exitNotice (s.form i) l i n) s
            (lineWith s l (atCursor i (some k) 0))) ∧
        ((openOf (s.form i) i).reverse.find? (fun k => decide (k < n)) = none →
          ((s.form i).lastField ≠ .wrap → Takes s l q 0 0 [] s (rung (s.line l))) ∧
          ((s.form i).lastField = .wrap → ∀ k, (openOf (s.form i) i).getLast? = some k →
            Takes s l q (exitNotice (s.form i) l i n).length 0 (exitNotice (s.form i) l i n) s
              (lineWith s l (atCursor i (some k) 0))))) ∧
      ∀ b v, Sends s l e b → printable b = true → ((s.form i).field n).attrs.autoAdvance = true →
        ((s.form i).field n).type.admits (fold (s.form i) ((s.form i).field n) b) = true →
        Places i.insertMode ((s.form i).field n).length i.cursorPos (s.value l n)
          (fold (s.form i) ((s.form i).field n) b) v →
          (v.length = ((s.form i).field n).length ∧ i.cursorPos + 1 = ((s.form i).field n).length →
            ∃ m, Wrote s.valueMemory m (8 * i.extent.base + (s.form i).offset n) v ∧
              Exits s l q m (typedInst i n v.length i.cursorPos (i.cursorPos + 1)) n v) ∧
          (¬ (v.length = ((s.form i).field n).length ∧ i.cursorPos + 1 = ((s.form i).field n).length) →
            Edits s l q i n v i.cursorPos (i.cursorPos + 1))) ∧
  ∀ (s : State) (l : LineId) (i : Inst) (e : Entry) (q : List Entry), AtHead s l i e q → Interprets (s.line l) = true →
    (∀ left,
      ((∃ b, e = .byte b ∧ left = (s.line l).pendingKeys ++ [b] ∧ OpensEntry (s.lineProfile l) left) ∨
        (e = .breakMarker ∧ (s.line l).config.breakAction = .ignore ∧ left = (s.line l).pendingKeys)) →
        ((∀ w, (s.line l).claim ≠ .key w) →
          Leaves (.byteTaken l) s s l { keystroke (s.line l) q with pendingKeys := left }) ∧
        (i.phase = .editing → Uses s l 0 0 [] s { keystroke (s.line l) q with pendingKeys := left })) ∧
    ∀ es left bell,
      EntryOut (s.lineProfile l) (s.line l).config.breakAction (s.line l).pendingKeys e es left bell →
        RunsWhole s l es (fun x => { relieved x left bell with typeAhead := q }) fun x =>
          { x with inst := x.inst.map fun j => { j with inactivity := .stopped } }

/-- R75, R96, R97, R78: the release of keys. At the end of the key gap a lone pending byte goes through the control map: an
IGNORE vanishes, and a CANCEL in EDITING, which needs 3 words, stands due. At the grant of a key claim for the byte at the head,
a CANCEL posts CANCEL_KEY and an ATTENTION posts its notice with the cursor field's help code, and nothing else in the instance
changes. R75: at the end of the key gap any pending bytes release their run, by their longest entry or the control map and the rest
examined again: applied at once where it needs no word, and due otherwise. R78: a due release is applied whole at its grant; a due
CANCEL or ATTENTION, or a CANCEL and a character that is then placed, is stated item by item. R76: a run is applied element by
element, and the words it needs and uses add up. R80: the claim made once an event record is posted. That the expiry row acts
whatever the count is the MODEL's choice (notes/assumptions/4.md); that only a waiting claim is stored (21.md), that BYTE_TAKEN
applies a due release that needs no word (14.md), that bytes of the field's room beyond the value stay (23.md) and which fields wait
behind the work a paint left (`workNoted`, 29.md) are DEDUCED. -/
def Obligations.KeysReleased : Prop :=
  (∀ (s : State) (l : LineId) (b : Byte) (n : Nat),
      (s.line l).gapTimer = .running n → (s.line l).pendingKeys = [b] →
      (∀ e ∈ (s.lineProfile l).keyTable, e.keys ≠ [b]) →
        (mapsTo (s.lineProfile l) b .ignore →
          Leaves (.gapTimerExpiry l) s s l
            { s.line l with pendingKeys := [], releaseDue := false, gapTimer := .stopped }) ∧
        (mapsTo (s.lineProfile l) b .cancel → Editable (s.line l) = true →
          Leaves (.gapTimerExpiry l) s s l { s.line l with releaseDue := true, gapTimer := .stopped })) ∧
  (∀ (s : State) (l : LineId) (i : Inst) (b : Byte) (q : List Entry) (words : Nat),
      s.nextGrant = some (.line l, words) → (s.line l).claim = .key words → (s.line l).inst = some i →
      Editable (s.line l) = true → (s.line l).typeAhead = .byte b :: q → (s.line l).pendingKeys = [] →
      (s.line l).releaseDue = false → StandsAlone (s.lineProfile l) b →
        ∀ notice : List Word,
          (mapsTo (s.lineProfile l) b .cancel ∧ notice = [0x0603, wordOf (byte l.val) 0, i.serial] ∨
            mapsTo (s.lineProfile l) b .attention ∧
              notice =
                [0x0504, wordOf (byte l.val) (match i.cursorField with | some n => byte n | none => 255), i.serial,
                  wordOf (match i.cursorField with | some n => ((s.form i).field n).helpCode | none => 0) 0]) →
          (notice.length ≤ words →
            ∃ x, Gives (.keyClaimGrant l) s
                (State.setLine { s with pointer := .line l, answerQueue := s.answerQueue ++ notice } l x) ∧
              Becomes x
                { lineWith s l { i with inactivity := .stopped } with
                  typeAhead := q
                  claim := .absent
                  gapTimer := .stopped }) ∧
          (words < notice.length →
            ∃ x, Gives (.keyClaimGrant l) s (State.setLine { s with pointer := .line l } l x) ∧
              Becomes x { s.line l with claim := .absent })) ∧
  (∀ (s : State) (l : LineId) (n : Nat) (es : List Elem) (left : List Byte) (bell : Bool),
      (s.line l).gapTimer = .running n → PendingOut (s.lineProfile l) (s.line l).pendingKeys es left bell →
        (s.runNeed l es = 0 → ∀ r, r = (s.setLine l (relieved (s.line l) left bell)).applyRun l es →
          Leaves (.gapTimerExpiry l) s r.state l (r.state.line l)) ∧
        (0 < s.runNeed l es →
          Leaves (.gapTimerExpiry l) s s l { s.line l with releaseDue := true, gapTimer := .stopped })) ∧
  (∀ (s : State) (l : LineId) (i : Inst) (es : List Elem) (left : List Byte) (bell : Bool),
      (s.line l).inst = some i → Interprets (s.line l) = true → (s.line l).releaseDue = true →
      PendingOut (s.lineProfile l) (s.line l).pendingKeys es left bell →
        RunsWhole s l es (fun x => relieved x left bell) id ∧
        (i.phase = .editing →
          (es = [.action .cancel] →
            Uses s l 3 0 [0x0603, wordOf (byte l.val) 0, i.serial] s (relieved (s.line l) left bell)) ∧
          (es = [.action .attention] →
            Uses s l 4 0
              [0x0504, wordOf (byte l.val) (match i.cursorField with | some n => byte n | none => 255), i.serial,
                wordOf (match i.cursorField with | some n => ((s.form i).field n).helpCode | none => 0) 0]
              s (relieved (s.line l) left bell)) ∧
          ∀ c n v, es = [.action .cancel, .char c] → i.cursorField = some n → n < i.fields.length →
            i.fields.length = (s.form i).fields.length → ((s.form i).field n).attrs.autoAdvance = false →
            ((s.form i).field n).type.admits (fold (s.form i) ((s.form i).field n) c) = true →
            Places i.insertMode ((s.form i).field n).length i.cursorPos (s.value l n)
              (fold (s.form i) ((s.form i).field n) c) v →
              ∃ m, Wrote s.valueMemory m (8 * i.extent.base + (s.form i).offset n) v ∧
                Uses s l 3 0 [0x0603, wordOf (byte l.val) 0, i.serial] { s with valueMemory := m }
                  (relieved (lineWith s l (typedInst i n v.length i.cursorPos (i.cursorPos + 1))) left bell))) ∧
  (∀ (s : State) (l : LineId) (es es' : List Elem) (r r' : Run),
      r = s.applyRun l es → r' = r.state.applyRun l es' →
        s.applyRun l (es ++ es') = ⟨r'.state, r.need + r'.need, r.used + r'.used⟩) ∧
  ∀ (s : State) (l : LineId), s.nextGrant = some (.line l, 4) → (s.line l).claim = .event →
    ∃ t, Gives (.lineEvent l) s t ∧ ClaimMade (t.setLine l { t.line l with claim := .absent }) l (t.line l).claim

/-! ## The screen -/

/-- R105 to R114: a unit is composed on an ON line that is not detached, whole or not at all, chosen in the order of R105: the
pending clear, the pending bell, the text item the index names, the lowest-numbered stale field, highlighted while it is invalid or
error-marked, the message row, and the cursor; with no work, on an OFF line or on a detached one nothing is composed. When no
clear, text item or stale field of a paint is left, PAINTING becomes EDITING, and message and cursor work that remains is composed
before the fields whose work keystrokes create, whether or not its units fit at once (`Behind`). How that work is told from other
field work, and that the cursor stays stale where such field work stands behind it, is DEDUCED (notes/assumptions/29.md). A queue
above its capacity is ruled out by the invariant `WithinCapacity`. -/
def Obligations.UnitsComposed : Prop :=
  (∀ (s : State) (l : LineId), ((s.line l).on = false ∨ (s.line l).detached = true) →
      exec (.unitComposition l) s = .next s) ∧
  ∀ (s : State) (l : LineId), (s.line l).on = true → (s.line l).detached = false → (s.line l).output.length ≤ 256 →
    ((s.line l).clearPending = true →
      Composes s l (s.lineProfile l).clear { s.line l with clearPending := false, knownCursor := some (0, 0) }) ∧
    ((s.line l).clearPending = false → (s.line l).bellPending = true →
      Composes s l [(s.lineProfile l).bell] { s.line l with bellPending := false }) ∧
    ((s.line l).clearPending = false → (s.line l).bellPending = false →
      ((s.line l).inst = none → exec (.unitComposition l) s = .next s) ∧
      ∀ i, (s.line l).inst = some i →
        (∀ k t, i.textIndex = some k → (s.form i).texts[k]? = some t →
          Composes s l
            (addressed s l t.row t.col ++
              highlit (s.lineProfile l) (decide (t.style = .highlight))
                (((s.form i).pool.drop t.textOffset).take t.textLength))
            { lineWith s l { i with textIndex := if k + 1 < (s.form i).texts.length then some (k + 1) else none } with
              knownCursor := if t.col + t.textLength = (s.form i).columns then none else some (t.row, t.col + t.textLength) }) ∧
        ((∀ k ∈ i.textIndex, (s.form i).texts.length ≤ k) →
          (∀ n start, n < i.fields.length → (i.field n).staleFrom = some start → ¬ Behind i n →
            (∀ m, m < n → (i.field m).staleFrom = none ∨ Behind i m) → ComposesField s l i n start) ∧
          ((∀ m, m < i.fields.length → (i.field m).staleFrom = none ∨ Behind i m) →
            (i.messageStale = true →
              ((s.form i).messageRow = none → Composes s l [] (lineWith s l (messageDone i))) ∧
              ∀ row w, (s.form i).messageRow = some row → w = min 80 ((s.form i).columns - 1) →
                Composes s l
                  (addressed s l row 0 ++
                    highlit (s.lineProfile l) true (i.message.take w ++ List.replicate (w - i.message.length) 0x20))
                  { lineWith s l (messageDone i) with knownCursor := some (row, w) }) ∧
            (i.messageStale = false → i.cursorStale = true →
              (i.cursorField = none → Composes s l [] (lineWith s l (cursorDone i))) ∧
              ∀ n, i.cursorField = some n →
                Composes s l (addressed s l ((s.form i).field n).row (((s.form i).field n).col + i.cursorPos))
                  { lineWith s l (cursorDone i) with
                    knownCursor := some (((s.form i).field n).row, ((s.form i).field n).col + i.cursorPos) }) ∧
            (i.messageStale = false → i.cursorStale = false →
              (∀ n start, n < i.fields.length → (i.field n).staleFrom = some start →
                (∀ m, m < n → (i.field m).staleFrom = none) → ComposesField s l i n start) ∧
              ((∀ m, m < i.fields.length → (i.field m).staleFrom = none) → exec (.unitComposition l) s = .next s)))))

/-! ## The books -/

/-- R127, R168, R187: every step keeps the waiting-lines queue to exactly the instances in AWAIT_BUFFER, each once, one request for
each owner that waits for one, the reserved words to those the owners hold, and the answer queue with them within 256 words. R83:
every step keeps the cursor in an effectively unprotected field, its position within the value. -/
def Obligations.BooksAndCursorKept : Prop :=
  (∀ s t : State, CountsExact s → RecordsWhole s → Booked s → step s = .next t → Booked t) ∧
  ∀ s t : State, CountsExact s → RecordsWhole s → Booked s → CursorWithin s → step s = .next t → CursorWithin t

/-! ## Values, the sweep and the match -/

/-- R121, R128: the sweep ends at the first field of those it takes that fails its check or is MANDATORY with nothing but spaces;
and a submission takes the oldest descriptor that its image fits, or waits at the tail of the waiting-lines queue. R58, R59: the
canonical form of an amount keeps the digits and the sign of a value that is not zero, with no leading zeros and exactly scale
digits after the point; it is an amount and its own canonical form; and it is what a forward exit leaves where the field has room.
R77, R78, R119 to R123: a SUBMIT, at the grant of its 6 words, runs the exit check and the sweep, and is then refused at the failing
field or succeeds, keeping the words. That a failing check brings the cursor within its value (notes/assumptions/12.md), that a refused
sweep marks the cursor stale also where field and position stay the same (13.md) and which fields wait behind the work a paint left
(`workNoted`, 29.md) are DEDUCED. -/
def Obligations.SubmissionSweptAndMatched : Prop :=
  (∀ (s : State) (l : LineId) (i : Inst), (s.line l).inst = some i → i.fields.length = (s.form i).fields.length →
      (∀ ns : List Nat, (∀ n ∈ ns, n < i.fields.length) →
        (s.sweep l ns).2 =
          ns.find? fun n =>
            !fieldCheck ((s.form i).field n) (s.value l n) ||
              (((s.form i).field n).attrs.mandatory && (s.value l n).all fun b => b == 0x20)) ∧
      (∀ older d newer, s.bufferList = older ++ d :: newer → (∀ e ∈ older, e.length.toNat < i.imageSize) →
        i.imageSize ≤ d.length.toNat →
          s.matchSubmission l =
            State.setLine
              { s with
                bufferList := older ++ newer
                busQueue := s.busQueue ++ [⟨.delivery l, d.address, i.imageSize⟩] }
              l (lineWith s l (matched i d))) ∧
      ((∀ e ∈ s.bufferList, e.length.toNat < i.imageSize) →
        s.matchSubmission l =
          State.setLine { s with waiting := s.waiting ++ [l] } l (lineWith s l { i with phase := .awaitBuffer }))) ∧
  (∀ (scale : Nat) (v : List Byte), isAmount scale v = true →
    isAmount scale (canonical scale v) = true ∧ canonical scale (canonical scale v) = canonical scale v ∧
      (amountFraction (canonical scale v)).length = scale ∧
      ((amountWhole (canonical scale v)).head? = some 0x30 → amountWhole (canonical scale v) = [0x30]) ∧
      ∀ sign zeros whole point fraction : List Byte,
        v = sign ++ zeros ++ whole ++ point ++ fraction → (sign = [] ∨ sign = [0x2D]) → (∀ b ∈ zeros, b = 0x30) →
        whole.head? ≠ some 0x30 → (∀ b ∈ whole ++ fraction, 0x30 ≤ b.toNat ∧ b.toNat ≤ 0x39) →
        (point = [] ∧ fraction = [] ∨ point = [0x2E]) →
          canonical scale v =
            (if ∃ b ∈ whole ++ fraction, b ≠ 0x30 then sign else []) ++ (if whole = [] then [0x30] else whole) ++
              (if scale = 0 then [] else 0x2E :: (fraction ++ List.replicate (scale - fraction.length) 0x30))) ∧
  (∀ (f : FieldDef) (v : List Byte),
    (f.type ≠ .amount → exitOutcome f v = (v, fieldCheck f v)) ∧
    (f.type = .amount →
      (v = [] → exitOutcome f v = (v, decide (f.minLength = 0))) ∧
      (v ≠ [] → isAmount f.scale v = false → exitOutcome f v = (v, false)) ∧
      (v ≠ [] → isAmount f.scale v = true →
        exitOutcome f v =
          if f.length < (canonical f.scale v).length then (v, false)
          else (canonical f.scale v, decide (f.minLength ≤ (canonical f.scale v).length))))) ∧
  ∀ (s : State) (l : LineId) (i : Inst) (e : Entry) (q : List Entry), AtHead s l i e q → i.phase = .editing →
    i.fields.length = (s.form i).fields.length → Presses s l e .submit →
      (i.cursorField = none → Submits s l q s i) ∧
      ∀ n, i.cursorField = some n → n < i.fields.length →
        ∃ m, ExitWrites s i n s.valueMemory m (s.value l n) (exitOutcome ((s.form i).field n) (s.value l n)) ∧
          ∀ j, j = exitedInst i n (s.value l n) (exitOutcome ((s.form i).field n) (s.value l n)) →
            ((exitOutcome ((s.form i).field n) (s.value l n)).2 = false →
              Takes s l q 6 0 [] { s with valueMemory := m } (rung (lineWith s l j))) ∧
            ((exitOutcome ((s.form i).field n) (s.value l n)).2 = true →
              Submits s l q { s with valueMemory := m } j)

/-! ## What every step keeps -/

/-- The canonical form of the addressed memories and the capacities of R106, R124, R159 and R182 are kept by every step. -/
def Obligations.MemoryFormAndCapacityKept : Prop :=
  (∀ s t : State, MemoryForm s → step s = .next t → MemoryForm t) ∧
  ∀ s t : State, WithinCapacity s → step s = .next t → WithinCapacity t

/-- R180, R182: until the part is READY every line stays as the reset left it, no command is held, nothing is asked of the bus and
the answer queue stays empty. -/
def Obligations.QuietUntilReady : Prop := ∀ s t : State, Quiet s → step s = .next t → Quiet t

/-- R2, R140, R148, and R10, R22, R47, R51 with them: every step keeps the use counts equal to the instances, the user counts to the
ON lines, and the records of every instance to its form. -/
def Obligations.CountsAndRecordsKept : Prop :=
  (∀ s t : State, CountsExact s → step s = .next t → CountsExact t) ∧
  ∀ s t : State, CountsExact s → RecordsWhole s → step s = .next t → RecordsWhole t

/-- R46, R48, R49: every step keeps value memory divided between the free entries and the extents of the live instances. -/
def Obligations.ValueMemoryStaysDivided : Prop :=
  ∀ s t : State, (∀ k d, (s.slot k).state = .ready d → 0 < d.valueTotal) → Divided s → step s = .next t →
    Divided t ∧ ∀ k d, (t.slot k).state = .ready d → 0 < d.valueTotal

/-- R23: while an instance is in AWAIT_BUFFER, DELIVERING, AWAIT_VERDICT or CLOSING its field values and value lengths do not change:
no row by itself, a grant among them, changes them while the instance stays in one of these phases, whatever the other lines do; and
no step does so in which no key of the line is taken, though a step may hold several such rows (R189). -/
def Obligations.FrozenEntriesKept : Prop :=
  (∀ (s : State) (row : Instr), CountsExact s → RecordsWhole s → Divided s →
    ∀ l i j, (s.line l).inst = some i → ((s.effect row).line l).inst = some j → Frozen i.phase → Frozen j.phase →
      ∀ n, n < i.fields.length →
        (s.effect row).value l n = s.value l n ∧ (j.field n).valueLength = (i.field n).valueLength) ∧
  ∀ s t : State, CountsExact s → RecordsWhole s → Divided s → step s = .next t →
    ∀ l i j, (s.line l).inst = some i → (t.line l).inst = some j → Frozen i.phase → Frozen j.phase →
      (t.line l).typeAhead = (s.line l).typeAhead → (t.line l).releaseDue = (s.line l).releaseDue →
        ∀ n, n < i.fields.length → t.value l n = s.value l n ∧ (j.field n).valueLength = (i.field n).valueLength

/-- The reset state has every one of the invariants that the steps keep. -/
def Obligations.InvariantsAtReset : Prop :=
  MemoryForm State.reset ∧ WithinCapacity State.reset ∧ Quiet State.reset ∧ CountsExact State.reset ∧
    RecordsWhole State.reset ∧ Divided State.reset ∧ Booked State.reset ∧ CursorWithin State.reset
end

