-- ==== Sys2Proof/Laws/Memory.lean ====
section
/-! SUPPORT. The addressed memories: a read after a write, and the canonical form that every operation keeps. -/

namespace Sys2Proof.Machine

/-- A read of the address just written gives the byte written. -/
@[simp] theorem Memory.read_write_self (m : Memory) (x : Nat) (v : Byte) : (m.write x v).read x = some v := by
  induction m with
  | nil => simp [Memory.write, Memory.read]
  | cons c m ih =>
    obtain ⟨a, b⟩ := c
    simp only [Memory.write]
    split
    · simp [Memory.read]
    · split
      · simp [Memory.read]
      · rename_i h
        simp [Memory.read, h, ih]

/-- A write leaves every other address alone. -/
theorem Memory.read_write_of_ne (m : Memory) {x y : Nat} (v : Byte) (h : y ≠ x) : (m.write x v).read y = m.read y := by
  induction m with
  | nil => simp [Memory.write, Memory.read, h]
  | cons c m ih =>
    obtain ⟨a, b⟩ := c
    simp only [Memory.write]
    split
    · simp [Memory.read, h]
    · split
      · rename_i e
        subst e
        simp [Memory.read, h]
      · simp [Memory.read, ih]

/-- A run of writes leaves every address outside it alone. -/
theorem Memory.read_writeBytes_of_outside (bs : List Byte) :
    ∀ (m : Memory) (x y : Nat), (y < x ∨ x + bs.length ≤ y) → (m.writeBytes x bs).read y = m.read y := by
  induction bs with
  | nil => intro m x y _; rfl
  | cons b bs ih =>
    intro m x y h
    simp only [List.length_cons] at h
    rw [Memory.writeBytes, ih _ _ _ (by omega), Memory.read_write_of_ne _ _ (by omega)]

/-- A read inside a run of writes gives the byte written there. -/
theorem Memory.read_writeBytes_inside (bs : List Byte) :
    ∀ (m : Memory) (x k : Nat), k < bs.length → (m.writeBytes x bs).read (x + k) = bs[k]? := by
  induction bs with
  | nil => intro m x k h; simp at h
  | cons b bs ih =>
    intro m x k h
    cases k with
    | zero =>
      rw [Memory.writeBytes, Memory.read_writeBytes_of_outside _ _ _ _ (by omega)]
      simp
    | succ k =>
      have e : x + (k + 1) = (x + 1) + k := by omega
      rw [Memory.writeBytes, e, ih _ _ _ (by simpa using h)]
      simp

/-- The bytes read back from a run just written are the bytes written. -/
theorem Memory.readBytes_writeBytes (bs : List Byte) :
    ∀ (m : Memory) (x : Nat), (m.writeBytes x bs).readBytes x bs.length = bs := by
  have key : ∀ (n : Nat) (m : Memory) (x : Nat) (cs : List Byte), cs.length = n →
      (∀ k, k < n → m.read (x + k) = cs[k]?) → m.readBytes x n = cs := by
    intro n
    induction n with
    | zero =>
      intro m x cs h _
      simp [Memory.readBytes, List.length_eq_zero_iff.mp h]
    | succ n ih =>
      intro m x cs h hk
      cases cs with
      | nil => simp at h
      | cons c cs =>
        have h0 := hk 0 (by omega)
        simp only [Nat.add_zero, List.getElem?_cons_zero] at h0
        rw [Memory.readBytes, ih m (x + 1) cs (by simpa using h)]
        · simp [Memory.byteAt, h0]
        · intro k hlt
          have := hk (k + 1) (by omega)
          have e : x + (k + 1) = x + 1 + k := by omega
          simpa [e] using this
  intro m x
  exact key _ _ _ _ rfl (fun k h => Memory.read_writeBytes_inside bs m x k h)

/-- Two memories that agree on a run of addresses give the same bytes there. -/
theorem Memory.readBytes_congr (n : Nat) :
    ∀ (m m' : Memory) (x : Nat), (∀ k, k < n → m.read (x + k) = m'.read (x + k)) → m.readBytes x n = m'.readBytes x n := by
  induction n with
  | zero => intro m m' x _; rfl
  | succ n ih =>
    intro m m' x h
    have h0 := h 0 (by omega)
    simp only [Nat.add_zero] at h0
    rw [Memory.readBytes, Memory.readBytes, ih m m' (x + 1) (fun k hk => by
      have := h (k + 1) (by omega)
      rwa [show x + (k + 1) = x + 1 + k by omega] at this)]
    simp [Memory.byteAt, h0]

@[simp] theorem Memory.readBytes_length (n : Nat) : ∀ (m : Memory) (x : Nat), (m.readBytes x n).length = n := by
  induction n with
  | zero => intro m x; rfl
  | succ n ih => intro m x; simp [Memory.readBytes, ih]

/-- The first address of a memory that a write has touched is the lower of the two. -/
theorem Memory.wf_cons_iff (c : Host.Cell) (m : Memory) :
    Memory.wf (c :: m) = true ↔ (∀ d ∈ m.head?, c.1 < d.1) ∧ Memory.wf m = true := by
  cases m with
  | nil => simp [Memory.wf]
  | cons d m => simp [Memory.wf]

theorem Memory.head_write (m : Memory) (x : Nat) (v : Byte) :
    ∀ d ∈ (m.write x v).head?, d.1 = x ∨ ∃ e ∈ m.head?, d.1 = e.1 := by
  cases m with
  | nil => simp [Memory.write]
  | cons c m =>
    obtain ⟨a, b⟩ := c
    simp only [Memory.write]
    split
    · simp
    · split <;> simp

/-- A write keeps the canonical form. -/
theorem Memory.wf_write (m : Memory) (x : Nat) (v : Byte) (h : m.wf = true) : (m.write x v).wf = true := by
  induction m with
  | nil => rfl
  | cons c m ih =>
    obtain ⟨a, b⟩ := c
    have hc := (Memory.wf_cons_iff _ _).mp h
    simp only [Memory.write]
    split
    · rename_i hlt
      exact (Memory.wf_cons_iff _ _).mpr ⟨by simpa using hlt, h⟩
    · split
      · rename_i e
        subst e
        exact (Memory.wf_cons_iff _ _).mpr hc
      · rename_i hge hne
        refine (Memory.wf_cons_iff _ _).mpr ⟨?_, ih hc.2⟩
        intro d hd
        rcases Memory.head_write m x v d hd with h1 | ⟨e, he, h1⟩
        · rw [h1]; show a < x; omega
        · rw [h1]; exact hc.1 e he

/-- A run of writes keeps the canonical form. -/
theorem Memory.wf_writeBytes (bs : List Byte) :
    ∀ (m : Memory) (x : Nat), m.wf = true → (m.writeBytes x bs).wf = true := by
  induction bs with
  | nil => intro m x h; exact h
  | cons b bs ih => intro m x h; exact ih _ _ (Memory.wf_write m x b h)

/-- After a reset no memory lists anything, so each has the canonical form. -/
theorem Memory.wf_reset :
    State.reset.valueMemory.wf = true ∧ State.reset.transferBuffer.wf = true ∧ State.reset.hostMemory.wf = true :=
  ⟨rfl, rfl, rfl⟩

end Sys2Proof.Machine
end

