-- ==== Sys2Proof/Laws/State.lean ====
section
/-! SUPPORT. The small lemmas of the state's updates: what each update leaves of each field, and what reading a line, a slot
or a profile gives after an update. -/

namespace Sys2Proof.Machine

/-! ### setLine -/

@[simp] theorem State.setLine_partState (s : State) (l : LineId) (x : Line) : (s.setLine l x).partState = s.partState := rfl
@[simp] theorem State.setLine_resetCause (s : State) (l : LineId) (x : Line) : (s.setLine l x).resetCause = s.resetCause := rfl
@[simp] theorem State.setLine_faultCode (s : State) (l : LineId) (x : Line) : (s.setLine l x).faultCode = s.faultCode := rfl
@[simp] theorem State.setLine_stateChange (s : State) (l : LineId) (x : Line) : (s.setLine l x).stateChange = s.stateChange := rfl
@[simp] theorem State.setLine_overflow (s : State) (l : LineId) (x : Line) : (s.setLine l x).overflow = s.overflow := rfl
@[simp] theorem State.setLine_answerEnable (s : State) (l : LineId) (x : Line) : (s.setLine l x).answerEnable = s.answerEnable := rfl
@[simp] theorem State.setLine_stateChangeEnable (s : State) (l : LineId) (x : Line) : (s.setLine l x).stateChangeEnable = s.stateChangeEnable := rfl
@[simp] theorem State.setLine_overflowEnable (s : State) (l : LineId) (x : Line) : (s.setLine l x).overflowEnable = s.overflowEnable := rfl
@[simp] theorem State.setLine_commandQueue (s : State) (l : LineId) (x : Line) : (s.setLine l x).commandQueue = s.commandQueue := rfl
@[simp] theorem State.setLine_assembler (s : State) (l : LineId) (x : Line) : (s.setLine l x).assembler = s.assembler := rfl
@[simp] theorem State.setLine_answerQueue (s : State) (l : LineId) (x : Line) : (s.setLine l x).answerQueue = s.answerQueue := rfl
@[simp] theorem State.setLine_reserved (s : State) (l : LineId) (x : Line) : (s.setLine l x).reserved = s.reserved := rfl
@[simp] theorem State.setLine_pointer (s : State) (l : LineId) (x : Line) : (s.setLine l x).pointer = s.pointer := rfl
@[simp] theorem State.setLine_dataOut (s : State) (l : LineId) (x : Line) : (s.setLine l x).dataOut = s.dataOut := rfl
@[simp] theorem State.setLine_slots (s : State) (l : LineId) (x : Line) : (s.setLine l x).slots = s.slots := rfl
@[simp] theorem State.setLine_profiles (s : State) (l : LineId) (x : Line) : (s.setLine l x).profiles = s.profiles := rfl
@[simp] theorem State.setLine_nextSerial (s : State) (l : LineId) (x : Line) : (s.setLine l x).nextSerial = s.nextSerial := rfl
@[simp] theorem State.setLine_valueMemory (s : State) (l : LineId) (x : Line) : (s.setLine l x).valueMemory = s.valueMemory := rfl
@[simp] theorem State.setLine_freeList (s : State) (l : LineId) (x : Line) : (s.setLine l x).freeList = s.freeList := rfl
@[simp] theorem State.setLine_bufferList (s : State) (l : LineId) (x : Line) : (s.setLine l x).bufferList = s.bufferList := rfl
@[simp] theorem State.setLine_waiting (s : State) (l : LineId) (x : Line) : (s.setLine l x).waiting = s.waiting := rfl
@[simp] theorem State.setLine_busQueue (s : State) (l : LineId) (x : Line) : (s.setLine l x).busQueue = s.busQueue := rfl
@[simp] theorem State.setLine_transfer (s : State) (l : LineId) (x : Line) : (s.setLine l x).transfer = s.transfer := rfl
@[simp] theorem State.setLine_transferBuffer (s : State) (l : LineId) (x : Line) : (s.setLine l x).transferBuffer = s.transferBuffer := rfl
@[simp] theorem State.setLine_hostMemory (s : State) (l : LineId) (x : Line) : (s.setLine l x).hostMemory = s.hostMemory := rfl
@[simp] theorem State.setLine_pending (s : State) (l : LineId) (x : Line) : (s.setLine l x).pending = s.pending := rfl

/-! ### modLine -/

@[simp] theorem State.modLine_partState (s : State) (l : LineId) (f : Line → Line) : (s.modLine l f).partState = s.partState := rfl
@[simp] theorem State.modLine_resetCause (s : State) (l : LineId) (f : Line → Line) : (s.modLine l f).resetCause = s.resetCause := rfl
@[simp] theorem State.modLine_faultCode (s : State) (l : LineId) (f : Line → Line) : (s.modLine l f).faultCode = s.faultCode := rfl
@[simp] theorem State.modLine_stateChange (s : State) (l : LineId) (f : Line → Line) : (s.modLine l f).stateChange = s.stateChange := rfl
@[simp] theorem State.modLine_overflow (s : State) (l : LineId) (f : Line → Line) : (s.modLine l f).overflow = s.overflow := rfl
@[simp] theorem State.modLine_answerEnable (s : State) (l : LineId) (f : Line → Line) : (s.modLine l f).answerEnable = s.answerEnable := rfl
@[simp] theorem State.modLine_stateChangeEnable (s : State) (l : LineId) (f : Line → Line) : (s.modLine l f).stateChangeEnable = s.stateChangeEnable := rfl
@[simp] theorem State.modLine_overflowEnable (s : State) (l : LineId) (f : Line → Line) : (s.modLine l f).overflowEnable = s.overflowEnable := rfl
@[simp] theorem State.modLine_commandQueue (s : State) (l : LineId) (f : Line → Line) : (s.modLine l f).commandQueue = s.commandQueue := rfl
@[simp] theorem State.modLine_assembler (s : State) (l : LineId) (f : Line → Line) : (s.modLine l f).assembler = s.assembler := rfl
@[simp] theorem State.modLine_answerQueue (s : State) (l : LineId) (f : Line → Line) : (s.modLine l f).answerQueue = s.answerQueue := rfl
@[simp] theorem State.modLine_reserved (s : State) (l : LineId) (f : Line → Line) : (s.modLine l f).reserved = s.reserved := rfl
@[simp] theorem State.modLine_pointer (s : State) (l : LineId) (f : Line → Line) : (s.modLine l f).pointer = s.pointer := rfl
@[simp] theorem State.modLine_dataOut (s : State) (l : LineId) (f : Line → Line) : (s.modLine l f).dataOut = s.dataOut := rfl
@[simp] theorem State.modLine_slots (s : State) (l : LineId) (f : Line → Line) : (s.modLine l f).slots = s.slots := rfl
@[simp] theorem State.modLine_profiles (s : State) (l : LineId) (f : Line → Line) : (s.modLine l f).profiles = s.profiles := rfl
@[simp] theorem State.modLine_nextSerial (s : State) (l : LineId) (f : Line → Line) : (s.modLine l f).nextSerial = s.nextSerial := rfl
@[simp] theorem State.modLine_valueMemory (s : State) (l : LineId) (f : Line → Line) : (s.modLine l f).valueMemory = s.valueMemory := rfl
@[simp] theorem State.modLine_freeList (s : State) (l : LineId) (f : Line → Line) : (s.modLine l f).freeList = s.freeList := rfl
@[simp] theorem State.modLine_bufferList (s : State) (l : LineId) (f : Line → Line) : (s.modLine l f).bufferList = s.bufferList := rfl
@[simp] theorem State.modLine_waiting (s : State) (l : LineId) (f : Line → Line) : (s.modLine l f).waiting = s.waiting := rfl
@[simp] theorem State.modLine_busQueue (s : State) (l : LineId) (f : Line → Line) : (s.modLine l f).busQueue = s.busQueue := rfl
@[simp] theorem State.modLine_transfer (s : State) (l : LineId) (f : Line → Line) : (s.modLine l f).transfer = s.transfer := rfl
@[simp] theorem State.modLine_transferBuffer (s : State) (l : LineId) (f : Line → Line) : (s.modLine l f).transferBuffer = s.transferBuffer := rfl
@[simp] theorem State.modLine_hostMemory (s : State) (l : LineId) (f : Line → Line) : (s.modLine l f).hostMemory = s.hostMemory := rfl
@[simp] theorem State.modLine_pending (s : State) (l : LineId) (f : Line → Line) : (s.modLine l f).pending = s.pending := rfl

/-! ### setSlot -/

@[simp] theorem State.setSlot_partState (s : State) (k : SlotId) (x : Slot) : (s.setSlot k x).partState = s.partState := rfl
@[simp] theorem State.setSlot_resetCause (s : State) (k : SlotId) (x : Slot) : (s.setSlot k x).resetCause = s.resetCause := rfl
@[simp] theorem State.setSlot_faultCode (s : State) (k : SlotId) (x : Slot) : (s.setSlot k x).faultCode = s.faultCode := rfl
@[simp] theorem State.setSlot_stateChange (s : State) (k : SlotId) (x : Slot) : (s.setSlot k x).stateChange = s.stateChange := rfl
@[simp] theorem State.setSlot_overflow (s : State) (k : SlotId) (x : Slot) : (s.setSlot k x).overflow = s.overflow := rfl
@[simp] theorem State.setSlot_answerEnable (s : State) (k : SlotId) (x : Slot) : (s.setSlot k x).answerEnable = s.answerEnable := rfl
@[simp] theorem State.setSlot_stateChangeEnable (s : State) (k : SlotId) (x : Slot) : (s.setSlot k x).stateChangeEnable = s.stateChangeEnable := rfl
@[simp] theorem State.setSlot_overflowEnable (s : State) (k : SlotId) (x : Slot) : (s.setSlot k x).overflowEnable = s.overflowEnable := rfl
@[simp] theorem State.setSlot_commandQueue (s : State) (k : SlotId) (x : Slot) : (s.setSlot k x).commandQueue = s.commandQueue := rfl
@[simp] theorem State.setSlot_assembler (s : State) (k : SlotId) (x : Slot) : (s.setSlot k x).assembler = s.assembler := rfl
@[simp] theorem State.setSlot_answerQueue (s : State) (k : SlotId) (x : Slot) : (s.setSlot k x).answerQueue = s.answerQueue := rfl
@[simp] theorem State.setSlot_reserved (s : State) (k : SlotId) (x : Slot) : (s.setSlot k x).reserved = s.reserved := rfl
@[simp] theorem State.setSlot_pointer (s : State) (k : SlotId) (x : Slot) : (s.setSlot k x).pointer = s.pointer := rfl
@[simp] theorem State.setSlot_dataOut (s : State) (k : SlotId) (x : Slot) : (s.setSlot k x).dataOut = s.dataOut := rfl
@[simp] theorem State.setSlot_profiles (s : State) (k : SlotId) (x : Slot) : (s.setSlot k x).profiles = s.profiles := rfl
@[simp] theorem State.setSlot_lines (s : State) (k : SlotId) (x : Slot) : (s.setSlot k x).lines = s.lines := rfl
@[simp] theorem State.setSlot_nextSerial (s : State) (k : SlotId) (x : Slot) : (s.setSlot k x).nextSerial = s.nextSerial := rfl
@[simp] theorem State.setSlot_valueMemory (s : State) (k : SlotId) (x : Slot) : (s.setSlot k x).valueMemory = s.valueMemory := rfl
@[simp] theorem State.setSlot_freeList (s : State) (k : SlotId) (x : Slot) : (s.setSlot k x).freeList = s.freeList := rfl
@[simp] theorem State.setSlot_bufferList (s : State) (k : SlotId) (x : Slot) : (s.setSlot k x).bufferList = s.bufferList := rfl
@[simp] theorem State.setSlot_waiting (s : State) (k : SlotId) (x : Slot) : (s.setSlot k x).waiting = s.waiting := rfl
@[simp] theorem State.setSlot_busQueue (s : State) (k : SlotId) (x : Slot) : (s.setSlot k x).busQueue = s.busQueue := rfl
@[simp] theorem State.setSlot_transfer (s : State) (k : SlotId) (x : Slot) : (s.setSlot k x).transfer = s.transfer := rfl
@[simp] theorem State.setSlot_transferBuffer (s : State) (k : SlotId) (x : Slot) : (s.setSlot k x).transferBuffer = s.transferBuffer := rfl
@[simp] theorem State.setSlot_hostMemory (s : State) (k : SlotId) (x : Slot) : (s.setSlot k x).hostMemory = s.hostMemory := rfl
@[simp] theorem State.setSlot_pending (s : State) (k : SlotId) (x : Slot) : (s.setSlot k x).pending = s.pending := rfl

/-! ### setProfile -/

@[simp] theorem State.setProfile_partState (s : State) (p : ProfileId) (x : ProfileSlot) : (s.setProfile p x).partState = s.partState := rfl
@[simp] theorem State.setProfile_resetCause (s : State) (p : ProfileId) (x : ProfileSlot) : (s.setProfile p x).resetCause = s.resetCause := rfl
@[simp] theorem State.setProfile_faultCode (s : State) (p : ProfileId) (x : ProfileSlot) : (s.setProfile p x).faultCode = s.faultCode := rfl
@[simp] theorem State.setProfile_stateChange (s : State) (p : ProfileId) (x : ProfileSlot) : (s.setProfile p x).stateChange = s.stateChange := rfl
@[simp] theorem State.setProfile_overflow (s : State) (p : ProfileId) (x : ProfileSlot) : (s.setProfile p x).overflow = s.overflow := rfl
@[simp] theorem State.setProfile_answerEnable (s : State) (p : ProfileId) (x : ProfileSlot) : (s.setProfile p x).answerEnable = s.answerEnable := rfl
@[simp] theorem State.setProfile_stateChangeEnable (s : State) (p : ProfileId) (x : ProfileSlot) : (s.setProfile p x).stateChangeEnable = s.stateChangeEnable := rfl
@[simp] theorem State.setProfile_overflowEnable (s : State) (p : ProfileId) (x : ProfileSlot) : (s.setProfile p x).overflowEnable = s.overflowEnable := rfl
@[simp] theorem State.setProfile_commandQueue (s : State) (p : ProfileId) (x : ProfileSlot) : (s.setProfile p x).commandQueue = s.commandQueue := rfl
@[simp] theorem State.setProfile_assembler (s : State) (p : ProfileId) (x : ProfileSlot) : (s.setProfile p x).assembler = s.assembler := rfl
@[simp] theorem State.setProfile_answerQueue (s : State) (p : ProfileId) (x : ProfileSlot) : (s.setProfile p x).answerQueue = s.answerQueue := rfl
@[simp] theorem State.setProfile_reserved (s : State) (p : ProfileId) (x : ProfileSlot) : (s.setProfile p x).reserved = s.reserved := rfl
@[simp] theorem State.setProfile_pointer (s : State) (p : ProfileId) (x : ProfileSlot) : (s.setProfile p x).pointer = s.pointer := rfl
@[simp] theorem State.setProfile_dataOut (s : State) (p : ProfileId) (x : ProfileSlot) : (s.setProfile p x).dataOut = s.dataOut := rfl
@[simp] theorem State.setProfile_slots (s : State) (p : ProfileId) (x : ProfileSlot) : (s.setProfile p x).slots = s.slots := rfl
@[simp] theorem State.setProfile_lines (s : State) (p : ProfileId) (x : ProfileSlot) : (s.setProfile p x).lines = s.lines := rfl
@[simp] theorem State.setProfile_nextSerial (s : State) (p : ProfileId) (x : ProfileSlot) : (s.setProfile p x).nextSerial = s.nextSerial := rfl
@[simp] theorem State.setProfile_valueMemory (s : State) (p : ProfileId) (x : ProfileSlot) : (s.setProfile p x).valueMemory = s.valueMemory := rfl
@[simp] theorem State.setProfile_freeList (s : State) (p : ProfileId) (x : ProfileSlot) : (s.setProfile p x).freeList = s.freeList := rfl
@[simp] theorem State.setProfile_bufferList (s : State) (p : ProfileId) (x : ProfileSlot) : (s.setProfile p x).bufferList = s.bufferList := rfl
@[simp] theorem State.setProfile_waiting (s : State) (p : ProfileId) (x : ProfileSlot) : (s.setProfile p x).waiting = s.waiting := rfl
@[simp] theorem State.setProfile_busQueue (s : State) (p : ProfileId) (x : ProfileSlot) : (s.setProfile p x).busQueue = s.busQueue := rfl
@[simp] theorem State.setProfile_transfer (s : State) (p : ProfileId) (x : ProfileSlot) : (s.setProfile p x).transfer = s.transfer := rfl
@[simp] theorem State.setProfile_transferBuffer (s : State) (p : ProfileId) (x : ProfileSlot) : (s.setProfile p x).transferBuffer = s.transferBuffer := rfl
@[simp] theorem State.setProfile_hostMemory (s : State) (p : ProfileId) (x : ProfileSlot) : (s.setProfile p x).hostMemory = s.hostMemory := rfl
@[simp] theorem State.setProfile_pending (s : State) (p : ProfileId) (x : ProfileSlot) : (s.setProfile p x).pending = s.pending := rfl

/-! ### post -/

@[simp] theorem State.post_partState (s : State) (n : Nat) (r : List Word) : (s.post n r).partState = s.partState := rfl
@[simp] theorem State.post_resetCause (s : State) (n : Nat) (r : List Word) : (s.post n r).resetCause = s.resetCause := rfl
@[simp] theorem State.post_faultCode (s : State) (n : Nat) (r : List Word) : (s.post n r).faultCode = s.faultCode := rfl
@[simp] theorem State.post_stateChange (s : State) (n : Nat) (r : List Word) : (s.post n r).stateChange = s.stateChange := rfl
@[simp] theorem State.post_overflow (s : State) (n : Nat) (r : List Word) : (s.post n r).overflow = s.overflow := rfl
@[simp] theorem State.post_answerEnable (s : State) (n : Nat) (r : List Word) : (s.post n r).answerEnable = s.answerEnable := rfl
@[simp] theorem State.post_stateChangeEnable (s : State) (n : Nat) (r : List Word) : (s.post n r).stateChangeEnable = s.stateChangeEnable := rfl
@[simp] theorem State.post_overflowEnable (s : State) (n : Nat) (r : List Word) : (s.post n r).overflowEnable = s.overflowEnable := rfl
@[simp] theorem State.post_commandQueue (s : State) (n : Nat) (r : List Word) : (s.post n r).commandQueue = s.commandQueue := rfl
@[simp] theorem State.post_assembler (s : State) (n : Nat) (r : List Word) : (s.post n r).assembler = s.assembler := rfl
@[simp] theorem State.post_pointer (s : State) (n : Nat) (r : List Word) : (s.post n r).pointer = s.pointer := rfl
@[simp] theorem State.post_dataOut (s : State) (n : Nat) (r : List Word) : (s.post n r).dataOut = s.dataOut := rfl
@[simp] theorem State.post_slots (s : State) (n : Nat) (r : List Word) : (s.post n r).slots = s.slots := rfl
@[simp] theorem State.post_profiles (s : State) (n : Nat) (r : List Word) : (s.post n r).profiles = s.profiles := rfl
@[simp] theorem State.post_lines (s : State) (n : Nat) (r : List Word) : (s.post n r).lines = s.lines := rfl
@[simp] theorem State.post_nextSerial (s : State) (n : Nat) (r : List Word) : (s.post n r).nextSerial = s.nextSerial := rfl
@[simp] theorem State.post_valueMemory (s : State) (n : Nat) (r : List Word) : (s.post n r).valueMemory = s.valueMemory := rfl
@[simp] theorem State.post_freeList (s : State) (n : Nat) (r : List Word) : (s.post n r).freeList = s.freeList := rfl
@[simp] theorem State.post_bufferList (s : State) (n : Nat) (r : List Word) : (s.post n r).bufferList = s.bufferList := rfl
@[simp] theorem State.post_waiting (s : State) (n : Nat) (r : List Word) : (s.post n r).waiting = s.waiting := rfl
@[simp] theorem State.post_busQueue (s : State) (n : Nat) (r : List Word) : (s.post n r).busQueue = s.busQueue := rfl
@[simp] theorem State.post_transfer (s : State) (n : Nat) (r : List Word) : (s.post n r).transfer = s.transfer := rfl
@[simp] theorem State.post_transferBuffer (s : State) (n : Nat) (r : List Word) : (s.post n r).transferBuffer = s.transferBuffer := rfl
@[simp] theorem State.post_hostMemory (s : State) (n : Nat) (r : List Word) : (s.post n r).hostMemory = s.hostMemory := rfl
@[simp] theorem State.post_pending (s : State) (n : Nat) (r : List Word) : (s.post n r).pending = s.pending := rfl

/-! ### release -/

@[simp] theorem State.release_partState (s : State) (n : Nat) : (s.release n).partState = s.partState := rfl
@[simp] theorem State.release_resetCause (s : State) (n : Nat) : (s.release n).resetCause = s.resetCause := rfl
@[simp] theorem State.release_faultCode (s : State) (n : Nat) : (s.release n).faultCode = s.faultCode := rfl
@[simp] theorem State.release_stateChange (s : State) (n : Nat) : (s.release n).stateChange = s.stateChange := rfl
@[simp] theorem State.release_overflow (s : State) (n : Nat) : (s.release n).overflow = s.overflow := rfl
@[simp] theorem State.release_answerEnable (s : State) (n : Nat) : (s.release n).answerEnable = s.answerEnable := rfl
@[simp] theorem State.release_stateChangeEnable (s : State) (n : Nat) : (s.release n).stateChangeEnable = s.stateChangeEnable := rfl
@[simp] theorem State.release_overflowEnable (s : State) (n : Nat) : (s.release n).overflowEnable = s.overflowEnable := rfl
@[simp] theorem State.release_commandQueue (s : State) (n : Nat) : (s.release n).commandQueue = s.commandQueue := rfl
@[simp] theorem State.release_assembler (s : State) (n : Nat) : (s.release n).assembler = s.assembler := rfl
@[simp] theorem State.release_answerQueue (s : State) (n : Nat) : (s.release n).answerQueue = s.answerQueue := rfl
@[simp] theorem State.release_pointer (s : State) (n : Nat) : (s.release n).pointer = s.pointer := rfl
@[simp] theorem State.release_dataOut (s : State) (n : Nat) : (s.release n).dataOut = s.dataOut := rfl
@[simp] theorem State.release_slots (s : State) (n : Nat) : (s.release n).slots = s.slots := rfl
@[simp] theorem State.release_profiles (s : State) (n : Nat) : (s.release n).profiles = s.profiles := rfl
@[simp] theorem State.release_lines (s : State) (n : Nat) : (s.release n).lines = s.lines := rfl
@[simp] theorem State.release_nextSerial (s : State) (n : Nat) : (s.release n).nextSerial = s.nextSerial := rfl
@[simp] theorem State.release_valueMemory (s : State) (n : Nat) : (s.release n).valueMemory = s.valueMemory := rfl
@[simp] theorem State.release_freeList (s : State) (n : Nat) : (s.release n).freeList = s.freeList := rfl
@[simp] theorem State.release_bufferList (s : State) (n : Nat) : (s.release n).bufferList = s.bufferList := rfl
@[simp] theorem State.release_waiting (s : State) (n : Nat) : (s.release n).waiting = s.waiting := rfl
@[simp] theorem State.release_busQueue (s : State) (n : Nat) : (s.release n).busQueue = s.busQueue := rfl
@[simp] theorem State.release_transfer (s : State) (n : Nat) : (s.release n).transfer = s.transfer := rfl
@[simp] theorem State.release_transferBuffer (s : State) (n : Nat) : (s.release n).transferBuffer = s.transferBuffer := rfl
@[simp] theorem State.release_hostMemory (s : State) (n : Nat) : (s.release n).hostMemory = s.hostMemory := rfl
@[simp] theorem State.release_pending (s : State) (n : Nat) : (s.release n).pending = s.pending := rfl

/-! ### grant -/

@[simp] theorem State.grant_partState (s : State) (c : Claimant) (n : Nat) : (s.grant c n).partState = s.partState := rfl
@[simp] theorem State.grant_resetCause (s : State) (c : Claimant) (n : Nat) : (s.grant c n).resetCause = s.resetCause := rfl
@[simp] theorem State.grant_faultCode (s : State) (c : Claimant) (n : Nat) : (s.grant c n).faultCode = s.faultCode := rfl
@[simp] theorem State.grant_stateChange (s : State) (c : Claimant) (n : Nat) : (s.grant c n).stateChange = s.stateChange := rfl
@[simp] theorem State.grant_overflow (s : State) (c : Claimant) (n : Nat) : (s.grant c n).overflow = s.overflow := rfl
@[simp] theorem State.grant_answerEnable (s : State) (c : Claimant) (n : Nat) : (s.grant c n).answerEnable = s.answerEnable := rfl
@[simp] theorem State.grant_stateChangeEnable (s : State) (c : Claimant) (n : Nat) : (s.grant c n).stateChangeEnable = s.stateChangeEnable := rfl
@[simp] theorem State.grant_overflowEnable (s : State) (c : Claimant) (n : Nat) : (s.grant c n).overflowEnable = s.overflowEnable := rfl
@[simp] theorem State.grant_commandQueue (s : State) (c : Claimant) (n : Nat) : (s.grant c n).commandQueue = s.commandQueue := rfl
@[simp] theorem State.grant_assembler (s : State) (c : Claimant) (n : Nat) : (s.grant c n).assembler = s.assembler := rfl
@[simp] theorem State.grant_answerQueue (s : State) (c : Claimant) (n : Nat) : (s.grant c n).answerQueue = s.answerQueue := rfl
@[simp] theorem State.grant_dataOut (s : State) (c : Claimant) (n : Nat) : (s.grant c n).dataOut = s.dataOut := rfl
@[simp] theorem State.grant_slots (s : State) (c : Claimant) (n : Nat) : (s.grant c n).slots = s.slots := rfl
@[simp] theorem State.grant_profiles (s : State) (c : Claimant) (n : Nat) : (s.grant c n).profiles = s.profiles := rfl
@[simp] theorem State.grant_lines (s : State) (c : Claimant) (n : Nat) : (s.grant c n).lines = s.lines := rfl
@[simp] theorem State.grant_nextSerial (s : State) (c : Claimant) (n : Nat) : (s.grant c n).nextSerial = s.nextSerial := rfl
@[simp] theorem State.grant_valueMemory (s : State) (c : Claimant) (n : Nat) : (s.grant c n).valueMemory = s.valueMemory := rfl
@[simp] theorem State.grant_freeList (s : State) (c : Claimant) (n : Nat) : (s.grant c n).freeList = s.freeList := rfl
@[simp] theorem State.grant_bufferList (s : State) (c : Claimant) (n : Nat) : (s.grant c n).bufferList = s.bufferList := rfl
@[simp] theorem State.grant_waiting (s : State) (c : Claimant) (n : Nat) : (s.grant c n).waiting = s.waiting := rfl
@[simp] theorem State.grant_busQueue (s : State) (c : Claimant) (n : Nat) : (s.grant c n).busQueue = s.busQueue := rfl
@[simp] theorem State.grant_transfer (s : State) (c : Claimant) (n : Nat) : (s.grant c n).transfer = s.transfer := rfl
@[simp] theorem State.grant_transferBuffer (s : State) (c : Claimant) (n : Nat) : (s.grant c n).transferBuffer = s.transferBuffer := rfl
@[simp] theorem State.grant_hostMemory (s : State) (c : Claimant) (n : Nat) : (s.grant c n).hostMemory = s.hostMemory := rfl
@[simp] theorem State.grant_pending (s : State) (c : Claimant) (n : Nat) : (s.grant c n).pending = s.pending := rfl

/-! ### reply -/

@[simp] theorem State.reply_partState (s : State) (c : Command) (st : Status) (d : List Word) : (s.reply c st d).partState = s.partState := rfl
@[simp] theorem State.reply_resetCause (s : State) (c : Command) (st : Status) (d : List Word) : (s.reply c st d).resetCause = s.resetCause := rfl
@[simp] theorem State.reply_faultCode (s : State) (c : Command) (st : Status) (d : List Word) : (s.reply c st d).faultCode = s.faultCode := rfl
@[simp] theorem State.reply_stateChange (s : State) (c : Command) (st : Status) (d : List Word) : (s.reply c st d).stateChange = s.stateChange := rfl
@[simp] theorem State.reply_overflow (s : State) (c : Command) (st : Status) (d : List Word) : (s.reply c st d).overflow = s.overflow := rfl
@[simp] theorem State.reply_answerEnable (s : State) (c : Command) (st : Status) (d : List Word) : (s.reply c st d).answerEnable = s.answerEnable := rfl
@[simp] theorem State.reply_stateChangeEnable (s : State) (c : Command) (st : Status) (d : List Word) : (s.reply c st d).stateChangeEnable = s.stateChangeEnable := rfl
@[simp] theorem State.reply_overflowEnable (s : State) (c : Command) (st : Status) (d : List Word) : (s.reply c st d).overflowEnable = s.overflowEnable := rfl
@[simp] theorem State.reply_commandQueue (s : State) (c : Command) (st : Status) (d : List Word) : (s.reply c st d).commandQueue = s.commandQueue := rfl
@[simp] theorem State.reply_assembler (s : State) (c : Command) (st : Status) (d : List Word) : (s.reply c st d).assembler = s.assembler := rfl
@[simp] theorem State.reply_pointer (s : State) (c : Command) (st : Status) (d : List Word) : (s.reply c st d).pointer = s.pointer := rfl
@[simp] theorem State.reply_dataOut (s : State) (c : Command) (st : Status) (d : List Word) : (s.reply c st d).dataOut = s.dataOut := rfl
@[simp] theorem State.reply_slots (s : State) (c : Command) (st : Status) (d : List Word) : (s.reply c st d).slots = s.slots := rfl
@[simp] theorem State.reply_profiles (s : State) (c : Command) (st : Status) (d : List Word) : (s.reply c st d).profiles = s.profiles := rfl
@[simp] theorem State.reply_lines (s : State) (c : Command) (st : Status) (d : List Word) : (s.reply c st d).lines = s.lines := rfl
@[simp] theorem State.reply_nextSerial (s : State) (c : Command) (st : Status) (d : List Word) : (s.reply c st d).nextSerial = s.nextSerial := rfl
@[simp] theorem State.reply_valueMemory (s : State) (c : Command) (st : Status) (d : List Word) : (s.reply c st d).valueMemory = s.valueMemory := rfl
@[simp] theorem State.reply_freeList (s : State) (c : Command) (st : Status) (d : List Word) : (s.reply c st d).freeList = s.freeList := rfl
@[simp] theorem State.reply_bufferList (s : State) (c : Command) (st : Status) (d : List Word) : (s.reply c st d).bufferList = s.bufferList := rfl
@[simp] theorem State.reply_waiting (s : State) (c : Command) (st : Status) (d : List Word) : (s.reply c st d).waiting = s.waiting := rfl
@[simp] theorem State.reply_busQueue (s : State) (c : Command) (st : Status) (d : List Word) : (s.reply c st d).busQueue = s.busQueue := rfl
@[simp] theorem State.reply_transfer (s : State) (c : Command) (st : Status) (d : List Word) : (s.reply c st d).transfer = s.transfer := rfl
@[simp] theorem State.reply_transferBuffer (s : State) (c : Command) (st : Status) (d : List Word) : (s.reply c st d).transferBuffer = s.transferBuffer := rfl
@[simp] theorem State.reply_hostMemory (s : State) (c : Command) (st : Status) (d : List Word) : (s.reply c st d).hostMemory = s.hostMemory := rfl
@[simp] theorem State.reply_pending (s : State) (c : Command) (st : Status) (d : List Word) : (s.reply c st d).pending = s.pending := rfl

/-! ### placeRequest -/

@[simp] theorem State.placeRequest_partState (s : State) (r : Request) : (s.placeRequest r).partState = s.partState := rfl
@[simp] theorem State.placeRequest_resetCause (s : State) (r : Request) : (s.placeRequest r).resetCause = s.resetCause := rfl
@[simp] theorem State.placeRequest_faultCode (s : State) (r : Request) : (s.placeRequest r).faultCode = s.faultCode := rfl
@[simp] theorem State.placeRequest_stateChange (s : State) (r : Request) : (s.placeRequest r).stateChange = s.stateChange := rfl
@[simp] theorem State.placeRequest_overflow (s : State) (r : Request) : (s.placeRequest r).overflow = s.overflow := rfl
@[simp] theorem State.placeRequest_answerEnable (s : State) (r : Request) : (s.placeRequest r).answerEnable = s.answerEnable := rfl
@[simp] theorem State.placeRequest_stateChangeEnable (s : State) (r : Request) : (s.placeRequest r).stateChangeEnable = s.stateChangeEnable := rfl
@[simp] theorem State.placeRequest_overflowEnable (s : State) (r : Request) : (s.placeRequest r).overflowEnable = s.overflowEnable := rfl
@[simp] theorem State.placeRequest_commandQueue (s : State) (r : Request) : (s.placeRequest r).commandQueue = s.commandQueue := rfl
@[simp] theorem State.placeRequest_assembler (s : State) (r : Request) : (s.placeRequest r).assembler = s.assembler := rfl
@[simp] theorem State.placeRequest_answerQueue (s : State) (r : Request) : (s.placeRequest r).answerQueue = s.answerQueue := rfl
@[simp] theorem State.placeRequest_reserved (s : State) (r : Request) : (s.placeRequest r).reserved = s.reserved := rfl
@[simp] theorem State.placeRequest_pointer (s : State) (r : Request) : (s.placeRequest r).pointer = s.pointer := rfl
@[simp] theorem State.placeRequest_dataOut (s : State) (r : Request) : (s.placeRequest r).dataOut = s.dataOut := rfl
@[simp] theorem State.placeRequest_slots (s : State) (r : Request) : (s.placeRequest r).slots = s.slots := rfl
@[simp] theorem State.placeRequest_profiles (s : State) (r : Request) : (s.placeRequest r).profiles = s.profiles := rfl
@[simp] theorem State.placeRequest_lines (s : State) (r : Request) : (s.placeRequest r).lines = s.lines := rfl
@[simp] theorem State.placeRequest_nextSerial (s : State) (r : Request) : (s.placeRequest r).nextSerial = s.nextSerial := rfl
@[simp] theorem State.placeRequest_valueMemory (s : State) (r : Request) : (s.placeRequest r).valueMemory = s.valueMemory := rfl
@[simp] theorem State.placeRequest_freeList (s : State) (r : Request) : (s.placeRequest r).freeList = s.freeList := rfl
@[simp] theorem State.placeRequest_bufferList (s : State) (r : Request) : (s.placeRequest r).bufferList = s.bufferList := rfl
@[simp] theorem State.placeRequest_waiting (s : State) (r : Request) : (s.placeRequest r).waiting = s.waiting := rfl
@[simp] theorem State.placeRequest_transfer (s : State) (r : Request) : (s.placeRequest r).transfer = s.transfer := rfl
@[simp] theorem State.placeRequest_transferBuffer (s : State) (r : Request) : (s.placeRequest r).transferBuffer = s.transferBuffer := rfl
@[simp] theorem State.placeRequest_hostMemory (s : State) (r : Request) : (s.placeRequest r).hostMemory = s.hostMemory := rfl
@[simp] theorem State.placeRequest_pending (s : State) (r : Request) : (s.placeRequest r).pending = s.pending := rfl

/-! ### withdraw -/

@[simp] theorem State.withdraw_partState (s : State) (o : Owner) : (s.withdraw o).partState = s.partState := rfl
@[simp] theorem State.withdraw_resetCause (s : State) (o : Owner) : (s.withdraw o).resetCause = s.resetCause := rfl
@[simp] theorem State.withdraw_faultCode (s : State) (o : Owner) : (s.withdraw o).faultCode = s.faultCode := rfl
@[simp] theorem State.withdraw_stateChange (s : State) (o : Owner) : (s.withdraw o).stateChange = s.stateChange := rfl
@[simp] theorem State.withdraw_overflow (s : State) (o : Owner) : (s.withdraw o).overflow = s.overflow := rfl
@[simp] theorem State.withdraw_answerEnable (s : State) (o : Owner) : (s.withdraw o).answerEnable = s.answerEnable := rfl
@[simp] theorem State.withdraw_stateChangeEnable (s : State) (o : Owner) : (s.withdraw o).stateChangeEnable = s.stateChangeEnable := rfl
@[simp] theorem State.withdraw_overflowEnable (s : State) (o : Owner) : (s.withdraw o).overflowEnable = s.overflowEnable := rfl
@[simp] theorem State.withdraw_commandQueue (s : State) (o : Owner) : (s.withdraw o).commandQueue = s.commandQueue := rfl
@[simp] theorem State.withdraw_assembler (s : State) (o : Owner) : (s.withdraw o).assembler = s.assembler := rfl
@[simp] theorem State.withdraw_answerQueue (s : State) (o : Owner) : (s.withdraw o).answerQueue = s.answerQueue := rfl
@[simp] theorem State.withdraw_reserved (s : State) (o : Owner) : (s.withdraw o).reserved = s.reserved := rfl
@[simp] theorem State.withdraw_pointer (s : State) (o : Owner) : (s.withdraw o).pointer = s.pointer := rfl
@[simp] theorem State.withdraw_dataOut (s : State) (o : Owner) : (s.withdraw o).dataOut = s.dataOut := rfl
@[simp] theorem State.withdraw_slots (s : State) (o : Owner) : (s.withdraw o).slots = s.slots := rfl
@[simp] theorem State.withdraw_profiles (s : State) (o : Owner) : (s.withdraw o).profiles = s.profiles := rfl
@[simp] theorem State.withdraw_lines (s : State) (o : Owner) : (s.withdraw o).lines = s.lines := rfl
@[simp] theorem State.withdraw_nextSerial (s : State) (o : Owner) : (s.withdraw o).nextSerial = s.nextSerial := rfl
@[simp] theorem State.withdraw_valueMemory (s : State) (o : Owner) : (s.withdraw o).valueMemory = s.valueMemory := rfl
@[simp] theorem State.withdraw_freeList (s : State) (o : Owner) : (s.withdraw o).freeList = s.freeList := rfl
@[simp] theorem State.withdraw_bufferList (s : State) (o : Owner) : (s.withdraw o).bufferList = s.bufferList := rfl
@[simp] theorem State.withdraw_waiting (s : State) (o : Owner) : (s.withdraw o).waiting = s.waiting := rfl
@[simp] theorem State.withdraw_transfer (s : State) (o : Owner) : (s.withdraw o).transfer = s.transfer := rfl
@[simp] theorem State.withdraw_transferBuffer (s : State) (o : Owner) : (s.withdraw o).transferBuffer = s.transferBuffer := rfl
@[simp] theorem State.withdraw_hostMemory (s : State) (o : Owner) : (s.withdraw o).hostMemory = s.hostMemory := rfl
@[simp] theorem State.withdraw_pending (s : State) (o : Owner) : (s.withdraw o).pending = s.pending := rfl

/-! ### leaveWaiting -/

@[simp] theorem State.leaveWaiting_partState (s : State) (l : LineId) : (s.leaveWaiting l).partState = s.partState := rfl
@[simp] theorem State.leaveWaiting_resetCause (s : State) (l : LineId) : (s.leaveWaiting l).resetCause = s.resetCause := rfl
@[simp] theorem State.leaveWaiting_faultCode (s : State) (l : LineId) : (s.leaveWaiting l).faultCode = s.faultCode := rfl
@[simp] theorem State.leaveWaiting_stateChange (s : State) (l : LineId) : (s.leaveWaiting l).stateChange = s.stateChange := rfl
@[simp] theorem State.leaveWaiting_overflow (s : State) (l : LineId) : (s.leaveWaiting l).overflow = s.overflow := rfl
@[simp] theorem State.leaveWaiting_answerEnable (s : State) (l : LineId) : (s.leaveWaiting l).answerEnable = s.answerEnable := rfl
@[simp] theorem State.leaveWaiting_stateChangeEnable (s : State) (l : LineId) : (s.leaveWaiting l).stateChangeEnable = s.stateChangeEnable := rfl
@[simp] theorem State.leaveWaiting_overflowEnable (s : State) (l : LineId) : (s.leaveWaiting l).overflowEnable = s.overflowEnable := rfl
@[simp] theorem State.leaveWaiting_commandQueue (s : State) (l : LineId) : (s.leaveWaiting l).commandQueue = s.commandQueue := rfl
@[simp] theorem State.leaveWaiting_assembler (s : State) (l : LineId) : (s.leaveWaiting l).assembler = s.assembler := rfl
@[simp] theorem State.leaveWaiting_answerQueue (s : State) (l : LineId) : (s.leaveWaiting l).answerQueue = s.answerQueue := rfl
@[simp] theorem State.leaveWaiting_reserved (s : State) (l : LineId) : (s.leaveWaiting l).reserved = s.reserved := rfl
@[simp] theorem State.leaveWaiting_pointer (s : State) (l : LineId) : (s.leaveWaiting l).pointer = s.pointer := rfl
@[simp] theorem State.leaveWaiting_dataOut (s : State) (l : LineId) : (s.leaveWaiting l).dataOut = s.dataOut := rfl
@[simp] theorem State.leaveWaiting_slots (s : State) (l : LineId) : (s.leaveWaiting l).slots = s.slots := rfl
@[simp] theorem State.leaveWaiting_profiles (s : State) (l : LineId) : (s.leaveWaiting l).profiles = s.profiles := rfl
@[simp] theorem State.leaveWaiting_lines (s : State) (l : LineId) : (s.leaveWaiting l).lines = s.lines := rfl
@[simp] theorem State.leaveWaiting_nextSerial (s : State) (l : LineId) : (s.leaveWaiting l).nextSerial = s.nextSerial := rfl
@[simp] theorem State.leaveWaiting_valueMemory (s : State) (l : LineId) : (s.leaveWaiting l).valueMemory = s.valueMemory := rfl
@[simp] theorem State.leaveWaiting_freeList (s : State) (l : LineId) : (s.leaveWaiting l).freeList = s.freeList := rfl
@[simp] theorem State.leaveWaiting_bufferList (s : State) (l : LineId) : (s.leaveWaiting l).bufferList = s.bufferList := rfl
@[simp] theorem State.leaveWaiting_busQueue (s : State) (l : LineId) : (s.leaveWaiting l).busQueue = s.busQueue := rfl
@[simp] theorem State.leaveWaiting_transfer (s : State) (l : LineId) : (s.leaveWaiting l).transfer = s.transfer := rfl
@[simp] theorem State.leaveWaiting_transferBuffer (s : State) (l : LineId) : (s.leaveWaiting l).transferBuffer = s.transferBuffer := rfl
@[simp] theorem State.leaveWaiting_hostMemory (s : State) (l : LineId) : (s.leaveWaiting l).hostMemory = s.hostMemory := rfl
@[simp] theorem State.leaveWaiting_pending (s : State) (l : LineId) : (s.leaveWaiting l).pending = s.pending := rfl

/-! ### dropUse -/

@[simp] theorem State.dropUse_partState (s : State) (k : SlotId) : (s.dropUse k).partState = s.partState := rfl
@[simp] theorem State.dropUse_resetCause (s : State) (k : SlotId) : (s.dropUse k).resetCause = s.resetCause := rfl
@[simp] theorem State.dropUse_faultCode (s : State) (k : SlotId) : (s.dropUse k).faultCode = s.faultCode := rfl
@[simp] theorem State.dropUse_stateChange (s : State) (k : SlotId) : (s.dropUse k).stateChange = s.stateChange := rfl
@[simp] theorem State.dropUse_overflow (s : State) (k : SlotId) : (s.dropUse k).overflow = s.overflow := rfl
@[simp] theorem State.dropUse_answerEnable (s : State) (k : SlotId) : (s.dropUse k).answerEnable = s.answerEnable := rfl
@[simp] theorem State.dropUse_stateChangeEnable (s : State) (k : SlotId) : (s.dropUse k).stateChangeEnable = s.stateChangeEnable := rfl
@[simp] theorem State.dropUse_overflowEnable (s : State) (k : SlotId) : (s.dropUse k).overflowEnable = s.overflowEnable := rfl
@[simp] theorem State.dropUse_commandQueue (s : State) (k : SlotId) : (s.dropUse k).commandQueue = s.commandQueue := rfl
@[simp] theorem State.dropUse_assembler (s : State) (k : SlotId) : (s.dropUse k).assembler = s.assembler := rfl
@[simp] theorem State.dropUse_answerQueue (s : State) (k : SlotId) : (s.dropUse k).answerQueue = s.answerQueue := rfl
@[simp] theorem State.dropUse_reserved (s : State) (k : SlotId) : (s.dropUse k).reserved = s.reserved := rfl
@[simp] theorem State.dropUse_pointer (s : State) (k : SlotId) : (s.dropUse k).pointer = s.pointer := rfl
@[simp] theorem State.dropUse_dataOut (s : State) (k : SlotId) : (s.dropUse k).dataOut = s.dataOut := rfl
@[simp] theorem State.dropUse_profiles (s : State) (k : SlotId) : (s.dropUse k).profiles = s.profiles := rfl
@[simp] theorem State.dropUse_lines (s : State) (k : SlotId) : (s.dropUse k).lines = s.lines := rfl
@[simp] theorem State.dropUse_nextSerial (s : State) (k : SlotId) : (s.dropUse k).nextSerial = s.nextSerial := rfl
@[simp] theorem State.dropUse_valueMemory (s : State) (k : SlotId) : (s.dropUse k).valueMemory = s.valueMemory := rfl
@[simp] theorem State.dropUse_freeList (s : State) (k : SlotId) : (s.dropUse k).freeList = s.freeList := rfl
@[simp] theorem State.dropUse_bufferList (s : State) (k : SlotId) : (s.dropUse k).bufferList = s.bufferList := rfl
@[simp] theorem State.dropUse_waiting (s : State) (k : SlotId) : (s.dropUse k).waiting = s.waiting := rfl
@[simp] theorem State.dropUse_busQueue (s : State) (k : SlotId) : (s.dropUse k).busQueue = s.busQueue := rfl
@[simp] theorem State.dropUse_transfer (s : State) (k : SlotId) : (s.dropUse k).transfer = s.transfer := rfl
@[simp] theorem State.dropUse_transferBuffer (s : State) (k : SlotId) : (s.dropUse k).transferBuffer = s.transferBuffer := rfl
@[simp] theorem State.dropUse_hostMemory (s : State) (k : SlotId) : (s.dropUse k).hostMemory = s.hostMemory := rfl
@[simp] theorem State.dropUse_pending (s : State) (k : SlotId) : (s.dropUse k).pending = s.pending := rfl

/-! ### beginTaking -/

@[simp] theorem State.beginTaking_partState (s : State) (c : Command) : (s.beginTaking c).partState = s.partState := rfl
@[simp] theorem State.beginTaking_resetCause (s : State) (c : Command) : (s.beginTaking c).resetCause = s.resetCause := rfl
@[simp] theorem State.beginTaking_faultCode (s : State) (c : Command) : (s.beginTaking c).faultCode = s.faultCode := rfl
@[simp] theorem State.beginTaking_stateChange (s : State) (c : Command) : (s.beginTaking c).stateChange = s.stateChange := rfl
@[simp] theorem State.beginTaking_overflow (s : State) (c : Command) : (s.beginTaking c).overflow = s.overflow := rfl
@[simp] theorem State.beginTaking_answerEnable (s : State) (c : Command) : (s.beginTaking c).answerEnable = s.answerEnable := rfl
@[simp] theorem State.beginTaking_stateChangeEnable (s : State) (c : Command) : (s.beginTaking c).stateChangeEnable = s.stateChangeEnable := rfl
@[simp] theorem State.beginTaking_overflowEnable (s : State) (c : Command) : (s.beginTaking c).overflowEnable = s.overflowEnable := rfl
@[simp] theorem State.beginTaking_answerQueue (s : State) (c : Command) : (s.beginTaking c).answerQueue = s.answerQueue := rfl
@[simp] theorem State.beginTaking_dataOut (s : State) (c : Command) : (s.beginTaking c).dataOut = s.dataOut := rfl
@[simp] theorem State.beginTaking_slots (s : State) (c : Command) : (s.beginTaking c).slots = s.slots := rfl
@[simp] theorem State.beginTaking_profiles (s : State) (c : Command) : (s.beginTaking c).profiles = s.profiles := rfl
@[simp] theorem State.beginTaking_lines (s : State) (c : Command) : (s.beginTaking c).lines = s.lines := rfl
@[simp] theorem State.beginTaking_nextSerial (s : State) (c : Command) : (s.beginTaking c).nextSerial = s.nextSerial := rfl
@[simp] theorem State.beginTaking_valueMemory (s : State) (c : Command) : (s.beginTaking c).valueMemory = s.valueMemory := rfl
@[simp] theorem State.beginTaking_freeList (s : State) (c : Command) : (s.beginTaking c).freeList = s.freeList := rfl
@[simp] theorem State.beginTaking_bufferList (s : State) (c : Command) : (s.beginTaking c).bufferList = s.bufferList := rfl
@[simp] theorem State.beginTaking_waiting (s : State) (c : Command) : (s.beginTaking c).waiting = s.waiting := rfl
@[simp] theorem State.beginTaking_busQueue (s : State) (c : Command) : (s.beginTaking c).busQueue = s.busQueue := rfl
@[simp] theorem State.beginTaking_transfer (s : State) (c : Command) : (s.beginTaking c).transfer = s.transfer := rfl
@[simp] theorem State.beginTaking_transferBuffer (s : State) (c : Command) : (s.beginTaking c).transferBuffer = s.transferBuffer := rfl
@[simp] theorem State.beginTaking_hostMemory (s : State) (c : Command) : (s.beginTaking c).hostMemory = s.hostMemory := rfl
@[simp] theorem State.beginTaking_pending (s : State) (c : Command) : (s.beginTaking c).pending = s.pending := rfl

/-! ### settle -/

@[simp] theorem State.settle_partState (s : State) (l : LineId) : (s.settle l).partState = s.partState := rfl
@[simp] theorem State.settle_resetCause (s : State) (l : LineId) : (s.settle l).resetCause = s.resetCause := rfl
@[simp] theorem State.settle_faultCode (s : State) (l : LineId) : (s.settle l).faultCode = s.faultCode := rfl
@[simp] theorem State.settle_stateChange (s : State) (l : LineId) : (s.settle l).stateChange = s.stateChange := rfl
@[simp] theorem State.settle_overflow (s : State) (l : LineId) : (s.settle l).overflow = s.overflow := rfl
@[simp] theorem State.settle_answerEnable (s : State) (l : LineId) : (s.settle l).answerEnable = s.answerEnable := rfl
@[simp] theorem State.settle_stateChangeEnable (s : State) (l : LineId) : (s.settle l).stateChangeEnable = s.stateChangeEnable := rfl
@[simp] theorem State.settle_overflowEnable (s : State) (l : LineId) : (s.settle l).overflowEnable = s.overflowEnable := rfl
@[simp] theorem State.settle_commandQueue (s : State) (l : LineId) : (s.settle l).commandQueue = s.commandQueue := rfl
@[simp] theorem State.settle_assembler (s : State) (l : LineId) : (s.settle l).assembler = s.assembler := rfl
@[simp] theorem State.settle_answerQueue (s : State) (l : LineId) : (s.settle l).answerQueue = s.answerQueue := rfl
@[simp] theorem State.settle_reserved (s : State) (l : LineId) : (s.settle l).reserved = s.reserved := rfl
@[simp] theorem State.settle_pointer (s : State) (l : LineId) : (s.settle l).pointer = s.pointer := rfl
@[simp] theorem State.settle_dataOut (s : State) (l : LineId) : (s.settle l).dataOut = s.dataOut := rfl
@[simp] theorem State.settle_slots (s : State) (l : LineId) : (s.settle l).slots = s.slots := rfl
@[simp] theorem State.settle_profiles (s : State) (l : LineId) : (s.settle l).profiles = s.profiles := rfl
@[simp] theorem State.settle_nextSerial (s : State) (l : LineId) : (s.settle l).nextSerial = s.nextSerial := rfl
@[simp] theorem State.settle_valueMemory (s : State) (l : LineId) : (s.settle l).valueMemory = s.valueMemory := rfl
@[simp] theorem State.settle_freeList (s : State) (l : LineId) : (s.settle l).freeList = s.freeList := rfl
@[simp] theorem State.settle_bufferList (s : State) (l : LineId) : (s.settle l).bufferList = s.bufferList := rfl
@[simp] theorem State.settle_waiting (s : State) (l : LineId) : (s.settle l).waiting = s.waiting := rfl
@[simp] theorem State.settle_busQueue (s : State) (l : LineId) : (s.settle l).busQueue = s.busQueue := rfl
@[simp] theorem State.settle_transfer (s : State) (l : LineId) : (s.settle l).transfer = s.transfer := rfl
@[simp] theorem State.settle_transferBuffer (s : State) (l : LineId) : (s.settle l).transferBuffer = s.transferBuffer := rfl
@[simp] theorem State.settle_hostMemory (s : State) (l : LineId) : (s.settle l).hostMemory = s.hostMemory := rfl
@[simp] theorem State.settle_pending (s : State) (l : LineId) : (s.settle l).pending = s.pending := rfl

/-! ### bell -/

@[simp] theorem State.bell_partState (s : State) (l : LineId) : (s.bell l).partState = s.partState := rfl
@[simp] theorem State.bell_resetCause (s : State) (l : LineId) : (s.bell l).resetCause = s.resetCause := rfl
@[simp] theorem State.bell_faultCode (s : State) (l : LineId) : (s.bell l).faultCode = s.faultCode := rfl
@[simp] theorem State.bell_stateChange (s : State) (l : LineId) : (s.bell l).stateChange = s.stateChange := rfl
@[simp] theorem State.bell_overflow (s : State) (l : LineId) : (s.bell l).overflow = s.overflow := rfl
@[simp] theorem State.bell_answerEnable (s : State) (l : LineId) : (s.bell l).answerEnable = s.answerEnable := rfl
@[simp] theorem State.bell_stateChangeEnable (s : State) (l : LineId) : (s.bell l).stateChangeEnable = s.stateChangeEnable := rfl
@[simp] theorem State.bell_overflowEnable (s : State) (l : LineId) : (s.bell l).overflowEnable = s.overflowEnable := rfl
@[simp] theorem State.bell_commandQueue (s : State) (l : LineId) : (s.bell l).commandQueue = s.commandQueue := rfl
@[simp] theorem State.bell_assembler (s : State) (l : LineId) : (s.bell l).assembler = s.assembler := rfl
@[simp] theorem State.bell_answerQueue (s : State) (l : LineId) : (s.bell l).answerQueue = s.answerQueue := rfl
@[simp] theorem State.bell_reserved (s : State) (l : LineId) : (s.bell l).reserved = s.reserved := rfl
@[simp] theorem State.bell_pointer (s : State) (l : LineId) : (s.bell l).pointer = s.pointer := rfl
@[simp] theorem State.bell_dataOut (s : State) (l : LineId) : (s.bell l).dataOut = s.dataOut := rfl
@[simp] theorem State.bell_slots (s : State) (l : LineId) : (s.bell l).slots = s.slots := rfl
@[simp] theorem State.bell_profiles (s : State) (l : LineId) : (s.bell l).profiles = s.profiles := rfl
@[simp] theorem State.bell_nextSerial (s : State) (l : LineId) : (s.bell l).nextSerial = s.nextSerial := rfl
@[simp] theorem State.bell_valueMemory (s : State) (l : LineId) : (s.bell l).valueMemory = s.valueMemory := rfl
@[simp] theorem State.bell_freeList (s : State) (l : LineId) : (s.bell l).freeList = s.freeList := rfl
@[simp] theorem State.bell_bufferList (s : State) (l : LineId) : (s.bell l).bufferList = s.bufferList := rfl
@[simp] theorem State.bell_waiting (s : State) (l : LineId) : (s.bell l).waiting = s.waiting := rfl
@[simp] theorem State.bell_busQueue (s : State) (l : LineId) : (s.bell l).busQueue = s.busQueue := rfl
@[simp] theorem State.bell_transfer (s : State) (l : LineId) : (s.bell l).transfer = s.transfer := rfl
@[simp] theorem State.bell_transferBuffer (s : State) (l : LineId) : (s.bell l).transferBuffer = s.transferBuffer := rfl
@[simp] theorem State.bell_hostMemory (s : State) (l : LineId) : (s.bell l).hostMemory = s.hostMemory := rfl
@[simp] theorem State.bell_pending (s : State) (l : LineId) : (s.bell l).pending = s.pending := rfl

/-! ### setFlag -/

@[simp] theorem State.setFlag_partState (s : State) (l : LineId) (f : EventFlags → EventFlags) : (s.setFlag l f).partState = s.partState := rfl
@[simp] theorem State.setFlag_resetCause (s : State) (l : LineId) (f : EventFlags → EventFlags) : (s.setFlag l f).resetCause = s.resetCause := rfl
@[simp] theorem State.setFlag_faultCode (s : State) (l : LineId) (f : EventFlags → EventFlags) : (s.setFlag l f).faultCode = s.faultCode := rfl
@[simp] theorem State.setFlag_stateChange (s : State) (l : LineId) (f : EventFlags → EventFlags) : (s.setFlag l f).stateChange = s.stateChange := rfl
@[simp] theorem State.setFlag_overflow (s : State) (l : LineId) (f : EventFlags → EventFlags) : (s.setFlag l f).overflow = s.overflow := rfl
@[simp] theorem State.setFlag_answerEnable (s : State) (l : LineId) (f : EventFlags → EventFlags) : (s.setFlag l f).answerEnable = s.answerEnable := rfl
@[simp] theorem State.setFlag_stateChangeEnable (s : State) (l : LineId) (f : EventFlags → EventFlags) : (s.setFlag l f).stateChangeEnable = s.stateChangeEnable := rfl
@[simp] theorem State.setFlag_overflowEnable (s : State) (l : LineId) (f : EventFlags → EventFlags) : (s.setFlag l f).overflowEnable = s.overflowEnable := rfl
@[simp] theorem State.setFlag_commandQueue (s : State) (l : LineId) (f : EventFlags → EventFlags) : (s.setFlag l f).commandQueue = s.commandQueue := rfl
@[simp] theorem State.setFlag_assembler (s : State) (l : LineId) (f : EventFlags → EventFlags) : (s.setFlag l f).assembler = s.assembler := rfl
@[simp] theorem State.setFlag_answerQueue (s : State) (l : LineId) (f : EventFlags → EventFlags) : (s.setFlag l f).answerQueue = s.answerQueue := rfl
@[simp] theorem State.setFlag_reserved (s : State) (l : LineId) (f : EventFlags → EventFlags) : (s.setFlag l f).reserved = s.reserved := rfl
@[simp] theorem State.setFlag_pointer (s : State) (l : LineId) (f : EventFlags → EventFlags) : (s.setFlag l f).pointer = s.pointer := rfl
@[simp] theorem State.setFlag_dataOut (s : State) (l : LineId) (f : EventFlags → EventFlags) : (s.setFlag l f).dataOut = s.dataOut := rfl
@[simp] theorem State.setFlag_slots (s : State) (l : LineId) (f : EventFlags → EventFlags) : (s.setFlag l f).slots = s.slots := rfl
@[simp] theorem State.setFlag_profiles (s : State) (l : LineId) (f : EventFlags → EventFlags) : (s.setFlag l f).profiles = s.profiles := rfl
@[simp] theorem State.setFlag_nextSerial (s : State) (l : LineId) (f : EventFlags → EventFlags) : (s.setFlag l f).nextSerial = s.nextSerial := rfl
@[simp] theorem State.setFlag_valueMemory (s : State) (l : LineId) (f : EventFlags → EventFlags) : (s.setFlag l f).valueMemory = s.valueMemory := rfl
@[simp] theorem State.setFlag_freeList (s : State) (l : LineId) (f : EventFlags → EventFlags) : (s.setFlag l f).freeList = s.freeList := rfl
@[simp] theorem State.setFlag_bufferList (s : State) (l : LineId) (f : EventFlags → EventFlags) : (s.setFlag l f).bufferList = s.bufferList := rfl
@[simp] theorem State.setFlag_waiting (s : State) (l : LineId) (f : EventFlags → EventFlags) : (s.setFlag l f).waiting = s.waiting := rfl
@[simp] theorem State.setFlag_busQueue (s : State) (l : LineId) (f : EventFlags → EventFlags) : (s.setFlag l f).busQueue = s.busQueue := rfl
@[simp] theorem State.setFlag_transfer (s : State) (l : LineId) (f : EventFlags → EventFlags) : (s.setFlag l f).transfer = s.transfer := rfl
@[simp] theorem State.setFlag_transferBuffer (s : State) (l : LineId) (f : EventFlags → EventFlags) : (s.setFlag l f).transferBuffer = s.transferBuffer := rfl
@[simp] theorem State.setFlag_hostMemory (s : State) (l : LineId) (f : EventFlags → EventFlags) : (s.setFlag l f).hostMemory = s.hostMemory := rfl
@[simp] theorem State.setFlag_pending (s : State) (l : LineId) (f : EventFlags → EventFlags) : (s.setFlag l f).pending = s.pending := rfl

/-! ### queueClear -/

@[simp] theorem State.queueClear_partState (s : State) (l : LineId) (b : Bool) : (s.queueClear l b).partState = s.partState := rfl
@[simp] theorem State.queueClear_resetCause (s : State) (l : LineId) (b : Bool) : (s.queueClear l b).resetCause = s.resetCause := rfl
@[simp] theorem State.queueClear_faultCode (s : State) (l : LineId) (b : Bool) : (s.queueClear l b).faultCode = s.faultCode := rfl
@[simp] theorem State.queueClear_stateChange (s : State) (l : LineId) (b : Bool) : (s.queueClear l b).stateChange = s.stateChange := rfl
@[simp] theorem State.queueClear_overflow (s : State) (l : LineId) (b : Bool) : (s.queueClear l b).overflow = s.overflow := rfl
@[simp] theorem State.queueClear_answerEnable (s : State) (l : LineId) (b : Bool) : (s.queueClear l b).answerEnable = s.answerEnable := rfl
@[simp] theorem State.queueClear_stateChangeEnable (s : State) (l : LineId) (b : Bool) : (s.queueClear l b).stateChangeEnable = s.stateChangeEnable := rfl
@[simp] theorem State.queueClear_overflowEnable (s : State) (l : LineId) (b : Bool) : (s.queueClear l b).overflowEnable = s.overflowEnable := rfl
@[simp] theorem State.queueClear_commandQueue (s : State) (l : LineId) (b : Bool) : (s.queueClear l b).commandQueue = s.commandQueue := rfl
@[simp] theorem State.queueClear_assembler (s : State) (l : LineId) (b : Bool) : (s.queueClear l b).assembler = s.assembler := rfl
@[simp] theorem State.queueClear_answerQueue (s : State) (l : LineId) (b : Bool) : (s.queueClear l b).answerQueue = s.answerQueue := rfl
@[simp] theorem State.queueClear_reserved (s : State) (l : LineId) (b : Bool) : (s.queueClear l b).reserved = s.reserved := rfl
@[simp] theorem State.queueClear_pointer (s : State) (l : LineId) (b : Bool) : (s.queueClear l b).pointer = s.pointer := rfl
@[simp] theorem State.queueClear_dataOut (s : State) (l : LineId) (b : Bool) : (s.queueClear l b).dataOut = s.dataOut := rfl
@[simp] theorem State.queueClear_slots (s : State) (l : LineId) (b : Bool) : (s.queueClear l b).slots = s.slots := rfl
@[simp] theorem State.queueClear_profiles (s : State) (l : LineId) (b : Bool) : (s.queueClear l b).profiles = s.profiles := rfl
@[simp] theorem State.queueClear_nextSerial (s : State) (l : LineId) (b : Bool) : (s.queueClear l b).nextSerial = s.nextSerial := rfl
@[simp] theorem State.queueClear_valueMemory (s : State) (l : LineId) (b : Bool) : (s.queueClear l b).valueMemory = s.valueMemory := rfl
@[simp] theorem State.queueClear_freeList (s : State) (l : LineId) (b : Bool) : (s.queueClear l b).freeList = s.freeList := rfl
@[simp] theorem State.queueClear_bufferList (s : State) (l : LineId) (b : Bool) : (s.queueClear l b).bufferList = s.bufferList := rfl
@[simp] theorem State.queueClear_waiting (s : State) (l : LineId) (b : Bool) : (s.queueClear l b).waiting = s.waiting := rfl
@[simp] theorem State.queueClear_busQueue (s : State) (l : LineId) (b : Bool) : (s.queueClear l b).busQueue = s.busQueue := rfl
@[simp] theorem State.queueClear_transfer (s : State) (l : LineId) (b : Bool) : (s.queueClear l b).transfer = s.transfer := rfl
@[simp] theorem State.queueClear_transferBuffer (s : State) (l : LineId) (b : Bool) : (s.queueClear l b).transferBuffer = s.transferBuffer := rfl
@[simp] theorem State.queueClear_hostMemory (s : State) (l : LineId) (b : Bool) : (s.queueClear l b).hostMemory = s.hostMemory := rfl
@[simp] theorem State.queueClear_pending (s : State) (l : LineId) (b : Bool) : (s.queueClear l b).pending = s.pending := rfl

/-! ### fillBuffer -/

@[simp] theorem State.fillBuffer_partState (s : State) (b : List Byte) : (s.fillBuffer b).partState = s.partState := rfl
@[simp] theorem State.fillBuffer_resetCause (s : State) (b : List Byte) : (s.fillBuffer b).resetCause = s.resetCause := rfl
@[simp] theorem State.fillBuffer_faultCode (s : State) (b : List Byte) : (s.fillBuffer b).faultCode = s.faultCode := rfl
@[simp] theorem State.fillBuffer_stateChange (s : State) (b : List Byte) : (s.fillBuffer b).stateChange = s.stateChange := rfl
@[simp] theorem State.fillBuffer_overflow (s : State) (b : List Byte) : (s.fillBuffer b).overflow = s.overflow := rfl
@[simp] theorem State.fillBuffer_answerEnable (s : State) (b : List Byte) : (s.fillBuffer b).answerEnable = s.answerEnable := rfl
@[simp] theorem State.fillBuffer_stateChangeEnable (s : State) (b : List Byte) : (s.fillBuffer b).stateChangeEnable = s.stateChangeEnable := rfl
@[simp] theorem State.fillBuffer_overflowEnable (s : State) (b : List Byte) : (s.fillBuffer b).overflowEnable = s.overflowEnable := rfl
@[simp] theorem State.fillBuffer_commandQueue (s : State) (b : List Byte) : (s.fillBuffer b).commandQueue = s.commandQueue := rfl
@[simp] theorem State.fillBuffer_assembler (s : State) (b : List Byte) : (s.fillBuffer b).assembler = s.assembler := rfl
@[simp] theorem State.fillBuffer_answerQueue (s : State) (b : List Byte) : (s.fillBuffer b).answerQueue = s.answerQueue := rfl
@[simp] theorem State.fillBuffer_reserved (s : State) (b : List Byte) : (s.fillBuffer b).reserved = s.reserved := rfl
@[simp] theorem State.fillBuffer_pointer (s : State) (b : List Byte) : (s.fillBuffer b).pointer = s.pointer := rfl
@[simp] theorem State.fillBuffer_dataOut (s : State) (b : List Byte) : (s.fillBuffer b).dataOut = s.dataOut := rfl
@[simp] theorem State.fillBuffer_slots (s : State) (b : List Byte) : (s.fillBuffer b).slots = s.slots := rfl
@[simp] theorem State.fillBuffer_profiles (s : State) (b : List Byte) : (s.fillBuffer b).profiles = s.profiles := rfl
@[simp] theorem State.fillBuffer_lines (s : State) (b : List Byte) : (s.fillBuffer b).lines = s.lines := rfl
@[simp] theorem State.fillBuffer_nextSerial (s : State) (b : List Byte) : (s.fillBuffer b).nextSerial = s.nextSerial := rfl
@[simp] theorem State.fillBuffer_valueMemory (s : State) (b : List Byte) : (s.fillBuffer b).valueMemory = s.valueMemory := rfl
@[simp] theorem State.fillBuffer_freeList (s : State) (b : List Byte) : (s.fillBuffer b).freeList = s.freeList := rfl
@[simp] theorem State.fillBuffer_bufferList (s : State) (b : List Byte) : (s.fillBuffer b).bufferList = s.bufferList := rfl
@[simp] theorem State.fillBuffer_waiting (s : State) (b : List Byte) : (s.fillBuffer b).waiting = s.waiting := rfl
@[simp] theorem State.fillBuffer_busQueue (s : State) (b : List Byte) : (s.fillBuffer b).busQueue = s.busQueue := rfl
@[simp] theorem State.fillBuffer_transfer (s : State) (b : List Byte) : (s.fillBuffer b).transfer = s.transfer := rfl
@[simp] theorem State.fillBuffer_hostMemory (s : State) (b : List Byte) : (s.fillBuffer b).hostMemory = s.hostMemory := rfl
@[simp] theorem State.fillBuffer_pending (s : State) (b : List Byte) : (s.fillBuffer b).pending = s.pending := rfl

/-! ### writeHost -/

@[simp] theorem State.writeHost_partState (s : State) (a : HostAddr) (b : List Byte) : (s.writeHost a b).partState = s.partState := rfl
@[simp] theorem State.writeHost_resetCause (s : State) (a : HostAddr) (b : List Byte) : (s.writeHost a b).resetCause = s.resetCause := rfl
@[simp] theorem State.writeHost_faultCode (s : State) (a : HostAddr) (b : List Byte) : (s.writeHost a b).faultCode = s.faultCode := rfl
@[simp] theorem State.writeHost_stateChange (s : State) (a : HostAddr) (b : List Byte) : (s.writeHost a b).stateChange = s.stateChange := rfl
@[simp] theorem State.writeHost_overflow (s : State) (a : HostAddr) (b : List Byte) : (s.writeHost a b).overflow = s.overflow := rfl
@[simp] theorem State.writeHost_answerEnable (s : State) (a : HostAddr) (b : List Byte) : (s.writeHost a b).answerEnable = s.answerEnable := rfl
@[simp] theorem State.writeHost_stateChangeEnable (s : State) (a : HostAddr) (b : List Byte) : (s.writeHost a b).stateChangeEnable = s.stateChangeEnable := rfl
@[simp] theorem State.writeHost_overflowEnable (s : State) (a : HostAddr) (b : List Byte) : (s.writeHost a b).overflowEnable = s.overflowEnable := rfl
@[simp] theorem State.writeHost_commandQueue (s : State) (a : HostAddr) (b : List Byte) : (s.writeHost a b).commandQueue = s.commandQueue := rfl
@[simp] theorem State.writeHost_assembler (s : State) (a : HostAddr) (b : List Byte) : (s.writeHost a b).assembler = s.assembler := rfl
@[simp] theorem State.writeHost_answerQueue (s : State) (a : HostAddr) (b : List Byte) : (s.writeHost a b).answerQueue = s.answerQueue := rfl
@[simp] theorem State.writeHost_reserved (s : State) (a : HostAddr) (b : List Byte) : (s.writeHost a b).reserved = s.reserved := rfl
@[simp] theorem State.writeHost_pointer (s : State) (a : HostAddr) (b : List Byte) : (s.writeHost a b).pointer = s.pointer := rfl
@[simp] theorem State.writeHost_dataOut (s : State) (a : HostAddr) (b : List Byte) : (s.writeHost a b).dataOut = s.dataOut := rfl
@[simp] theorem State.writeHost_slots (s : State) (a : HostAddr) (b : List Byte) : (s.writeHost a b).slots = s.slots := rfl
@[simp] theorem State.writeHost_profiles (s : State) (a : HostAddr) (b : List Byte) : (s.writeHost a b).profiles = s.profiles := rfl
@[simp] theorem State.writeHost_lines (s : State) (a : HostAddr) (b : List Byte) : (s.writeHost a b).lines = s.lines := rfl
@[simp] theorem State.writeHost_nextSerial (s : State) (a : HostAddr) (b : List Byte) : (s.writeHost a b).nextSerial = s.nextSerial := rfl
@[simp] theorem State.writeHost_valueMemory (s : State) (a : HostAddr) (b : List Byte) : (s.writeHost a b).valueMemory = s.valueMemory := rfl
@[simp] theorem State.writeHost_freeList (s : State) (a : HostAddr) (b : List Byte) : (s.writeHost a b).freeList = s.freeList := rfl
@[simp] theorem State.writeHost_bufferList (s : State) (a : HostAddr) (b : List Byte) : (s.writeHost a b).bufferList = s.bufferList := rfl
@[simp] theorem State.writeHost_waiting (s : State) (a : HostAddr) (b : List Byte) : (s.writeHost a b).waiting = s.waiting := rfl
@[simp] theorem State.writeHost_busQueue (s : State) (a : HostAddr) (b : List Byte) : (s.writeHost a b).busQueue = s.busQueue := rfl
@[simp] theorem State.writeHost_transfer (s : State) (a : HostAddr) (b : List Byte) : (s.writeHost a b).transfer = s.transfer := rfl
@[simp] theorem State.writeHost_transferBuffer (s : State) (a : HostAddr) (b : List Byte) : (s.writeHost a b).transferBuffer = s.transferBuffer := rfl
@[simp] theorem State.writeHost_pending (s : State) (a : HostAddr) (b : List Byte) : (s.writeHost a b).pending = s.pending := rfl

/-! ### endTransfer -/

@[simp] theorem State.endTransfer_partState (s : State) : (s.endTransfer).partState = s.partState := rfl
@[simp] theorem State.endTransfer_resetCause (s : State) : (s.endTransfer).resetCause = s.resetCause := rfl
@[simp] theorem State.endTransfer_faultCode (s : State) : (s.endTransfer).faultCode = s.faultCode := rfl
@[simp] theorem State.endTransfer_stateChange (s : State) : (s.endTransfer).stateChange = s.stateChange := rfl
@[simp] theorem State.endTransfer_overflow (s : State) : (s.endTransfer).overflow = s.overflow := rfl
@[simp] theorem State.endTransfer_answerEnable (s : State) : (s.endTransfer).answerEnable = s.answerEnable := rfl
@[simp] theorem State.endTransfer_stateChangeEnable (s : State) : (s.endTransfer).stateChangeEnable = s.stateChangeEnable := rfl
@[simp] theorem State.endTransfer_overflowEnable (s : State) : (s.endTransfer).overflowEnable = s.overflowEnable := rfl
@[simp] theorem State.endTransfer_commandQueue (s : State) : (s.endTransfer).commandQueue = s.commandQueue := rfl
@[simp] theorem State.endTransfer_assembler (s : State) : (s.endTransfer).assembler = s.assembler := rfl
@[simp] theorem State.endTransfer_answerQueue (s : State) : (s.endTransfer).answerQueue = s.answerQueue := rfl
@[simp] theorem State.endTransfer_reserved (s : State) : (s.endTransfer).reserved = s.reserved := rfl
@[simp] theorem State.endTransfer_pointer (s : State) : (s.endTransfer).pointer = s.pointer := rfl
@[simp] theorem State.endTransfer_dataOut (s : State) : (s.endTransfer).dataOut = s.dataOut := rfl
@[simp] theorem State.endTransfer_slots (s : State) : (s.endTransfer).slots = s.slots := rfl
@[simp] theorem State.endTransfer_profiles (s : State) : (s.endTransfer).profiles = s.profiles := rfl
@[simp] theorem State.endTransfer_lines (s : State) : (s.endTransfer).lines = s.lines := rfl
@[simp] theorem State.endTransfer_nextSerial (s : State) : (s.endTransfer).nextSerial = s.nextSerial := rfl
@[simp] theorem State.endTransfer_valueMemory (s : State) : (s.endTransfer).valueMemory = s.valueMemory := rfl
@[simp] theorem State.endTransfer_freeList (s : State) : (s.endTransfer).freeList = s.freeList := rfl
@[simp] theorem State.endTransfer_bufferList (s : State) : (s.endTransfer).bufferList = s.bufferList := rfl
@[simp] theorem State.endTransfer_waiting (s : State) : (s.endTransfer).waiting = s.waiting := rfl
@[simp] theorem State.endTransfer_busQueue (s : State) : (s.endTransfer).busQueue = s.busQueue := rfl
@[simp] theorem State.endTransfer_transferBuffer (s : State) : (s.endTransfer).transferBuffer = s.transferBuffer := rfl
@[simp] theorem State.endTransfer_hostMemory (s : State) : (s.endTransfer).hostMemory = s.hostMemory := rfl
@[simp] theorem State.endTransfer_pending (s : State) : (s.endTransfer).pending = s.pending := rfl

/-! ### closeResult -/

@[simp] theorem State.closeResult_partState (s : State) (c : Closer) (d : List Word) : (s.closeResult c d).partState = s.partState := rfl
@[simp] theorem State.closeResult_resetCause (s : State) (c : Closer) (d : List Word) : (s.closeResult c d).resetCause = s.resetCause := rfl
@[simp] theorem State.closeResult_faultCode (s : State) (c : Closer) (d : List Word) : (s.closeResult c d).faultCode = s.faultCode := rfl
@[simp] theorem State.closeResult_stateChange (s : State) (c : Closer) (d : List Word) : (s.closeResult c d).stateChange = s.stateChange := rfl
@[simp] theorem State.closeResult_overflow (s : State) (c : Closer) (d : List Word) : (s.closeResult c d).overflow = s.overflow := rfl
@[simp] theorem State.closeResult_answerEnable (s : State) (c : Closer) (d : List Word) : (s.closeResult c d).answerEnable = s.answerEnable := rfl
@[simp] theorem State.closeResult_stateChangeEnable (s : State) (c : Closer) (d : List Word) : (s.closeResult c d).stateChangeEnable = s.stateChangeEnable := rfl
@[simp] theorem State.closeResult_overflowEnable (s : State) (c : Closer) (d : List Word) : (s.closeResult c d).overflowEnable = s.overflowEnable := rfl
@[simp] theorem State.closeResult_commandQueue (s : State) (c : Closer) (d : List Word) : (s.closeResult c d).commandQueue = s.commandQueue := rfl
@[simp] theorem State.closeResult_assembler (s : State) (c : Closer) (d : List Word) : (s.closeResult c d).assembler = s.assembler := rfl
@[simp] theorem State.closeResult_pointer (s : State) (c : Closer) (d : List Word) : (s.closeResult c d).pointer = s.pointer := rfl
@[simp] theorem State.closeResult_dataOut (s : State) (c : Closer) (d : List Word) : (s.closeResult c d).dataOut = s.dataOut := rfl
@[simp] theorem State.closeResult_slots (s : State) (c : Closer) (d : List Word) : (s.closeResult c d).slots = s.slots := rfl
@[simp] theorem State.closeResult_profiles (s : State) (c : Closer) (d : List Word) : (s.closeResult c d).profiles = s.profiles := rfl
@[simp] theorem State.closeResult_lines (s : State) (c : Closer) (d : List Word) : (s.closeResult c d).lines = s.lines := rfl
@[simp] theorem State.closeResult_nextSerial (s : State) (c : Closer) (d : List Word) : (s.closeResult c d).nextSerial = s.nextSerial := rfl
@[simp] theorem State.closeResult_valueMemory (s : State) (c : Closer) (d : List Word) : (s.closeResult c d).valueMemory = s.valueMemory := rfl
@[simp] theorem State.closeResult_freeList (s : State) (c : Closer) (d : List Word) : (s.closeResult c d).freeList = s.freeList := rfl
@[simp] theorem State.closeResult_bufferList (s : State) (c : Closer) (d : List Word) : (s.closeResult c d).bufferList = s.bufferList := rfl
@[simp] theorem State.closeResult_waiting (s : State) (c : Closer) (d : List Word) : (s.closeResult c d).waiting = s.waiting := rfl
@[simp] theorem State.closeResult_busQueue (s : State) (c : Closer) (d : List Word) : (s.closeResult c d).busQueue = s.busQueue := rfl
@[simp] theorem State.closeResult_transfer (s : State) (c : Closer) (d : List Word) : (s.closeResult c d).transfer = s.transfer := rfl
@[simp] theorem State.closeResult_transferBuffer (s : State) (c : Closer) (d : List Word) : (s.closeResult c d).transferBuffer = s.transferBuffer := rfl
@[simp] theorem State.closeResult_hostMemory (s : State) (c : Closer) (d : List Word) : (s.closeResult c d).hostMemory = s.hostMemory := rfl
@[simp] theorem State.closeResult_pending (s : State) (c : Closer) (d : List Word) : (s.closeResult c d).pending = s.pending := rfl

/-! ### modInst -/

@[simp] theorem State.modInst_partState (s : State) (l : LineId) (f : Inst → Inst) : (s.modInst l f).partState = s.partState := by unfold State.modInst; split <;> rfl
@[simp] theorem State.modInst_resetCause (s : State) (l : LineId) (f : Inst → Inst) : (s.modInst l f).resetCause = s.resetCause := by unfold State.modInst; split <;> rfl
@[simp] theorem State.modInst_faultCode (s : State) (l : LineId) (f : Inst → Inst) : (s.modInst l f).faultCode = s.faultCode := by unfold State.modInst; split <;> rfl
@[simp] theorem State.modInst_stateChange (s : State) (l : LineId) (f : Inst → Inst) : (s.modInst l f).stateChange = s.stateChange := by unfold State.modInst; split <;> rfl
@[simp] theorem State.modInst_overflow (s : State) (l : LineId) (f : Inst → Inst) : (s.modInst l f).overflow = s.overflow := by unfold State.modInst; split <;> rfl
@[simp] theorem State.modInst_answerEnable (s : State) (l : LineId) (f : Inst → Inst) : (s.modInst l f).answerEnable = s.answerEnable := by unfold State.modInst; split <;> rfl
@[simp] theorem State.modInst_stateChangeEnable (s : State) (l : LineId) (f : Inst → Inst) : (s.modInst l f).stateChangeEnable = s.stateChangeEnable := by unfold State.modInst; split <;> rfl
@[simp] theorem State.modInst_overflowEnable (s : State) (l : LineId) (f : Inst → Inst) : (s.modInst l f).overflowEnable = s.overflowEnable := by unfold State.modInst; split <;> rfl
@[simp] theorem State.modInst_commandQueue (s : State) (l : LineId) (f : Inst → Inst) : (s.modInst l f).commandQueue = s.commandQueue := by unfold State.modInst; split <;> rfl
@[simp] theorem State.modInst_assembler (s : State) (l : LineId) (f : Inst → Inst) : (s.modInst l f).assembler = s.assembler := by unfold State.modInst; split <;> rfl
@[simp] theorem State.modInst_answerQueue (s : State) (l : LineId) (f : Inst → Inst) : (s.modInst l f).answerQueue = s.answerQueue := by unfold State.modInst; split <;> rfl
@[simp] theorem State.modInst_reserved (s : State) (l : LineId) (f : Inst → Inst) : (s.modInst l f).reserved = s.reserved := by unfold State.modInst; split <;> rfl
@[simp] theorem State.modInst_pointer (s : State) (l : LineId) (f : Inst → Inst) : (s.modInst l f).pointer = s.pointer := by unfold State.modInst; split <;> rfl
@[simp] theorem State.modInst_dataOut (s : State) (l : LineId) (f : Inst → Inst) : (s.modInst l f).dataOut = s.dataOut := by unfold State.modInst; split <;> rfl
@[simp] theorem State.modInst_slots (s : State) (l : LineId) (f : Inst → Inst) : (s.modInst l f).slots = s.slots := by unfold State.modInst; split <;> rfl
@[simp] theorem State.modInst_profiles (s : State) (l : LineId) (f : Inst → Inst) : (s.modInst l f).profiles = s.profiles := by unfold State.modInst; split <;> rfl
@[simp] theorem State.modInst_nextSerial (s : State) (l : LineId) (f : Inst → Inst) : (s.modInst l f).nextSerial = s.nextSerial := by unfold State.modInst; split <;> rfl
@[simp] theorem State.modInst_valueMemory (s : State) (l : LineId) (f : Inst → Inst) : (s.modInst l f).valueMemory = s.valueMemory := by unfold State.modInst; split <;> rfl
@[simp] theorem State.modInst_freeList (s : State) (l : LineId) (f : Inst → Inst) : (s.modInst l f).freeList = s.freeList := by unfold State.modInst; split <;> rfl
@[simp] theorem State.modInst_bufferList (s : State) (l : LineId) (f : Inst → Inst) : (s.modInst l f).bufferList = s.bufferList := by unfold State.modInst; split <;> rfl
@[simp] theorem State.modInst_waiting (s : State) (l : LineId) (f : Inst → Inst) : (s.modInst l f).waiting = s.waiting := by unfold State.modInst; split <;> rfl
@[simp] theorem State.modInst_busQueue (s : State) (l : LineId) (f : Inst → Inst) : (s.modInst l f).busQueue = s.busQueue := by unfold State.modInst; split <;> rfl
@[simp] theorem State.modInst_transfer (s : State) (l : LineId) (f : Inst → Inst) : (s.modInst l f).transfer = s.transfer := by unfold State.modInst; split <;> rfl
@[simp] theorem State.modInst_transferBuffer (s : State) (l : LineId) (f : Inst → Inst) : (s.modInst l f).transferBuffer = s.transferBuffer := by unfold State.modInst; split <;> rfl
@[simp] theorem State.modInst_hostMemory (s : State) (l : LineId) (f : Inst → Inst) : (s.modInst l f).hostMemory = s.hostMemory := by unfold State.modInst; split <;> rfl
@[simp] theorem State.modInst_pending (s : State) (l : LineId) (f : Inst → Inst) : (s.modInst l f).pending = s.pending := by unfold State.modInst; split <;> rfl

/-! ### modField -/

@[simp] theorem State.modField_partState (s : State) (l : LineId) (n : Nat) (f : FieldRec → FieldRec) : (s.modField l n f).partState = s.partState := by simp [State.modField]
@[simp] theorem State.modField_resetCause (s : State) (l : LineId) (n : Nat) (f : FieldRec → FieldRec) : (s.modField l n f).resetCause = s.resetCause := by simp [State.modField]
@[simp] theorem State.modField_faultCode (s : State) (l : LineId) (n : Nat) (f : FieldRec → FieldRec) : (s.modField l n f).faultCode = s.faultCode := by simp [State.modField]
@[simp] theorem State.modField_stateChange (s : State) (l : LineId) (n : Nat) (f : FieldRec → FieldRec) : (s.modField l n f).stateChange = s.stateChange := by simp [State.modField]
@[simp] theorem State.modField_overflow (s : State) (l : LineId) (n : Nat) (f : FieldRec → FieldRec) : (s.modField l n f).overflow = s.overflow := by simp [State.modField]
@[simp] theorem State.modField_answerEnable (s : State) (l : LineId) (n : Nat) (f : FieldRec → FieldRec) : (s.modField l n f).answerEnable = s.answerEnable := by simp [State.modField]
@[simp] theorem State.modField_stateChangeEnable (s : State) (l : LineId) (n : Nat) (f : FieldRec → FieldRec) : (s.modField l n f).stateChangeEnable = s.stateChangeEnable := by simp [State.modField]
@[simp] theorem State.modField_overflowEnable (s : State) (l : LineId) (n : Nat) (f : FieldRec → FieldRec) : (s.modField l n f).overflowEnable = s.overflowEnable := by simp [State.modField]
@[simp] theorem State.modField_commandQueue (s : State) (l : LineId) (n : Nat) (f : FieldRec → FieldRec) : (s.modField l n f).commandQueue = s.commandQueue := by simp [State.modField]
@[simp] theorem State.modField_assembler (s : State) (l : LineId) (n : Nat) (f : FieldRec → FieldRec) : (s.modField l n f).assembler = s.assembler := by simp [State.modField]
@[simp] theorem State.modField_answerQueue (s : State) (l : LineId) (n : Nat) (f : FieldRec → FieldRec) : (s.modField l n f).answerQueue = s.answerQueue := by simp [State.modField]
@[simp] theorem State.modField_reserved (s : State) (l : LineId) (n : Nat) (f : FieldRec → FieldRec) : (s.modField l n f).reserved = s.reserved := by simp [State.modField]
@[simp] theorem State.modField_pointer (s : State) (l : LineId) (n : Nat) (f : FieldRec → FieldRec) : (s.modField l n f).pointer = s.pointer := by simp [State.modField]
@[simp] theorem State.modField_dataOut (s : State) (l : LineId) (n : Nat) (f : FieldRec → FieldRec) : (s.modField l n f).dataOut = s.dataOut := by simp [State.modField]
@[simp] theorem State.modField_slots (s : State) (l : LineId) (n : Nat) (f : FieldRec → FieldRec) : (s.modField l n f).slots = s.slots := by simp [State.modField]
@[simp] theorem State.modField_profiles (s : State) (l : LineId) (n : Nat) (f : FieldRec → FieldRec) : (s.modField l n f).profiles = s.profiles := by simp [State.modField]
@[simp] theorem State.modField_nextSerial (s : State) (l : LineId) (n : Nat) (f : FieldRec → FieldRec) : (s.modField l n f).nextSerial = s.nextSerial := by simp [State.modField]
@[simp] theorem State.modField_valueMemory (s : State) (l : LineId) (n : Nat) (f : FieldRec → FieldRec) : (s.modField l n f).valueMemory = s.valueMemory := by simp [State.modField]
@[simp] theorem State.modField_freeList (s : State) (l : LineId) (n : Nat) (f : FieldRec → FieldRec) : (s.modField l n f).freeList = s.freeList := by simp [State.modField]
@[simp] theorem State.modField_bufferList (s : State) (l : LineId) (n : Nat) (f : FieldRec → FieldRec) : (s.modField l n f).bufferList = s.bufferList := by simp [State.modField]
@[simp] theorem State.modField_waiting (s : State) (l : LineId) (n : Nat) (f : FieldRec → FieldRec) : (s.modField l n f).waiting = s.waiting := by simp [State.modField]
@[simp] theorem State.modField_busQueue (s : State) (l : LineId) (n : Nat) (f : FieldRec → FieldRec) : (s.modField l n f).busQueue = s.busQueue := by simp [State.modField]
@[simp] theorem State.modField_transfer (s : State) (l : LineId) (n : Nat) (f : FieldRec → FieldRec) : (s.modField l n f).transfer = s.transfer := by simp [State.modField]
@[simp] theorem State.modField_transferBuffer (s : State) (l : LineId) (n : Nat) (f : FieldRec → FieldRec) : (s.modField l n f).transferBuffer = s.transferBuffer := by simp [State.modField]
@[simp] theorem State.modField_hostMemory (s : State) (l : LineId) (n : Nat) (f : FieldRec → FieldRec) : (s.modField l n f).hostMemory = s.hostMemory := by simp [State.modField]
@[simp] theorem State.modField_pending (s : State) (l : LineId) (n : Nat) (f : FieldRec → FieldRec) : (s.modField l n f).pending = s.pending := by simp [State.modField]

/-! ### putValue -/

@[simp] theorem State.putValue_partState (s : State) (l : LineId) (n : Nat) (v : List Byte) : (s.putValue l n v).partState = s.partState := by simp [State.putValue]
@[simp] theorem State.putValue_resetCause (s : State) (l : LineId) (n : Nat) (v : List Byte) : (s.putValue l n v).resetCause = s.resetCause := by simp [State.putValue]
@[simp] theorem State.putValue_faultCode (s : State) (l : LineId) (n : Nat) (v : List Byte) : (s.putValue l n v).faultCode = s.faultCode := by simp [State.putValue]
@[simp] theorem State.putValue_stateChange (s : State) (l : LineId) (n : Nat) (v : List Byte) : (s.putValue l n v).stateChange = s.stateChange := by simp [State.putValue]
@[simp] theorem State.putValue_overflow (s : State) (l : LineId) (n : Nat) (v : List Byte) : (s.putValue l n v).overflow = s.overflow := by simp [State.putValue]
@[simp] theorem State.putValue_answerEnable (s : State) (l : LineId) (n : Nat) (v : List Byte) : (s.putValue l n v).answerEnable = s.answerEnable := by simp [State.putValue]
@[simp] theorem State.putValue_stateChangeEnable (s : State) (l : LineId) (n : Nat) (v : List Byte) : (s.putValue l n v).stateChangeEnable = s.stateChangeEnable := by simp [State.putValue]
@[simp] theorem State.putValue_overflowEnable (s : State) (l : LineId) (n : Nat) (v : List Byte) : (s.putValue l n v).overflowEnable = s.overflowEnable := by simp [State.putValue]
@[simp] theorem State.putValue_commandQueue (s : State) (l : LineId) (n : Nat) (v : List Byte) : (s.putValue l n v).commandQueue = s.commandQueue := by simp [State.putValue]
@[simp] theorem State.putValue_assembler (s : State) (l : LineId) (n : Nat) (v : List Byte) : (s.putValue l n v).assembler = s.assembler := by simp [State.putValue]
@[simp] theorem State.putValue_answerQueue (s : State) (l : LineId) (n : Nat) (v : List Byte) : (s.putValue l n v).answerQueue = s.answerQueue := by simp [State.putValue]
@[simp] theorem State.putValue_reserved (s : State) (l : LineId) (n : Nat) (v : List Byte) : (s.putValue l n v).reserved = s.reserved := by simp [State.putValue]
@[simp] theorem State.putValue_pointer (s : State) (l : LineId) (n : Nat) (v : List Byte) : (s.putValue l n v).pointer = s.pointer := by simp [State.putValue]
@[simp] theorem State.putValue_dataOut (s : State) (l : LineId) (n : Nat) (v : List Byte) : (s.putValue l n v).dataOut = s.dataOut := by simp [State.putValue]
@[simp] theorem State.putValue_slots (s : State) (l : LineId) (n : Nat) (v : List Byte) : (s.putValue l n v).slots = s.slots := by simp [State.putValue]
@[simp] theorem State.putValue_profiles (s : State) (l : LineId) (n : Nat) (v : List Byte) : (s.putValue l n v).profiles = s.profiles := by simp [State.putValue]
@[simp] theorem State.putValue_nextSerial (s : State) (l : LineId) (n : Nat) (v : List Byte) : (s.putValue l n v).nextSerial = s.nextSerial := by simp [State.putValue]
@[simp] theorem State.putValue_freeList (s : State) (l : LineId) (n : Nat) (v : List Byte) : (s.putValue l n v).freeList = s.freeList := by simp [State.putValue]
@[simp] theorem State.putValue_bufferList (s : State) (l : LineId) (n : Nat) (v : List Byte) : (s.putValue l n v).bufferList = s.bufferList := by simp [State.putValue]
@[simp] theorem State.putValue_waiting (s : State) (l : LineId) (n : Nat) (v : List Byte) : (s.putValue l n v).waiting = s.waiting := by simp [State.putValue]
@[simp] theorem State.putValue_busQueue (s : State) (l : LineId) (n : Nat) (v : List Byte) : (s.putValue l n v).busQueue = s.busQueue := by simp [State.putValue]
@[simp] theorem State.putValue_transfer (s : State) (l : LineId) (n : Nat) (v : List Byte) : (s.putValue l n v).transfer = s.transfer := by simp [State.putValue]
@[simp] theorem State.putValue_transferBuffer (s : State) (l : LineId) (n : Nat) (v : List Byte) : (s.putValue l n v).transferBuffer = s.transferBuffer := by simp [State.putValue]
@[simp] theorem State.putValue_hostMemory (s : State) (l : LineId) (n : Nat) (v : List Byte) : (s.putValue l n v).hostMemory = s.hostMemory := by simp [State.putValue]
@[simp] theorem State.putValue_pending (s : State) (l : LineId) (n : Nat) (v : List Byte) : (s.putValue l n v).pending = s.pending := by simp [State.putValue]

/-! ### changeValue -/

@[simp] theorem State.changeValue_partState (s : State) (l : LineId) (n : Nat) (v : List Byte) (p : Nat) : (s.changeValue l n v p).partState = s.partState := by simp [State.changeValue]
@[simp] theorem State.changeValue_resetCause (s : State) (l : LineId) (n : Nat) (v : List Byte) (p : Nat) : (s.changeValue l n v p).resetCause = s.resetCause := by simp [State.changeValue]
@[simp] theorem State.changeValue_faultCode (s : State) (l : LineId) (n : Nat) (v : List Byte) (p : Nat) : (s.changeValue l n v p).faultCode = s.faultCode := by simp [State.changeValue]
@[simp] theorem State.changeValue_stateChange (s : State) (l : LineId) (n : Nat) (v : List Byte) (p : Nat) : (s.changeValue l n v p).stateChange = s.stateChange := by simp [State.changeValue]
@[simp] theorem State.changeValue_overflow (s : State) (l : LineId) (n : Nat) (v : List Byte) (p : Nat) : (s.changeValue l n v p).overflow = s.overflow := by simp [State.changeValue]
@[simp] theorem State.changeValue_answerEnable (s : State) (l : LineId) (n : Nat) (v : List Byte) (p : Nat) : (s.changeValue l n v p).answerEnable = s.answerEnable := by simp [State.changeValue]
@[simp] theorem State.changeValue_stateChangeEnable (s : State) (l : LineId) (n : Nat) (v : List Byte) (p : Nat) : (s.changeValue l n v p).stateChangeEnable = s.stateChangeEnable := by simp [State.changeValue]
@[simp] theorem State.changeValue_overflowEnable (s : State) (l : LineId) (n : Nat) (v : List Byte) (p : Nat) : (s.changeValue l n v p).overflowEnable = s.overflowEnable := by simp [State.changeValue]
@[simp] theorem State.changeValue_commandQueue (s : State) (l : LineId) (n : Nat) (v : List Byte) (p : Nat) : (s.changeValue l n v p).commandQueue = s.commandQueue := by simp [State.changeValue]
@[simp] theorem State.changeValue_assembler (s : State) (l : LineId) (n : Nat) (v : List Byte) (p : Nat) : (s.changeValue l n v p).assembler = s.assembler := by simp [State.changeValue]
@[simp] theorem State.changeValue_answerQueue (s : State) (l : LineId) (n : Nat) (v : List Byte) (p : Nat) : (s.changeValue l n v p).answerQueue = s.answerQueue := by simp [State.changeValue]
@[simp] theorem State.changeValue_reserved (s : State) (l : LineId) (n : Nat) (v : List Byte) (p : Nat) : (s.changeValue l n v p).reserved = s.reserved := by simp [State.changeValue]
@[simp] theorem State.changeValue_pointer (s : State) (l : LineId) (n : Nat) (v : List Byte) (p : Nat) : (s.changeValue l n v p).pointer = s.pointer := by simp [State.changeValue]
@[simp] theorem State.changeValue_dataOut (s : State) (l : LineId) (n : Nat) (v : List Byte) (p : Nat) : (s.changeValue l n v p).dataOut = s.dataOut := by simp [State.changeValue]
@[simp] theorem State.changeValue_slots (s : State) (l : LineId) (n : Nat) (v : List Byte) (p : Nat) : (s.changeValue l n v p).slots = s.slots := by simp [State.changeValue]
@[simp] theorem State.changeValue_profiles (s : State) (l : LineId) (n : Nat) (v : List Byte) (p : Nat) : (s.changeValue l n v p).profiles = s.profiles := by simp [State.changeValue]
@[simp] theorem State.changeValue_nextSerial (s : State) (l : LineId) (n : Nat) (v : List Byte) (p : Nat) : (s.changeValue l n v p).nextSerial = s.nextSerial := by simp [State.changeValue]
@[simp] theorem State.changeValue_freeList (s : State) (l : LineId) (n : Nat) (v : List Byte) (p : Nat) : (s.changeValue l n v p).freeList = s.freeList := by simp [State.changeValue]
@[simp] theorem State.changeValue_bufferList (s : State) (l : LineId) (n : Nat) (v : List Byte) (p : Nat) : (s.changeValue l n v p).bufferList = s.bufferList := by simp [State.changeValue]
@[simp] theorem State.changeValue_waiting (s : State) (l : LineId) (n : Nat) (v : List Byte) (p : Nat) : (s.changeValue l n v p).waiting = s.waiting := by simp [State.changeValue]
@[simp] theorem State.changeValue_busQueue (s : State) (l : LineId) (n : Nat) (v : List Byte) (p : Nat) : (s.changeValue l n v p).busQueue = s.busQueue := by simp [State.changeValue]
@[simp] theorem State.changeValue_transfer (s : State) (l : LineId) (n : Nat) (v : List Byte) (p : Nat) : (s.changeValue l n v p).transfer = s.transfer := by simp [State.changeValue]
@[simp] theorem State.changeValue_transferBuffer (s : State) (l : LineId) (n : Nat) (v : List Byte) (p : Nat) : (s.changeValue l n v p).transferBuffer = s.transferBuffer := by simp [State.changeValue]
@[simp] theorem State.changeValue_hostMemory (s : State) (l : LineId) (n : Nat) (v : List Byte) (p : Nat) : (s.changeValue l n v p).hostMemory = s.hostMemory := by simp [State.changeValue]
@[simp] theorem State.changeValue_pending (s : State) (l : LineId) (n : Nat) (v : List Byte) (p : Nat) : (s.changeValue l n v p).pending = s.pending := by simp [State.changeValue]

/-! ### recheck -/

@[simp] theorem State.recheck_partState (s : State) (l : LineId) (n : Nat) : (s.recheck l n).partState = s.partState := by simp [State.recheck]
@[simp] theorem State.recheck_resetCause (s : State) (l : LineId) (n : Nat) : (s.recheck l n).resetCause = s.resetCause := by simp [State.recheck]
@[simp] theorem State.recheck_faultCode (s : State) (l : LineId) (n : Nat) : (s.recheck l n).faultCode = s.faultCode := by simp [State.recheck]
@[simp] theorem State.recheck_stateChange (s : State) (l : LineId) (n : Nat) : (s.recheck l n).stateChange = s.stateChange := by simp [State.recheck]
@[simp] theorem State.recheck_overflow (s : State) (l : LineId) (n : Nat) : (s.recheck l n).overflow = s.overflow := by simp [State.recheck]
@[simp] theorem State.recheck_answerEnable (s : State) (l : LineId) (n : Nat) : (s.recheck l n).answerEnable = s.answerEnable := by simp [State.recheck]
@[simp] theorem State.recheck_stateChangeEnable (s : State) (l : LineId) (n : Nat) : (s.recheck l n).stateChangeEnable = s.stateChangeEnable := by simp [State.recheck]
@[simp] theorem State.recheck_overflowEnable (s : State) (l : LineId) (n : Nat) : (s.recheck l n).overflowEnable = s.overflowEnable := by simp [State.recheck]
@[simp] theorem State.recheck_commandQueue (s : State) (l : LineId) (n : Nat) : (s.recheck l n).commandQueue = s.commandQueue := by simp [State.recheck]
@[simp] theorem State.recheck_assembler (s : State) (l : LineId) (n : Nat) : (s.recheck l n).assembler = s.assembler := by simp [State.recheck]
@[simp] theorem State.recheck_answerQueue (s : State) (l : LineId) (n : Nat) : (s.recheck l n).answerQueue = s.answerQueue := by simp [State.recheck]
@[simp] theorem State.recheck_reserved (s : State) (l : LineId) (n : Nat) : (s.recheck l n).reserved = s.reserved := by simp [State.recheck]
@[simp] theorem State.recheck_pointer (s : State) (l : LineId) (n : Nat) : (s.recheck l n).pointer = s.pointer := by simp [State.recheck]
@[simp] theorem State.recheck_dataOut (s : State) (l : LineId) (n : Nat) : (s.recheck l n).dataOut = s.dataOut := by simp [State.recheck]
@[simp] theorem State.recheck_slots (s : State) (l : LineId) (n : Nat) : (s.recheck l n).slots = s.slots := by simp [State.recheck]
@[simp] theorem State.recheck_profiles (s : State) (l : LineId) (n : Nat) : (s.recheck l n).profiles = s.profiles := by simp [State.recheck]
@[simp] theorem State.recheck_nextSerial (s : State) (l : LineId) (n : Nat) : (s.recheck l n).nextSerial = s.nextSerial := by simp [State.recheck]
@[simp] theorem State.recheck_valueMemory (s : State) (l : LineId) (n : Nat) : (s.recheck l n).valueMemory = s.valueMemory := by simp [State.recheck]
@[simp] theorem State.recheck_freeList (s : State) (l : LineId) (n : Nat) : (s.recheck l n).freeList = s.freeList := by simp [State.recheck]
@[simp] theorem State.recheck_bufferList (s : State) (l : LineId) (n : Nat) : (s.recheck l n).bufferList = s.bufferList := by simp [State.recheck]
@[simp] theorem State.recheck_waiting (s : State) (l : LineId) (n : Nat) : (s.recheck l n).waiting = s.waiting := by simp [State.recheck]
@[simp] theorem State.recheck_busQueue (s : State) (l : LineId) (n : Nat) : (s.recheck l n).busQueue = s.busQueue := by simp [State.recheck]
@[simp] theorem State.recheck_transfer (s : State) (l : LineId) (n : Nat) : (s.recheck l n).transfer = s.transfer := by simp [State.recheck]
@[simp] theorem State.recheck_transferBuffer (s : State) (l : LineId) (n : Nat) : (s.recheck l n).transferBuffer = s.transferBuffer := by simp [State.recheck]
@[simp] theorem State.recheck_hostMemory (s : State) (l : LineId) (n : Nat) : (s.recheck l n).hostMemory = s.hostMemory := by simp [State.recheck]
@[simp] theorem State.recheck_pending (s : State) (l : LineId) (n : Nat) : (s.recheck l n).pending = s.pending := by simp [State.recheck]

/-! ### hostWrite -/

@[simp] theorem State.hostWrite_partState (s : State) (l : LineId) (n : Nat) (v : List Byte) : (s.hostWrite l n v).partState = s.partState := by simp [State.hostWrite]
@[simp] theorem State.hostWrite_resetCause (s : State) (l : LineId) (n : Nat) (v : List Byte) : (s.hostWrite l n v).resetCause = s.resetCause := by simp [State.hostWrite]
@[simp] theorem State.hostWrite_faultCode (s : State) (l : LineId) (n : Nat) (v : List Byte) : (s.hostWrite l n v).faultCode = s.faultCode := by simp [State.hostWrite]
@[simp] theorem State.hostWrite_stateChange (s : State) (l : LineId) (n : Nat) (v : List Byte) : (s.hostWrite l n v).stateChange = s.stateChange := by simp [State.hostWrite]
@[simp] theorem State.hostWrite_overflow (s : State) (l : LineId) (n : Nat) (v : List Byte) : (s.hostWrite l n v).overflow = s.overflow := by simp [State.hostWrite]
@[simp] theorem State.hostWrite_answerEnable (s : State) (l : LineId) (n : Nat) (v : List Byte) : (s.hostWrite l n v).answerEnable = s.answerEnable := by simp [State.hostWrite]
@[simp] theorem State.hostWrite_stateChangeEnable (s : State) (l : LineId) (n : Nat) (v : List Byte) : (s.hostWrite l n v).stateChangeEnable = s.stateChangeEnable := by simp [State.hostWrite]
@[simp] theorem State.hostWrite_overflowEnable (s : State) (l : LineId) (n : Nat) (v : List Byte) : (s.hostWrite l n v).overflowEnable = s.overflowEnable := by simp [State.hostWrite]
@[simp] theorem State.hostWrite_commandQueue (s : State) (l : LineId) (n : Nat) (v : List Byte) : (s.hostWrite l n v).commandQueue = s.commandQueue := by simp [State.hostWrite]
@[simp] theorem State.hostWrite_assembler (s : State) (l : LineId) (n : Nat) (v : List Byte) : (s.hostWrite l n v).assembler = s.assembler := by simp [State.hostWrite]
@[simp] theorem State.hostWrite_answerQueue (s : State) (l : LineId) (n : Nat) (v : List Byte) : (s.hostWrite l n v).answerQueue = s.answerQueue := by simp [State.hostWrite]
@[simp] theorem State.hostWrite_reserved (s : State) (l : LineId) (n : Nat) (v : List Byte) : (s.hostWrite l n v).reserved = s.reserved := by simp [State.hostWrite]
@[simp] theorem State.hostWrite_pointer (s : State) (l : LineId) (n : Nat) (v : List Byte) : (s.hostWrite l n v).pointer = s.pointer := by simp [State.hostWrite]
@[simp] theorem State.hostWrite_dataOut (s : State) (l : LineId) (n : Nat) (v : List Byte) : (s.hostWrite l n v).dataOut = s.dataOut := by simp [State.hostWrite]
@[simp] theorem State.hostWrite_slots (s : State) (l : LineId) (n : Nat) (v : List Byte) : (s.hostWrite l n v).slots = s.slots := by simp [State.hostWrite]
@[simp] theorem State.hostWrite_profiles (s : State) (l : LineId) (n : Nat) (v : List Byte) : (s.hostWrite l n v).profiles = s.profiles := by simp [State.hostWrite]
@[simp] theorem State.hostWrite_nextSerial (s : State) (l : LineId) (n : Nat) (v : List Byte) : (s.hostWrite l n v).nextSerial = s.nextSerial := by simp [State.hostWrite]
@[simp] theorem State.hostWrite_freeList (s : State) (l : LineId) (n : Nat) (v : List Byte) : (s.hostWrite l n v).freeList = s.freeList := by simp [State.hostWrite]
@[simp] theorem State.hostWrite_bufferList (s : State) (l : LineId) (n : Nat) (v : List Byte) : (s.hostWrite l n v).bufferList = s.bufferList := by simp [State.hostWrite]
@[simp] theorem State.hostWrite_waiting (s : State) (l : LineId) (n : Nat) (v : List Byte) : (s.hostWrite l n v).waiting = s.waiting := by simp [State.hostWrite]
@[simp] theorem State.hostWrite_busQueue (s : State) (l : LineId) (n : Nat) (v : List Byte) : (s.hostWrite l n v).busQueue = s.busQueue := by simp [State.hostWrite]
@[simp] theorem State.hostWrite_transfer (s : State) (l : LineId) (n : Nat) (v : List Byte) : (s.hostWrite l n v).transfer = s.transfer := by simp [State.hostWrite]
@[simp] theorem State.hostWrite_transferBuffer (s : State) (l : LineId) (n : Nat) (v : List Byte) : (s.hostWrite l n v).transferBuffer = s.transferBuffer := by simp [State.hostWrite]
@[simp] theorem State.hostWrite_hostMemory (s : State) (l : LineId) (n : Nat) (v : List Byte) : (s.hostWrite l n v).hostMemory = s.hostMemory := by simp [State.hostWrite]
@[simp] theorem State.hostWrite_pending (s : State) (l : LineId) (n : Nat) (v : List Byte) : (s.hostWrite l n v).pending = s.pending := by simp [State.hostWrite]

/-! ### presetWrite -/

@[simp] theorem State.presetWrite_partState (s : State) (l : LineId) (n : Nat) (v : List Byte) : (s.presetWrite l n v).partState = s.partState := by simp [State.presetWrite]
@[simp] theorem State.presetWrite_resetCause (s : State) (l : LineId) (n : Nat) (v : List Byte) : (s.presetWrite l n v).resetCause = s.resetCause := by simp [State.presetWrite]
@[simp] theorem State.presetWrite_faultCode (s : State) (l : LineId) (n : Nat) (v : List Byte) : (s.presetWrite l n v).faultCode = s.faultCode := by simp [State.presetWrite]
@[simp] theorem State.presetWrite_stateChange (s : State) (l : LineId) (n : Nat) (v : List Byte) : (s.presetWrite l n v).stateChange = s.stateChange := by simp [State.presetWrite]
@[simp] theorem State.presetWrite_overflow (s : State) (l : LineId) (n : Nat) (v : List Byte) : (s.presetWrite l n v).overflow = s.overflow := by simp [State.presetWrite]
@[simp] theorem State.presetWrite_answerEnable (s : State) (l : LineId) (n : Nat) (v : List Byte) : (s.presetWrite l n v).answerEnable = s.answerEnable := by simp [State.presetWrite]
@[simp] theorem State.presetWrite_stateChangeEnable (s : State) (l : LineId) (n : Nat) (v : List Byte) : (s.presetWrite l n v).stateChangeEnable = s.stateChangeEnable := by simp [State.presetWrite]
@[simp] theorem State.presetWrite_overflowEnable (s : State) (l : LineId) (n : Nat) (v : List Byte) : (s.presetWrite l n v).overflowEnable = s.overflowEnable := by simp [State.presetWrite]
@[simp] theorem State.presetWrite_commandQueue (s : State) (l : LineId) (n : Nat) (v : List Byte) : (s.presetWrite l n v).commandQueue = s.commandQueue := by simp [State.presetWrite]
@[simp] theorem State.presetWrite_assembler (s : State) (l : LineId) (n : Nat) (v : List Byte) : (s.presetWrite l n v).assembler = s.assembler := by simp [State.presetWrite]
@[simp] theorem State.presetWrite_answerQueue (s : State) (l : LineId) (n : Nat) (v : List Byte) : (s.presetWrite l n v).answerQueue = s.answerQueue := by simp [State.presetWrite]
@[simp] theorem State.presetWrite_reserved (s : State) (l : LineId) (n : Nat) (v : List Byte) : (s.presetWrite l n v).reserved = s.reserved := by simp [State.presetWrite]
@[simp] theorem State.presetWrite_pointer (s : State) (l : LineId) (n : Nat) (v : List Byte) : (s.presetWrite l n v).pointer = s.pointer := by simp [State.presetWrite]
@[simp] theorem State.presetWrite_dataOut (s : State) (l : LineId) (n : Nat) (v : List Byte) : (s.presetWrite l n v).dataOut = s.dataOut := by simp [State.presetWrite]
@[simp] theorem State.presetWrite_slots (s : State) (l : LineId) (n : Nat) (v : List Byte) : (s.presetWrite l n v).slots = s.slots := by simp [State.presetWrite]
@[simp] theorem State.presetWrite_profiles (s : State) (l : LineId) (n : Nat) (v : List Byte) : (s.presetWrite l n v).profiles = s.profiles := by simp [State.presetWrite]
@[simp] theorem State.presetWrite_nextSerial (s : State) (l : LineId) (n : Nat) (v : List Byte) : (s.presetWrite l n v).nextSerial = s.nextSerial := by simp [State.presetWrite]
@[simp] theorem State.presetWrite_freeList (s : State) (l : LineId) (n : Nat) (v : List Byte) : (s.presetWrite l n v).freeList = s.freeList := by simp [State.presetWrite]
@[simp] theorem State.presetWrite_bufferList (s : State) (l : LineId) (n : Nat) (v : List Byte) : (s.presetWrite l n v).bufferList = s.bufferList := by simp [State.presetWrite]
@[simp] theorem State.presetWrite_waiting (s : State) (l : LineId) (n : Nat) (v : List Byte) : (s.presetWrite l n v).waiting = s.waiting := by simp [State.presetWrite]
@[simp] theorem State.presetWrite_busQueue (s : State) (l : LineId) (n : Nat) (v : List Byte) : (s.presetWrite l n v).busQueue = s.busQueue := by simp [State.presetWrite]
@[simp] theorem State.presetWrite_transfer (s : State) (l : LineId) (n : Nat) (v : List Byte) : (s.presetWrite l n v).transfer = s.transfer := by simp [State.presetWrite]
@[simp] theorem State.presetWrite_transferBuffer (s : State) (l : LineId) (n : Nat) (v : List Byte) : (s.presetWrite l n v).transferBuffer = s.transferBuffer := by simp [State.presetWrite]
@[simp] theorem State.presetWrite_hostMemory (s : State) (l : LineId) (n : Nat) (v : List Byte) : (s.presetWrite l n v).hostMemory = s.hostMemory := by simp [State.presetWrite]
@[simp] theorem State.presetWrite_pending (s : State) (l : LineId) (n : Nat) (v : List Byte) : (s.presetWrite l n v).pending = s.pending := by simp [State.presetWrite]

/-! ### openingValues -/

@[simp] theorem State.openingValues_partState (s : State) (l : LineId) : (s.openingValues l).partState = s.partState := by simp [State.openingValues]
@[simp] theorem State.openingValues_resetCause (s : State) (l : LineId) : (s.openingValues l).resetCause = s.resetCause := by simp [State.openingValues]
@[simp] theorem State.openingValues_faultCode (s : State) (l : LineId) : (s.openingValues l).faultCode = s.faultCode := by simp [State.openingValues]
@[simp] theorem State.openingValues_stateChange (s : State) (l : LineId) : (s.openingValues l).stateChange = s.stateChange := by simp [State.openingValues]
@[simp] theorem State.openingValues_overflow (s : State) (l : LineId) : (s.openingValues l).overflow = s.overflow := by simp [State.openingValues]
@[simp] theorem State.openingValues_answerEnable (s : State) (l : LineId) : (s.openingValues l).answerEnable = s.answerEnable := by simp [State.openingValues]
@[simp] theorem State.openingValues_stateChangeEnable (s : State) (l : LineId) : (s.openingValues l).stateChangeEnable = s.stateChangeEnable := by simp [State.openingValues]
@[simp] theorem State.openingValues_overflowEnable (s : State) (l : LineId) : (s.openingValues l).overflowEnable = s.overflowEnable := by simp [State.openingValues]
@[simp] theorem State.openingValues_commandQueue (s : State) (l : LineId) : (s.openingValues l).commandQueue = s.commandQueue := by simp [State.openingValues]
@[simp] theorem State.openingValues_assembler (s : State) (l : LineId) : (s.openingValues l).assembler = s.assembler := by simp [State.openingValues]
@[simp] theorem State.openingValues_answerQueue (s : State) (l : LineId) : (s.openingValues l).answerQueue = s.answerQueue := by simp [State.openingValues]
@[simp] theorem State.openingValues_reserved (s : State) (l : LineId) : (s.openingValues l).reserved = s.reserved := by simp [State.openingValues]
@[simp] theorem State.openingValues_pointer (s : State) (l : LineId) : (s.openingValues l).pointer = s.pointer := by simp [State.openingValues]
@[simp] theorem State.openingValues_dataOut (s : State) (l : LineId) : (s.openingValues l).dataOut = s.dataOut := by simp [State.openingValues]
@[simp] theorem State.openingValues_slots (s : State) (l : LineId) : (s.openingValues l).slots = s.slots := by simp [State.openingValues]
@[simp] theorem State.openingValues_profiles (s : State) (l : LineId) : (s.openingValues l).profiles = s.profiles := by simp [State.openingValues]
@[simp] theorem State.openingValues_nextSerial (s : State) (l : LineId) : (s.openingValues l).nextSerial = s.nextSerial := by simp [State.openingValues]
@[simp] theorem State.openingValues_freeList (s : State) (l : LineId) : (s.openingValues l).freeList = s.freeList := by simp [State.openingValues]
@[simp] theorem State.openingValues_bufferList (s : State) (l : LineId) : (s.openingValues l).bufferList = s.bufferList := by simp [State.openingValues]
@[simp] theorem State.openingValues_waiting (s : State) (l : LineId) : (s.openingValues l).waiting = s.waiting := by simp [State.openingValues]
@[simp] theorem State.openingValues_busQueue (s : State) (l : LineId) : (s.openingValues l).busQueue = s.busQueue := by simp [State.openingValues]
@[simp] theorem State.openingValues_transfer (s : State) (l : LineId) : (s.openingValues l).transfer = s.transfer := by simp [State.openingValues]
@[simp] theorem State.openingValues_transferBuffer (s : State) (l : LineId) : (s.openingValues l).transferBuffer = s.transferBuffer := by simp [State.openingValues]
@[simp] theorem State.openingValues_hostMemory (s : State) (l : LineId) : (s.openingValues l).hostMemory = s.hostMemory := by simp [State.openingValues]
@[simp] theorem State.openingValues_pending (s : State) (l : LineId) : (s.openingValues l).pending = s.pending := by simp [State.openingValues]

/-! ### fullRepaint -/

@[simp] theorem State.fullRepaint_partState (s : State) (l : LineId) : (s.fullRepaint l).partState = s.partState := by simp [State.fullRepaint]
@[simp] theorem State.fullRepaint_resetCause (s : State) (l : LineId) : (s.fullRepaint l).resetCause = s.resetCause := by simp [State.fullRepaint]
@[simp] theorem State.fullRepaint_faultCode (s : State) (l : LineId) : (s.fullRepaint l).faultCode = s.faultCode := by simp [State.fullRepaint]
@[simp] theorem State.fullRepaint_stateChange (s : State) (l : LineId) : (s.fullRepaint l).stateChange = s.stateChange := by simp [State.fullRepaint]
@[simp] theorem State.fullRepaint_overflow (s : State) (l : LineId) : (s.fullRepaint l).overflow = s.overflow := by simp [State.fullRepaint]
@[simp] theorem State.fullRepaint_answerEnable (s : State) (l : LineId) : (s.fullRepaint l).answerEnable = s.answerEnable := by simp [State.fullRepaint]
@[simp] theorem State.fullRepaint_stateChangeEnable (s : State) (l : LineId) : (s.fullRepaint l).stateChangeEnable = s.stateChangeEnable := by simp [State.fullRepaint]
@[simp] theorem State.fullRepaint_overflowEnable (s : State) (l : LineId) : (s.fullRepaint l).overflowEnable = s.overflowEnable := by simp [State.fullRepaint]
@[simp] theorem State.fullRepaint_commandQueue (s : State) (l : LineId) : (s.fullRepaint l).commandQueue = s.commandQueue := by simp [State.fullRepaint]
@[simp] theorem State.fullRepaint_assembler (s : State) (l : LineId) : (s.fullRepaint l).assembler = s.assembler := by simp [State.fullRepaint]
@[simp] theorem State.fullRepaint_answerQueue (s : State) (l : LineId) : (s.fullRepaint l).answerQueue = s.answerQueue := by simp [State.fullRepaint]
@[simp] theorem State.fullRepaint_reserved (s : State) (l : LineId) : (s.fullRepaint l).reserved = s.reserved := by simp [State.fullRepaint]
@[simp] theorem State.fullRepaint_pointer (s : State) (l : LineId) : (s.fullRepaint l).pointer = s.pointer := by simp [State.fullRepaint]
@[simp] theorem State.fullRepaint_dataOut (s : State) (l : LineId) : (s.fullRepaint l).dataOut = s.dataOut := by simp [State.fullRepaint]
@[simp] theorem State.fullRepaint_slots (s : State) (l : LineId) : (s.fullRepaint l).slots = s.slots := by simp [State.fullRepaint]
@[simp] theorem State.fullRepaint_profiles (s : State) (l : LineId) : (s.fullRepaint l).profiles = s.profiles := by simp [State.fullRepaint]
@[simp] theorem State.fullRepaint_nextSerial (s : State) (l : LineId) : (s.fullRepaint l).nextSerial = s.nextSerial := by simp [State.fullRepaint]
@[simp] theorem State.fullRepaint_valueMemory (s : State) (l : LineId) : (s.fullRepaint l).valueMemory = s.valueMemory := by simp [State.fullRepaint]
@[simp] theorem State.fullRepaint_freeList (s : State) (l : LineId) : (s.fullRepaint l).freeList = s.freeList := by simp [State.fullRepaint]
@[simp] theorem State.fullRepaint_bufferList (s : State) (l : LineId) : (s.fullRepaint l).bufferList = s.bufferList := by simp [State.fullRepaint]
@[simp] theorem State.fullRepaint_waiting (s : State) (l : LineId) : (s.fullRepaint l).waiting = s.waiting := by simp [State.fullRepaint]
@[simp] theorem State.fullRepaint_busQueue (s : State) (l : LineId) : (s.fullRepaint l).busQueue = s.busQueue := by simp [State.fullRepaint]
@[simp] theorem State.fullRepaint_transfer (s : State) (l : LineId) : (s.fullRepaint l).transfer = s.transfer := by simp [State.fullRepaint]
@[simp] theorem State.fullRepaint_transferBuffer (s : State) (l : LineId) : (s.fullRepaint l).transferBuffer = s.transferBuffer := by simp [State.fullRepaint]
@[simp] theorem State.fullRepaint_hostMemory (s : State) (l : LineId) : (s.fullRepaint l).hostMemory = s.hostMemory := by simp [State.fullRepaint]
@[simp] theorem State.fullRepaint_pending (s : State) (l : LineId) : (s.fullRepaint l).pending = s.pending := by simp [State.fullRepaint]

/-! ### discardDisplay -/

@[simp] theorem State.discardDisplay_partState (s : State) (l : LineId) : (s.discardDisplay l).partState = s.partState := by simp [State.discardDisplay]
@[simp] theorem State.discardDisplay_resetCause (s : State) (l : LineId) : (s.discardDisplay l).resetCause = s.resetCause := by simp [State.discardDisplay]
@[simp] theorem State.discardDisplay_faultCode (s : State) (l : LineId) : (s.discardDisplay l).faultCode = s.faultCode := by simp [State.discardDisplay]
@[simp] theorem State.discardDisplay_stateChange (s : State) (l : LineId) : (s.discardDisplay l).stateChange = s.stateChange := by simp [State.discardDisplay]
@[simp] theorem State.discardDisplay_overflow (s : State) (l : LineId) : (s.discardDisplay l).overflow = s.overflow := by simp [State.discardDisplay]
@[simp] theorem State.discardDisplay_answerEnable (s : State) (l : LineId) : (s.discardDisplay l).answerEnable = s.answerEnable := by simp [State.discardDisplay]
@[simp] theorem State.discardDisplay_stateChangeEnable (s : State) (l : LineId) : (s.discardDisplay l).stateChangeEnable = s.stateChangeEnable := by simp [State.discardDisplay]
@[simp] theorem State.discardDisplay_overflowEnable (s : State) (l : LineId) : (s.discardDisplay l).overflowEnable = s.overflowEnable := by simp [State.discardDisplay]
@[simp] theorem State.discardDisplay_commandQueue (s : State) (l : LineId) : (s.discardDisplay l).commandQueue = s.commandQueue := by simp [State.discardDisplay]
@[simp] theorem State.discardDisplay_assembler (s : State) (l : LineId) : (s.discardDisplay l).assembler = s.assembler := by simp [State.discardDisplay]
@[simp] theorem State.discardDisplay_answerQueue (s : State) (l : LineId) : (s.discardDisplay l).answerQueue = s.answerQueue := by simp [State.discardDisplay]
@[simp] theorem State.discardDisplay_reserved (s : State) (l : LineId) : (s.discardDisplay l).reserved = s.reserved := by simp [State.discardDisplay]
@[simp] theorem State.discardDisplay_pointer (s : State) (l : LineId) : (s.discardDisplay l).pointer = s.pointer := by simp [State.discardDisplay]
@[simp] theorem State.discardDisplay_dataOut (s : State) (l : LineId) : (s.discardDisplay l).dataOut = s.dataOut := by simp [State.discardDisplay]
@[simp] theorem State.discardDisplay_slots (s : State) (l : LineId) : (s.discardDisplay l).slots = s.slots := by simp [State.discardDisplay]
@[simp] theorem State.discardDisplay_profiles (s : State) (l : LineId) : (s.discardDisplay l).profiles = s.profiles := by simp [State.discardDisplay]
@[simp] theorem State.discardDisplay_nextSerial (s : State) (l : LineId) : (s.discardDisplay l).nextSerial = s.nextSerial := by simp [State.discardDisplay]
@[simp] theorem State.discardDisplay_valueMemory (s : State) (l : LineId) : (s.discardDisplay l).valueMemory = s.valueMemory := by simp [State.discardDisplay]
@[simp] theorem State.discardDisplay_freeList (s : State) (l : LineId) : (s.discardDisplay l).freeList = s.freeList := by simp [State.discardDisplay]
@[simp] theorem State.discardDisplay_bufferList (s : State) (l : LineId) : (s.discardDisplay l).bufferList = s.bufferList := by simp [State.discardDisplay]
@[simp] theorem State.discardDisplay_waiting (s : State) (l : LineId) : (s.discardDisplay l).waiting = s.waiting := by simp [State.discardDisplay]
@[simp] theorem State.discardDisplay_busQueue (s : State) (l : LineId) : (s.discardDisplay l).busQueue = s.busQueue := by simp [State.discardDisplay]
@[simp] theorem State.discardDisplay_transfer (s : State) (l : LineId) : (s.discardDisplay l).transfer = s.transfer := by simp [State.discardDisplay]
@[simp] theorem State.discardDisplay_transferBuffer (s : State) (l : LineId) : (s.discardDisplay l).transferBuffer = s.transferBuffer := by simp [State.discardDisplay]
@[simp] theorem State.discardDisplay_hostMemory (s : State) (l : LineId) : (s.discardDisplay l).hostMemory = s.hostMemory := by simp [State.discardDisplay]
@[simp] theorem State.discardDisplay_pending (s : State) (l : LineId) : (s.discardDisplay l).pending = s.pending := by simp [State.discardDisplay]

/-! ### refresh -/

@[simp] theorem State.refresh_partState (s : State) (l : LineId) : (s.refresh l).partState = s.partState := by simp [State.refresh]
@[simp] theorem State.refresh_resetCause (s : State) (l : LineId) : (s.refresh l).resetCause = s.resetCause := by simp [State.refresh]
@[simp] theorem State.refresh_faultCode (s : State) (l : LineId) : (s.refresh l).faultCode = s.faultCode := by simp [State.refresh]
@[simp] theorem State.refresh_stateChange (s : State) (l : LineId) : (s.refresh l).stateChange = s.stateChange := by simp [State.refresh]
@[simp] theorem State.refresh_overflow (s : State) (l : LineId) : (s.refresh l).overflow = s.overflow := by simp [State.refresh]
@[simp] theorem State.refresh_answerEnable (s : State) (l : LineId) : (s.refresh l).answerEnable = s.answerEnable := by simp [State.refresh]
@[simp] theorem State.refresh_stateChangeEnable (s : State) (l : LineId) : (s.refresh l).stateChangeEnable = s.stateChangeEnable := by simp [State.refresh]
@[simp] theorem State.refresh_overflowEnable (s : State) (l : LineId) : (s.refresh l).overflowEnable = s.overflowEnable := by simp [State.refresh]
@[simp] theorem State.refresh_commandQueue (s : State) (l : LineId) : (s.refresh l).commandQueue = s.commandQueue := by simp [State.refresh]
@[simp] theorem State.refresh_assembler (s : State) (l : LineId) : (s.refresh l).assembler = s.assembler := by simp [State.refresh]
@[simp] theorem State.refresh_answerQueue (s : State) (l : LineId) : (s.refresh l).answerQueue = s.answerQueue := by simp [State.refresh]
@[simp] theorem State.refresh_reserved (s : State) (l : LineId) : (s.refresh l).reserved = s.reserved := by simp [State.refresh]
@[simp] theorem State.refresh_pointer (s : State) (l : LineId) : (s.refresh l).pointer = s.pointer := by simp [State.refresh]
@[simp] theorem State.refresh_dataOut (s : State) (l : LineId) : (s.refresh l).dataOut = s.dataOut := by simp [State.refresh]
@[simp] theorem State.refresh_slots (s : State) (l : LineId) : (s.refresh l).slots = s.slots := by simp [State.refresh]
@[simp] theorem State.refresh_profiles (s : State) (l : LineId) : (s.refresh l).profiles = s.profiles := by simp [State.refresh]
@[simp] theorem State.refresh_nextSerial (s : State) (l : LineId) : (s.refresh l).nextSerial = s.nextSerial := by simp [State.refresh]
@[simp] theorem State.refresh_valueMemory (s : State) (l : LineId) : (s.refresh l).valueMemory = s.valueMemory := by simp [State.refresh]
@[simp] theorem State.refresh_freeList (s : State) (l : LineId) : (s.refresh l).freeList = s.freeList := by simp [State.refresh]
@[simp] theorem State.refresh_bufferList (s : State) (l : LineId) : (s.refresh l).bufferList = s.bufferList := by simp [State.refresh]
@[simp] theorem State.refresh_waiting (s : State) (l : LineId) : (s.refresh l).waiting = s.waiting := by simp [State.refresh]
@[simp] theorem State.refresh_busQueue (s : State) (l : LineId) : (s.refresh l).busQueue = s.busQueue := by simp [State.refresh]
@[simp] theorem State.refresh_transfer (s : State) (l : LineId) : (s.refresh l).transfer = s.transfer := by simp [State.refresh]
@[simp] theorem State.refresh_transferBuffer (s : State) (l : LineId) : (s.refresh l).transferBuffer = s.transferBuffer := by simp [State.refresh]
@[simp] theorem State.refresh_hostMemory (s : State) (l : LineId) : (s.refresh l).hostMemory = s.hostMemory := by simp [State.refresh]
@[simp] theorem State.refresh_pending (s : State) (l : LineId) : (s.refresh l).pending = s.pending := by simp [State.refresh]

/-! ### clerkEdit -/

@[simp] theorem State.clerkEdit_partState (s : State) (l : LineId) (n : Nat) (v : List Byte) (p q : Nat) : (s.clerkEdit l n v p q).partState = s.partState := by simp [State.clerkEdit]
@[simp] theorem State.clerkEdit_resetCause (s : State) (l : LineId) (n : Nat) (v : List Byte) (p q : Nat) : (s.clerkEdit l n v p q).resetCause = s.resetCause := by simp [State.clerkEdit]
@[simp] theorem State.clerkEdit_faultCode (s : State) (l : LineId) (n : Nat) (v : List Byte) (p q : Nat) : (s.clerkEdit l n v p q).faultCode = s.faultCode := by simp [State.clerkEdit]
@[simp] theorem State.clerkEdit_stateChange (s : State) (l : LineId) (n : Nat) (v : List Byte) (p q : Nat) : (s.clerkEdit l n v p q).stateChange = s.stateChange := by simp [State.clerkEdit]
@[simp] theorem State.clerkEdit_overflow (s : State) (l : LineId) (n : Nat) (v : List Byte) (p q : Nat) : (s.clerkEdit l n v p q).overflow = s.overflow := by simp [State.clerkEdit]
@[simp] theorem State.clerkEdit_answerEnable (s : State) (l : LineId) (n : Nat) (v : List Byte) (p q : Nat) : (s.clerkEdit l n v p q).answerEnable = s.answerEnable := by simp [State.clerkEdit]
@[simp] theorem State.clerkEdit_stateChangeEnable (s : State) (l : LineId) (n : Nat) (v : List Byte) (p q : Nat) : (s.clerkEdit l n v p q).stateChangeEnable = s.stateChangeEnable := by simp [State.clerkEdit]
@[simp] theorem State.clerkEdit_overflowEnable (s : State) (l : LineId) (n : Nat) (v : List Byte) (p q : Nat) : (s.clerkEdit l n v p q).overflowEnable = s.overflowEnable := by simp [State.clerkEdit]
@[simp] theorem State.clerkEdit_commandQueue (s : State) (l : LineId) (n : Nat) (v : List Byte) (p q : Nat) : (s.clerkEdit l n v p q).commandQueue = s.commandQueue := by simp [State.clerkEdit]
@[simp] theorem State.clerkEdit_assembler (s : State) (l : LineId) (n : Nat) (v : List Byte) (p q : Nat) : (s.clerkEdit l n v p q).assembler = s.assembler := by simp [State.clerkEdit]
@[simp] theorem State.clerkEdit_answerQueue (s : State) (l : LineId) (n : Nat) (v : List Byte) (p q : Nat) : (s.clerkEdit l n v p q).answerQueue = s.answerQueue := by simp [State.clerkEdit]
@[simp] theorem State.clerkEdit_reserved (s : State) (l : LineId) (n : Nat) (v : List Byte) (p q : Nat) : (s.clerkEdit l n v p q).reserved = s.reserved := by simp [State.clerkEdit]
@[simp] theorem State.clerkEdit_pointer (s : State) (l : LineId) (n : Nat) (v : List Byte) (p q : Nat) : (s.clerkEdit l n v p q).pointer = s.pointer := by simp [State.clerkEdit]
@[simp] theorem State.clerkEdit_dataOut (s : State) (l : LineId) (n : Nat) (v : List Byte) (p q : Nat) : (s.clerkEdit l n v p q).dataOut = s.dataOut := by simp [State.clerkEdit]
@[simp] theorem State.clerkEdit_slots (s : State) (l : LineId) (n : Nat) (v : List Byte) (p q : Nat) : (s.clerkEdit l n v p q).slots = s.slots := by simp [State.clerkEdit]
@[simp] theorem State.clerkEdit_profiles (s : State) (l : LineId) (n : Nat) (v : List Byte) (p q : Nat) : (s.clerkEdit l n v p q).profiles = s.profiles := by simp [State.clerkEdit]
@[simp] theorem State.clerkEdit_nextSerial (s : State) (l : LineId) (n : Nat) (v : List Byte) (p q : Nat) : (s.clerkEdit l n v p q).nextSerial = s.nextSerial := by simp [State.clerkEdit]
@[simp] theorem State.clerkEdit_freeList (s : State) (l : LineId) (n : Nat) (v : List Byte) (p q : Nat) : (s.clerkEdit l n v p q).freeList = s.freeList := by simp [State.clerkEdit]
@[simp] theorem State.clerkEdit_bufferList (s : State) (l : LineId) (n : Nat) (v : List Byte) (p q : Nat) : (s.clerkEdit l n v p q).bufferList = s.bufferList := by simp [State.clerkEdit]
@[simp] theorem State.clerkEdit_waiting (s : State) (l : LineId) (n : Nat) (v : List Byte) (p q : Nat) : (s.clerkEdit l n v p q).waiting = s.waiting := by simp [State.clerkEdit]
@[simp] theorem State.clerkEdit_busQueue (s : State) (l : LineId) (n : Nat) (v : List Byte) (p q : Nat) : (s.clerkEdit l n v p q).busQueue = s.busQueue := by simp [State.clerkEdit]
@[simp] theorem State.clerkEdit_transfer (s : State) (l : LineId) (n : Nat) (v : List Byte) (p q : Nat) : (s.clerkEdit l n v p q).transfer = s.transfer := by simp [State.clerkEdit]
@[simp] theorem State.clerkEdit_transferBuffer (s : State) (l : LineId) (n : Nat) (v : List Byte) (p q : Nat) : (s.clerkEdit l n v p q).transferBuffer = s.transferBuffer := by simp [State.clerkEdit]
@[simp] theorem State.clerkEdit_hostMemory (s : State) (l : LineId) (n : Nat) (v : List Byte) (p q : Nat) : (s.clerkEdit l n v p q).hostMemory = s.hostMemory := by simp [State.clerkEdit]
@[simp] theorem State.clerkEdit_pending (s : State) (l : LineId) (n : Nat) (v : List Byte) (p q : Nat) : (s.clerkEdit l n v p q).pending = s.pending := by simp [State.clerkEdit]

/-! ### moveCursor -/

@[simp] theorem State.moveCursor_partState (s : State) (l : LineId) (p : Nat) : (s.moveCursor l p).partState = s.partState := by simp [State.moveCursor]
@[simp] theorem State.moveCursor_resetCause (s : State) (l : LineId) (p : Nat) : (s.moveCursor l p).resetCause = s.resetCause := by simp [State.moveCursor]
@[simp] theorem State.moveCursor_faultCode (s : State) (l : LineId) (p : Nat) : (s.moveCursor l p).faultCode = s.faultCode := by simp [State.moveCursor]
@[simp] theorem State.moveCursor_stateChange (s : State) (l : LineId) (p : Nat) : (s.moveCursor l p).stateChange = s.stateChange := by simp [State.moveCursor]
@[simp] theorem State.moveCursor_overflow (s : State) (l : LineId) (p : Nat) : (s.moveCursor l p).overflow = s.overflow := by simp [State.moveCursor]
@[simp] theorem State.moveCursor_answerEnable (s : State) (l : LineId) (p : Nat) : (s.moveCursor l p).answerEnable = s.answerEnable := by simp [State.moveCursor]
@[simp] theorem State.moveCursor_stateChangeEnable (s : State) (l : LineId) (p : Nat) : (s.moveCursor l p).stateChangeEnable = s.stateChangeEnable := by simp [State.moveCursor]
@[simp] theorem State.moveCursor_overflowEnable (s : State) (l : LineId) (p : Nat) : (s.moveCursor l p).overflowEnable = s.overflowEnable := by simp [State.moveCursor]
@[simp] theorem State.moveCursor_commandQueue (s : State) (l : LineId) (p : Nat) : (s.moveCursor l p).commandQueue = s.commandQueue := by simp [State.moveCursor]
@[simp] theorem State.moveCursor_assembler (s : State) (l : LineId) (p : Nat) : (s.moveCursor l p).assembler = s.assembler := by simp [State.moveCursor]
@[simp] theorem State.moveCursor_answerQueue (s : State) (l : LineId) (p : Nat) : (s.moveCursor l p).answerQueue = s.answerQueue := by simp [State.moveCursor]
@[simp] theorem State.moveCursor_reserved (s : State) (l : LineId) (p : Nat) : (s.moveCursor l p).reserved = s.reserved := by simp [State.moveCursor]
@[simp] theorem State.moveCursor_pointer (s : State) (l : LineId) (p : Nat) : (s.moveCursor l p).pointer = s.pointer := by simp [State.moveCursor]
@[simp] theorem State.moveCursor_dataOut (s : State) (l : LineId) (p : Nat) : (s.moveCursor l p).dataOut = s.dataOut := by simp [State.moveCursor]
@[simp] theorem State.moveCursor_slots (s : State) (l : LineId) (p : Nat) : (s.moveCursor l p).slots = s.slots := by simp [State.moveCursor]
@[simp] theorem State.moveCursor_profiles (s : State) (l : LineId) (p : Nat) : (s.moveCursor l p).profiles = s.profiles := by simp [State.moveCursor]
@[simp] theorem State.moveCursor_nextSerial (s : State) (l : LineId) (p : Nat) : (s.moveCursor l p).nextSerial = s.nextSerial := by simp [State.moveCursor]
@[simp] theorem State.moveCursor_valueMemory (s : State) (l : LineId) (p : Nat) : (s.moveCursor l p).valueMemory = s.valueMemory := by simp [State.moveCursor]
@[simp] theorem State.moveCursor_freeList (s : State) (l : LineId) (p : Nat) : (s.moveCursor l p).freeList = s.freeList := by simp [State.moveCursor]
@[simp] theorem State.moveCursor_bufferList (s : State) (l : LineId) (p : Nat) : (s.moveCursor l p).bufferList = s.bufferList := by simp [State.moveCursor]
@[simp] theorem State.moveCursor_waiting (s : State) (l : LineId) (p : Nat) : (s.moveCursor l p).waiting = s.waiting := by simp [State.moveCursor]
@[simp] theorem State.moveCursor_busQueue (s : State) (l : LineId) (p : Nat) : (s.moveCursor l p).busQueue = s.busQueue := by simp [State.moveCursor]
@[simp] theorem State.moveCursor_transfer (s : State) (l : LineId) (p : Nat) : (s.moveCursor l p).transfer = s.transfer := by simp [State.moveCursor]
@[simp] theorem State.moveCursor_transferBuffer (s : State) (l : LineId) (p : Nat) : (s.moveCursor l p).transferBuffer = s.transferBuffer := by simp [State.moveCursor]
@[simp] theorem State.moveCursor_hostMemory (s : State) (l : LineId) (p : Nat) : (s.moveCursor l p).hostMemory = s.hostMemory := by simp [State.moveCursor]
@[simp] theorem State.moveCursor_pending (s : State) (l : LineId) (p : Nat) : (s.moveCursor l p).pending = s.pending := by simp [State.moveCursor]

/-! ### clearMark -/

@[simp] theorem State.clearMark_partState (s : State) (l : LineId) (u : UnitKind) : (s.clearMark l u).partState = s.partState := by cases u <;> simp [State.clearMark]
@[simp] theorem State.clearMark_resetCause (s : State) (l : LineId) (u : UnitKind) : (s.clearMark l u).resetCause = s.resetCause := by cases u <;> simp [State.clearMark]
@[simp] theorem State.clearMark_faultCode (s : State) (l : LineId) (u : UnitKind) : (s.clearMark l u).faultCode = s.faultCode := by cases u <;> simp [State.clearMark]
@[simp] theorem State.clearMark_stateChange (s : State) (l : LineId) (u : UnitKind) : (s.clearMark l u).stateChange = s.stateChange := by cases u <;> simp [State.clearMark]
@[simp] theorem State.clearMark_overflow (s : State) (l : LineId) (u : UnitKind) : (s.clearMark l u).overflow = s.overflow := by cases u <;> simp [State.clearMark]
@[simp] theorem State.clearMark_answerEnable (s : State) (l : LineId) (u : UnitKind) : (s.clearMark l u).answerEnable = s.answerEnable := by cases u <;> simp [State.clearMark]
@[simp] theorem State.clearMark_stateChangeEnable (s : State) (l : LineId) (u : UnitKind) : (s.clearMark l u).stateChangeEnable = s.stateChangeEnable := by cases u <;> simp [State.clearMark]
@[simp] theorem State.clearMark_overflowEnable (s : State) (l : LineId) (u : UnitKind) : (s.clearMark l u).overflowEnable = s.overflowEnable := by cases u <;> simp [State.clearMark]
@[simp] theorem State.clearMark_commandQueue (s : State) (l : LineId) (u : UnitKind) : (s.clearMark l u).commandQueue = s.commandQueue := by cases u <;> simp [State.clearMark]
@[simp] theorem State.clearMark_assembler (s : State) (l : LineId) (u : UnitKind) : (s.clearMark l u).assembler = s.assembler := by cases u <;> simp [State.clearMark]
@[simp] theorem State.clearMark_answerQueue (s : State) (l : LineId) (u : UnitKind) : (s.clearMark l u).answerQueue = s.answerQueue := by cases u <;> simp [State.clearMark]
@[simp] theorem State.clearMark_reserved (s : State) (l : LineId) (u : UnitKind) : (s.clearMark l u).reserved = s.reserved := by cases u <;> simp [State.clearMark]
@[simp] theorem State.clearMark_pointer (s : State) (l : LineId) (u : UnitKind) : (s.clearMark l u).pointer = s.pointer := by cases u <;> simp [State.clearMark]
@[simp] theorem State.clearMark_dataOut (s : State) (l : LineId) (u : UnitKind) : (s.clearMark l u).dataOut = s.dataOut := by cases u <;> simp [State.clearMark]
@[simp] theorem State.clearMark_slots (s : State) (l : LineId) (u : UnitKind) : (s.clearMark l u).slots = s.slots := by cases u <;> simp [State.clearMark]
@[simp] theorem State.clearMark_profiles (s : State) (l : LineId) (u : UnitKind) : (s.clearMark l u).profiles = s.profiles := by cases u <;> simp [State.clearMark]
@[simp] theorem State.clearMark_nextSerial (s : State) (l : LineId) (u : UnitKind) : (s.clearMark l u).nextSerial = s.nextSerial := by cases u <;> simp [State.clearMark]
@[simp] theorem State.clearMark_valueMemory (s : State) (l : LineId) (u : UnitKind) : (s.clearMark l u).valueMemory = s.valueMemory := by cases u <;> simp [State.clearMark]
@[simp] theorem State.clearMark_freeList (s : State) (l : LineId) (u : UnitKind) : (s.clearMark l u).freeList = s.freeList := by cases u <;> simp [State.clearMark]
@[simp] theorem State.clearMark_bufferList (s : State) (l : LineId) (u : UnitKind) : (s.clearMark l u).bufferList = s.bufferList := by cases u <;> simp [State.clearMark]
@[simp] theorem State.clearMark_waiting (s : State) (l : LineId) (u : UnitKind) : (s.clearMark l u).waiting = s.waiting := by cases u <;> simp [State.clearMark]
@[simp] theorem State.clearMark_busQueue (s : State) (l : LineId) (u : UnitKind) : (s.clearMark l u).busQueue = s.busQueue := by cases u <;> simp [State.clearMark]
@[simp] theorem State.clearMark_transfer (s : State) (l : LineId) (u : UnitKind) : (s.clearMark l u).transfer = s.transfer := by cases u <;> simp [State.clearMark]
@[simp] theorem State.clearMark_transferBuffer (s : State) (l : LineId) (u : UnitKind) : (s.clearMark l u).transferBuffer = s.transferBuffer := by cases u <;> simp [State.clearMark]
@[simp] theorem State.clearMark_hostMemory (s : State) (l : LineId) (u : UnitKind) : (s.clearMark l u).hostMemory = s.hostMemory := by cases u <;> simp [State.clearMark]
@[simp] theorem State.clearMark_pending (s : State) (l : LineId) (u : UnitKind) : (s.clearMark l u).pending = s.pending := by cases u <;> simp [State.clearMark]

/-! ### endPaint -/

@[simp] theorem State.endPaint_partState (s : State) (l : LineId) : (s.endPaint l).partState = s.partState := by unfold State.endPaint; split <;> simp
@[simp] theorem State.endPaint_resetCause (s : State) (l : LineId) : (s.endPaint l).resetCause = s.resetCause := by unfold State.endPaint; split <;> simp
@[simp] theorem State.endPaint_faultCode (s : State) (l : LineId) : (s.endPaint l).faultCode = s.faultCode := by unfold State.endPaint; split <;> simp
@[simp] theorem State.endPaint_stateChange (s : State) (l : LineId) : (s.endPaint l).stateChange = s.stateChange := by unfold State.endPaint; split <;> simp
@[simp] theorem State.endPaint_overflow (s : State) (l : LineId) : (s.endPaint l).overflow = s.overflow := by unfold State.endPaint; split <;> simp
@[simp] theorem State.endPaint_answerEnable (s : State) (l : LineId) : (s.endPaint l).answerEnable = s.answerEnable := by unfold State.endPaint; split <;> simp
@[simp] theorem State.endPaint_stateChangeEnable (s : State) (l : LineId) : (s.endPaint l).stateChangeEnable = s.stateChangeEnable := by unfold State.endPaint; split <;> simp
@[simp] theorem State.endPaint_overflowEnable (s : State) (l : LineId) : (s.endPaint l).overflowEnable = s.overflowEnable := by unfold State.endPaint; split <;> simp
@[simp] theorem State.endPaint_commandQueue (s : State) (l : LineId) : (s.endPaint l).commandQueue = s.commandQueue := by unfold State.endPaint; split <;> simp
@[simp] theorem State.endPaint_assembler (s : State) (l : LineId) : (s.endPaint l).assembler = s.assembler := by unfold State.endPaint; split <;> simp
@[simp] theorem State.endPaint_answerQueue (s : State) (l : LineId) : (s.endPaint l).answerQueue = s.answerQueue := by unfold State.endPaint; split <;> simp
@[simp] theorem State.endPaint_reserved (s : State) (l : LineId) : (s.endPaint l).reserved = s.reserved := by unfold State.endPaint; split <;> simp
@[simp] theorem State.endPaint_pointer (s : State) (l : LineId) : (s.endPaint l).pointer = s.pointer := by unfold State.endPaint; split <;> simp
@[simp] theorem State.endPaint_dataOut (s : State) (l : LineId) : (s.endPaint l).dataOut = s.dataOut := by unfold State.endPaint; split <;> simp
@[simp] theorem State.endPaint_slots (s : State) (l : LineId) : (s.endPaint l).slots = s.slots := by unfold State.endPaint; split <;> simp
@[simp] theorem State.endPaint_profiles (s : State) (l : LineId) : (s.endPaint l).profiles = s.profiles := by unfold State.endPaint; split <;> simp
@[simp] theorem State.endPaint_nextSerial (s : State) (l : LineId) : (s.endPaint l).nextSerial = s.nextSerial := by unfold State.endPaint; split <;> simp
@[simp] theorem State.endPaint_valueMemory (s : State) (l : LineId) : (s.endPaint l).valueMemory = s.valueMemory := by unfold State.endPaint; split <;> simp
@[simp] theorem State.endPaint_freeList (s : State) (l : LineId) : (s.endPaint l).freeList = s.freeList := by unfold State.endPaint; split <;> simp
@[simp] theorem State.endPaint_bufferList (s : State) (l : LineId) : (s.endPaint l).bufferList = s.bufferList := by unfold State.endPaint; split <;> simp
@[simp] theorem State.endPaint_waiting (s : State) (l : LineId) : (s.endPaint l).waiting = s.waiting := by unfold State.endPaint; split <;> simp
@[simp] theorem State.endPaint_busQueue (s : State) (l : LineId) : (s.endPaint l).busQueue = s.busQueue := by unfold State.endPaint; split <;> simp
@[simp] theorem State.endPaint_transfer (s : State) (l : LineId) : (s.endPaint l).transfer = s.transfer := by unfold State.endPaint; split <;> simp
@[simp] theorem State.endPaint_transferBuffer (s : State) (l : LineId) : (s.endPaint l).transferBuffer = s.transferBuffer := by unfold State.endPaint; split <;> simp
@[simp] theorem State.endPaint_hostMemory (s : State) (l : LineId) : (s.endPaint l).hostMemory = s.hostMemory := by unfold State.endPaint; split <;> simp
@[simp] theorem State.endPaint_pending (s : State) (l : LineId) : (s.endPaint l).pending = s.pending := by unfold State.endPaint; split <;> simp

/-! ### postOpen -/

@[simp] theorem State.postOpen_partState (s : State) (l : LineId) (st : Status) (d : List Word) : (s.postOpen l st d).partState = s.partState := by simp [State.postOpen]
@[simp] theorem State.postOpen_resetCause (s : State) (l : LineId) (st : Status) (d : List Word) : (s.postOpen l st d).resetCause = s.resetCause := by simp [State.postOpen]
@[simp] theorem State.postOpen_faultCode (s : State) (l : LineId) (st : Status) (d : List Word) : (s.postOpen l st d).faultCode = s.faultCode := by simp [State.postOpen]
@[simp] theorem State.postOpen_stateChange (s : State) (l : LineId) (st : Status) (d : List Word) : (s.postOpen l st d).stateChange = s.stateChange := by simp [State.postOpen]
@[simp] theorem State.postOpen_overflow (s : State) (l : LineId) (st : Status) (d : List Word) : (s.postOpen l st d).overflow = s.overflow := by simp [State.postOpen]
@[simp] theorem State.postOpen_answerEnable (s : State) (l : LineId) (st : Status) (d : List Word) : (s.postOpen l st d).answerEnable = s.answerEnable := by simp [State.postOpen]
@[simp] theorem State.postOpen_stateChangeEnable (s : State) (l : LineId) (st : Status) (d : List Word) : (s.postOpen l st d).stateChangeEnable = s.stateChangeEnable := by simp [State.postOpen]
@[simp] theorem State.postOpen_overflowEnable (s : State) (l : LineId) (st : Status) (d : List Word) : (s.postOpen l st d).overflowEnable = s.overflowEnable := by simp [State.postOpen]
@[simp] theorem State.postOpen_commandQueue (s : State) (l : LineId) (st : Status) (d : List Word) : (s.postOpen l st d).commandQueue = s.commandQueue := by simp [State.postOpen]
@[simp] theorem State.postOpen_assembler (s : State) (l : LineId) (st : Status) (d : List Word) : (s.postOpen l st d).assembler = s.assembler := by simp [State.postOpen]
@[simp] theorem State.postOpen_pointer (s : State) (l : LineId) (st : Status) (d : List Word) : (s.postOpen l st d).pointer = s.pointer := by simp [State.postOpen]
@[simp] theorem State.postOpen_dataOut (s : State) (l : LineId) (st : Status) (d : List Word) : (s.postOpen l st d).dataOut = s.dataOut := by simp [State.postOpen]
@[simp] theorem State.postOpen_slots (s : State) (l : LineId) (st : Status) (d : List Word) : (s.postOpen l st d).slots = s.slots := by simp [State.postOpen]
@[simp] theorem State.postOpen_profiles (s : State) (l : LineId) (st : Status) (d : List Word) : (s.postOpen l st d).profiles = s.profiles := by simp [State.postOpen]
@[simp] theorem State.postOpen_nextSerial (s : State) (l : LineId) (st : Status) (d : List Word) : (s.postOpen l st d).nextSerial = s.nextSerial := by simp [State.postOpen]
@[simp] theorem State.postOpen_valueMemory (s : State) (l : LineId) (st : Status) (d : List Word) : (s.postOpen l st d).valueMemory = s.valueMemory := by simp [State.postOpen]
@[simp] theorem State.postOpen_freeList (s : State) (l : LineId) (st : Status) (d : List Word) : (s.postOpen l st d).freeList = s.freeList := by simp [State.postOpen]
@[simp] theorem State.postOpen_bufferList (s : State) (l : LineId) (st : Status) (d : List Word) : (s.postOpen l st d).bufferList = s.bufferList := by simp [State.postOpen]
@[simp] theorem State.postOpen_waiting (s : State) (l : LineId) (st : Status) (d : List Word) : (s.postOpen l st d).waiting = s.waiting := by simp [State.postOpen]
@[simp] theorem State.postOpen_busQueue (s : State) (l : LineId) (st : Status) (d : List Word) : (s.postOpen l st d).busQueue = s.busQueue := by simp [State.postOpen]
@[simp] theorem State.postOpen_transfer (s : State) (l : LineId) (st : Status) (d : List Word) : (s.postOpen l st d).transfer = s.transfer := by simp [State.postOpen]
@[simp] theorem State.postOpen_transferBuffer (s : State) (l : LineId) (st : Status) (d : List Word) : (s.postOpen l st d).transferBuffer = s.transferBuffer := by simp [State.postOpen]
@[simp] theorem State.postOpen_hostMemory (s : State) (l : LineId) (st : Status) (d : List Word) : (s.postOpen l st d).hostMemory = s.hostMemory := by simp [State.postOpen]
@[simp] theorem State.postOpen_pending (s : State) (l : LineId) (st : Status) (d : List Word) : (s.postOpen l st d).pending = s.pending := by simp [State.postOpen]

/-! ### deferClose -/

@[simp] theorem State.deferClose_partState (s : State) (l : LineId) (c : Closer) : (s.deferClose l c).partState = s.partState := by simp [State.deferClose]
@[simp] theorem State.deferClose_resetCause (s : State) (l : LineId) (c : Closer) : (s.deferClose l c).resetCause = s.resetCause := by simp [State.deferClose]
@[simp] theorem State.deferClose_faultCode (s : State) (l : LineId) (c : Closer) : (s.deferClose l c).faultCode = s.faultCode := by simp [State.deferClose]
@[simp] theorem State.deferClose_stateChange (s : State) (l : LineId) (c : Closer) : (s.deferClose l c).stateChange = s.stateChange := by simp [State.deferClose]
@[simp] theorem State.deferClose_overflow (s : State) (l : LineId) (c : Closer) : (s.deferClose l c).overflow = s.overflow := by simp [State.deferClose]
@[simp] theorem State.deferClose_answerEnable (s : State) (l : LineId) (c : Closer) : (s.deferClose l c).answerEnable = s.answerEnable := by simp [State.deferClose]
@[simp] theorem State.deferClose_stateChangeEnable (s : State) (l : LineId) (c : Closer) : (s.deferClose l c).stateChangeEnable = s.stateChangeEnable := by simp [State.deferClose]
@[simp] theorem State.deferClose_overflowEnable (s : State) (l : LineId) (c : Closer) : (s.deferClose l c).overflowEnable = s.overflowEnable := by simp [State.deferClose]
@[simp] theorem State.deferClose_commandQueue (s : State) (l : LineId) (c : Closer) : (s.deferClose l c).commandQueue = s.commandQueue := by simp [State.deferClose]
@[simp] theorem State.deferClose_assembler (s : State) (l : LineId) (c : Closer) : (s.deferClose l c).assembler = s.assembler := by simp [State.deferClose]
@[simp] theorem State.deferClose_answerQueue (s : State) (l : LineId) (c : Closer) : (s.deferClose l c).answerQueue = s.answerQueue := by simp [State.deferClose]
@[simp] theorem State.deferClose_reserved (s : State) (l : LineId) (c : Closer) : (s.deferClose l c).reserved = s.reserved := by simp [State.deferClose]
@[simp] theorem State.deferClose_pointer (s : State) (l : LineId) (c : Closer) : (s.deferClose l c).pointer = s.pointer := by simp [State.deferClose]
@[simp] theorem State.deferClose_dataOut (s : State) (l : LineId) (c : Closer) : (s.deferClose l c).dataOut = s.dataOut := by simp [State.deferClose]
@[simp] theorem State.deferClose_slots (s : State) (l : LineId) (c : Closer) : (s.deferClose l c).slots = s.slots := by simp [State.deferClose]
@[simp] theorem State.deferClose_profiles (s : State) (l : LineId) (c : Closer) : (s.deferClose l c).profiles = s.profiles := by simp [State.deferClose]
@[simp] theorem State.deferClose_nextSerial (s : State) (l : LineId) (c : Closer) : (s.deferClose l c).nextSerial = s.nextSerial := by simp [State.deferClose]
@[simp] theorem State.deferClose_valueMemory (s : State) (l : LineId) (c : Closer) : (s.deferClose l c).valueMemory = s.valueMemory := by simp [State.deferClose]
@[simp] theorem State.deferClose_freeList (s : State) (l : LineId) (c : Closer) : (s.deferClose l c).freeList = s.freeList := by simp [State.deferClose]
@[simp] theorem State.deferClose_bufferList (s : State) (l : LineId) (c : Closer) : (s.deferClose l c).bufferList = s.bufferList := by simp [State.deferClose]
@[simp] theorem State.deferClose_waiting (s : State) (l : LineId) (c : Closer) : (s.deferClose l c).waiting = s.waiting := by simp [State.deferClose]
@[simp] theorem State.deferClose_busQueue (s : State) (l : LineId) (c : Closer) : (s.deferClose l c).busQueue = s.busQueue := by simp [State.deferClose]
@[simp] theorem State.deferClose_transfer (s : State) (l : LineId) (c : Closer) : (s.deferClose l c).transfer = s.transfer := by simp [State.deferClose]
@[simp] theorem State.deferClose_transferBuffer (s : State) (l : LineId) (c : Closer) : (s.deferClose l c).transferBuffer = s.transferBuffer := by simp [State.deferClose]
@[simp] theorem State.deferClose_hostMemory (s : State) (l : LineId) (c : Closer) : (s.deferClose l c).hostMemory = s.hostMemory := by simp [State.deferClose]
@[simp] theorem State.deferClose_pending (s : State) (l : LineId) (c : Closer) : (s.deferClose l c).pending = s.pending := by simp [State.deferClose]

/-! ### startDelivery -/

@[simp] theorem State.startDelivery_partState (s : State) (l : LineId) (d : Descriptor) : (s.startDelivery l d).partState = s.partState := by simp [State.startDelivery]
@[simp] theorem State.startDelivery_resetCause (s : State) (l : LineId) (d : Descriptor) : (s.startDelivery l d).resetCause = s.resetCause := by simp [State.startDelivery]
@[simp] theorem State.startDelivery_faultCode (s : State) (l : LineId) (d : Descriptor) : (s.startDelivery l d).faultCode = s.faultCode := by simp [State.startDelivery]
@[simp] theorem State.startDelivery_stateChange (s : State) (l : LineId) (d : Descriptor) : (s.startDelivery l d).stateChange = s.stateChange := by simp [State.startDelivery]
@[simp] theorem State.startDelivery_overflow (s : State) (l : LineId) (d : Descriptor) : (s.startDelivery l d).overflow = s.overflow := by simp [State.startDelivery]
@[simp] theorem State.startDelivery_answerEnable (s : State) (l : LineId) (d : Descriptor) : (s.startDelivery l d).answerEnable = s.answerEnable := by simp [State.startDelivery]
@[simp] theorem State.startDelivery_stateChangeEnable (s : State) (l : LineId) (d : Descriptor) : (s.startDelivery l d).stateChangeEnable = s.stateChangeEnable := by simp [State.startDelivery]
@[simp] theorem State.startDelivery_overflowEnable (s : State) (l : LineId) (d : Descriptor) : (s.startDelivery l d).overflowEnable = s.overflowEnable := by simp [State.startDelivery]
@[simp] theorem State.startDelivery_commandQueue (s : State) (l : LineId) (d : Descriptor) : (s.startDelivery l d).commandQueue = s.commandQueue := by simp [State.startDelivery]
@[simp] theorem State.startDelivery_assembler (s : State) (l : LineId) (d : Descriptor) : (s.startDelivery l d).assembler = s.assembler := by simp [State.startDelivery]
@[simp] theorem State.startDelivery_answerQueue (s : State) (l : LineId) (d : Descriptor) : (s.startDelivery l d).answerQueue = s.answerQueue := by simp [State.startDelivery]
@[simp] theorem State.startDelivery_reserved (s : State) (l : LineId) (d : Descriptor) : (s.startDelivery l d).reserved = s.reserved := by simp [State.startDelivery]
@[simp] theorem State.startDelivery_pointer (s : State) (l : LineId) (d : Descriptor) : (s.startDelivery l d).pointer = s.pointer := by simp [State.startDelivery]
@[simp] theorem State.startDelivery_dataOut (s : State) (l : LineId) (d : Descriptor) : (s.startDelivery l d).dataOut = s.dataOut := by simp [State.startDelivery]
@[simp] theorem State.startDelivery_slots (s : State) (l : LineId) (d : Descriptor) : (s.startDelivery l d).slots = s.slots := by simp [State.startDelivery]
@[simp] theorem State.startDelivery_profiles (s : State) (l : LineId) (d : Descriptor) : (s.startDelivery l d).profiles = s.profiles := by simp [State.startDelivery]
@[simp] theorem State.startDelivery_nextSerial (s : State) (l : LineId) (d : Descriptor) : (s.startDelivery l d).nextSerial = s.nextSerial := by simp [State.startDelivery]
@[simp] theorem State.startDelivery_valueMemory (s : State) (l : LineId) (d : Descriptor) : (s.startDelivery l d).valueMemory = s.valueMemory := by simp [State.startDelivery]
@[simp] theorem State.startDelivery_freeList (s : State) (l : LineId) (d : Descriptor) : (s.startDelivery l d).freeList = s.freeList := by simp [State.startDelivery]
@[simp] theorem State.startDelivery_bufferList (s : State) (l : LineId) (d : Descriptor) : (s.startDelivery l d).bufferList = s.bufferList := by simp [State.startDelivery]
@[simp] theorem State.startDelivery_waiting (s : State) (l : LineId) (d : Descriptor) : (s.startDelivery l d).waiting = s.waiting := by simp [State.startDelivery]
@[simp] theorem State.startDelivery_transfer (s : State) (l : LineId) (d : Descriptor) : (s.startDelivery l d).transfer = s.transfer := by simp [State.startDelivery]
@[simp] theorem State.startDelivery_transferBuffer (s : State) (l : LineId) (d : Descriptor) : (s.startDelivery l d).transferBuffer = s.transferBuffer := by simp [State.startDelivery]
@[simp] theorem State.startDelivery_hostMemory (s : State) (l : LineId) (d : Descriptor) : (s.startDelivery l d).hostMemory = s.hostMemory := by simp [State.startDelivery]
@[simp] theorem State.startDelivery_pending (s : State) (l : LineId) (d : Descriptor) : (s.startDelivery l d).pending = s.pending := by simp [State.startDelivery]

/-! ### Reading a line, a slot, a profile -/

@[simp] theorem State.setLine_line_self (s : State) (l : LineId) (x : Line) : (s.setLine l x).line l = x := by
  simp [State.setLine, State.line]

theorem State.setLine_line_of_ne (s : State) {l m : LineId} (x : Line) (h : m ≠ l) :
    (s.setLine l x).line m = s.line m := by
  have : l.val ≠ m.val := fun e => h (Fin.ext e.symm)
  simp [State.setLine, State.line, Vector.getElem_set_ne _ _ this]

@[simp] theorem State.modLine_line_self (s : State) (l : LineId) (f : Line → Line) :
    (s.modLine l f).line l = f (s.line l) := by simp [State.modLine]

theorem State.modLine_line_of_ne (s : State) {l m : LineId} (f : Line → Line) (h : m ≠ l) :
    (s.modLine l f).line m = s.line m := by simp [State.modLine, State.setLine_line_of_ne _ _ h]

@[simp] theorem State.setSlot_slot_self (s : State) (k : SlotId) (x : Slot) : (s.setSlot k x).slot k = x := by
  simp [State.setSlot, State.slot]

theorem State.setSlot_slot_of_ne (s : State) {k j : SlotId} (x : Slot) (h : j ≠ k) :
    (s.setSlot k x).slot j = s.slot j := by
  have : k.val ≠ j.val := fun e => h (Fin.ext e.symm)
  simp [State.setSlot, State.slot, Vector.getElem_set_ne _ _ this]

@[simp] theorem State.setProfile_profileSlot_self (s : State) (p : ProfileId) (x : ProfileSlot) :
    (s.setProfile p x).profileSlot p = x := by
  simp [State.setProfile, State.profileSlot]

theorem State.setProfile_profileSlot_of_ne (s : State) {p q : ProfileId} (x : ProfileSlot) (h : q ≠ p) :
    (s.setProfile p x).profileSlot q = s.profileSlot q := by
  have : p.val ≠ q.val := fun e => h (Fin.ext e.symm)
  simp [State.setProfile, State.profileSlot, Vector.getElem_set_ne _ _ this]

/-- The instance of a line after an update of it. -/
@[simp] theorem State.modInst_inst_self (s : State) (l : LineId) (f : Inst → Inst) :
    (s.modInst l f).inst l = (s.inst l).map f := by
  unfold State.modInst
  split <;> simp_all [State.setInst, State.inst]

/-- An update of one line's instance leaves every other line. -/
theorem State.modInst_line_of_ne (s : State) {l m : LineId} (f : Inst → Inst) (h : m ≠ l) :
    (s.modInst l f).line m = s.line m := by
  unfold State.modInst
  split
  · exact State.modLine_line_of_ne s _ h
  · rfl

/-- An update of a line's instance, as an update of the line. -/
theorem State.modInst_line_self (s : State) (l : LineId) (f : Inst → Inst) :
    (s.modInst l f).line l = { s.line l with inst := (s.inst l).map f } := by
  unfold State.modInst
  split
  · rename_i i h
    simp [State.setInst, h]
  · rename_i h
    cases hx : s.line l
    simp_all [State.inst]

@[simp] theorem State.setInst_inst_self (s : State) (l : LineId) (i : Option Inst) : (s.setInst l i).inst l = i := by
  simp [State.setInst, State.inst]


@[simp] theorem State.setLine_slot (s : State) (l : LineId) (x : Line) (j : SlotId) : (s.setLine l x).slot j = s.slot j := by
  simp [State.slot]
@[simp] theorem State.setLine_profileSlot (s : State) (l : LineId) (x : Line) (q : ProfileId) :
    (s.setLine l x).profileSlot q = s.profileSlot q := by simp [State.profileSlot]
@[simp] theorem State.modLine_slot (s : State) (l : LineId) (f : Line → Line) (j : SlotId) : (s.modLine l f).slot j = s.slot j := by
  simp [State.slot]
@[simp] theorem State.modLine_profileSlot (s : State) (l : LineId) (f : Line → Line) (q : ProfileId) :
    (s.modLine l f).profileSlot q = s.profileSlot q := by simp [State.profileSlot]
@[simp] theorem State.setSlot_profileSlot (s : State) (k : SlotId) (x : Slot) (q : ProfileId) :
    (s.setSlot k x).profileSlot q = s.profileSlot q := by simp [State.profileSlot]
@[simp] theorem State.setSlot_line (s : State) (k : SlotId) (x : Slot) (m : LineId) : (s.setSlot k x).line m = s.line m := by
  simp [State.line]
@[simp] theorem State.setSlot_inst (s : State) (k : SlotId) (x : Slot) (m : LineId) : (s.setSlot k x).inst m = s.inst m := by
  simp [State.inst]
@[simp] theorem State.setProfile_slot (s : State) (p : ProfileId) (x : ProfileSlot) (j : SlotId) : (s.setProfile p x).slot j = s.slot j := by
  simp [State.slot]
@[simp] theorem State.setProfile_line (s : State) (p : ProfileId) (x : ProfileSlot) (m : LineId) : (s.setProfile p x).line m = s.line m := by
  simp [State.line]
@[simp] theorem State.setProfile_inst (s : State) (p : ProfileId) (x : ProfileSlot) (m : LineId) : (s.setProfile p x).inst m = s.inst m := by
  simp [State.inst]
@[simp] theorem State.post_slot (s : State) (n : Nat) (r : List Word) (j : SlotId) : (s.post n r).slot j = s.slot j := by
  simp [State.slot]
@[simp] theorem State.post_profileSlot (s : State) (n : Nat) (r : List Word) (q : ProfileId) :
    (s.post n r).profileSlot q = s.profileSlot q := by simp [State.profileSlot]
@[simp] theorem State.post_line (s : State) (n : Nat) (r : List Word) (m : LineId) : (s.post n r).line m = s.line m := by
  simp [State.line]
@[simp] theorem State.post_inst (s : State) (n : Nat) (r : List Word) (m : LineId) : (s.post n r).inst m = s.inst m := by
  simp [State.inst]
@[simp] theorem State.release_slot (s : State) (n : Nat) (j : SlotId) : (s.release n).slot j = s.slot j := by
  simp [State.slot]
@[simp] theorem State.release_profileSlot (s : State) (n : Nat) (q : ProfileId) :
    (s.release n).profileSlot q = s.profileSlot q := by simp [State.profileSlot]
@[simp] theorem State.release_line (s : State) (n : Nat) (m : LineId) : (s.release n).line m = s.line m := by
  simp [State.line]
@[simp] theorem State.release_inst (s : State) (n : Nat) (m : LineId) : (s.release n).inst m = s.inst m := by
  simp [State.inst]
@[simp] theorem State.grant_slot (s : State) (c : Claimant) (n : Nat) (j : SlotId) : (s.grant c n).slot j = s.slot j := by
  simp [State.slot]
@[simp] theorem State.grant_profileSlot (s : State) (c : Claimant) (n : Nat) (q : ProfileId) :
    (s.grant c n).profileSlot q = s.profileSlot q := by simp [State.profileSlot]
@[simp] theorem State.grant_line (s : State) (c : Claimant) (n : Nat) (m : LineId) : (s.grant c n).line m = s.line m := by
  simp [State.line]
@[simp] theorem State.grant_inst (s : State) (c : Claimant) (n : Nat) (m : LineId) : (s.grant c n).inst m = s.inst m := by
  simp [State.inst]
@[simp] theorem State.reply_slot (s : State) (c : Command) (st : Status) (d : List Word) (j : SlotId) : (s.reply c st d).slot j = s.slot j := by
  simp [State.slot]
@[simp] theorem State.reply_profileSlot (s : State) (c : Command) (st : Status) (d : List Word) (q : ProfileId) :
    (s.reply c st d).profileSlot q = s.profileSlot q := by simp [State.profileSlot]
@[simp] theorem State.reply_line (s : State) (c : Command) (st : Status) (d : List Word) (m : LineId) : (s.reply c st d).line m = s.line m := by
  simp [State.line]
@[simp] theorem State.reply_inst (s : State) (c : Command) (st : Status) (d : List Word) (m : LineId) : (s.reply c st d).inst m = s.inst m := by
  simp [State.inst]
@[simp] theorem State.placeRequest_slot (s : State) (r : Request) (j : SlotId) : (s.placeRequest r).slot j = s.slot j := by
  simp [State.slot]
@[simp] theorem State.placeRequest_profileSlot (s : State) (r : Request) (q : ProfileId) :
    (s.placeRequest r).profileSlot q = s.profileSlot q := by simp [State.profileSlot]
@[simp] theorem State.placeRequest_line (s : State) (r : Request) (m : LineId) : (s.placeRequest r).line m = s.line m := by
  simp [State.line]
@[simp] theorem State.placeRequest_inst (s : State) (r : Request) (m : LineId) : (s.placeRequest r).inst m = s.inst m := by
  simp [State.inst]
@[simp] theorem State.withdraw_slot (s : State) (o : Owner) (j : SlotId) : (s.withdraw o).slot j = s.slot j := by
  simp [State.slot]
@[simp] theorem State.withdraw_profileSlot (s : State) (o : Owner) (q : ProfileId) :
    (s.withdraw o).profileSlot q = s.profileSlot q := by simp [State.profileSlot]
@[simp] theorem State.withdraw_line (s : State) (o : Owner) (m : LineId) : (s.withdraw o).line m = s.line m := by
  simp [State.line]
@[simp] theorem State.withdraw_inst (s : State) (o : Owner) (m : LineId) : (s.withdraw o).inst m = s.inst m := by
  simp [State.inst]
@[simp] theorem State.leaveWaiting_slot (s : State) (l : LineId) (j : SlotId) : (s.leaveWaiting l).slot j = s.slot j := by
  simp [State.slot]
@[simp] theorem State.leaveWaiting_profileSlot (s : State) (l : LineId) (q : ProfileId) :
    (s.leaveWaiting l).profileSlot q = s.profileSlot q := by simp [State.profileSlot]
@[simp] theorem State.leaveWaiting_line (s : State) (l : LineId) (m : LineId) : (s.leaveWaiting l).line m = s.line m := by
  simp [State.line]
@[simp] theorem State.leaveWaiting_inst (s : State) (l : LineId) (m : LineId) : (s.leaveWaiting l).inst m = s.inst m := by
  simp [State.inst]
@[simp] theorem State.dropUse_profileSlot (s : State) (k : SlotId) (q : ProfileId) :
    (s.dropUse k).profileSlot q = s.profileSlot q := by simp [State.profileSlot]
@[simp] theorem State.dropUse_line (s : State) (k : SlotId) (m : LineId) : (s.dropUse k).line m = s.line m := by
  simp [State.line]
@[simp] theorem State.dropUse_inst (s : State) (k : SlotId) (m : LineId) : (s.dropUse k).inst m = s.inst m := by
  simp [State.inst]
@[simp] theorem State.beginTaking_slot (s : State) (c : Command) (j : SlotId) : (s.beginTaking c).slot j = s.slot j := by
  simp [State.slot]
@[simp] theorem State.beginTaking_profileSlot (s : State) (c : Command) (q : ProfileId) :
    (s.beginTaking c).profileSlot q = s.profileSlot q := by simp [State.profileSlot]
@[simp] theorem State.beginTaking_line (s : State) (c : Command) (m : LineId) : (s.beginTaking c).line m = s.line m := by
  simp [State.line]
@[simp] theorem State.beginTaking_inst (s : State) (c : Command) (m : LineId) : (s.beginTaking c).inst m = s.inst m := by
  simp [State.inst]
@[simp] theorem State.settle_slot (s : State) (l : LineId) (j : SlotId) : (s.settle l).slot j = s.slot j := by
  simp [State.slot]
@[simp] theorem State.settle_profileSlot (s : State) (l : LineId) (q : ProfileId) :
    (s.settle l).profileSlot q = s.profileSlot q := by simp [State.profileSlot]
@[simp] theorem State.bell_slot (s : State) (l : LineId) (j : SlotId) : (s.bell l).slot j = s.slot j := by
  simp [State.slot]
@[simp] theorem State.bell_profileSlot (s : State) (l : LineId) (q : ProfileId) :
    (s.bell l).profileSlot q = s.profileSlot q := by simp [State.profileSlot]
@[simp] theorem State.setFlag_slot (s : State) (l : LineId) (f : EventFlags → EventFlags) (j : SlotId) : (s.setFlag l f).slot j = s.slot j := by
  simp [State.slot]
@[simp] theorem State.setFlag_profileSlot (s : State) (l : LineId) (f : EventFlags → EventFlags) (q : ProfileId) :
    (s.setFlag l f).profileSlot q = s.profileSlot q := by simp [State.profileSlot]
@[simp] theorem State.queueClear_slot (s : State) (l : LineId) (b : Bool) (j : SlotId) : (s.queueClear l b).slot j = s.slot j := by
  simp [State.slot]
@[simp] theorem State.queueClear_profileSlot (s : State) (l : LineId) (b : Bool) (q : ProfileId) :
    (s.queueClear l b).profileSlot q = s.profileSlot q := by simp [State.profileSlot]
@[simp] theorem State.fillBuffer_slot (s : State) (b : List Byte) (j : SlotId) : (s.fillBuffer b).slot j = s.slot j := by
  simp [State.slot]
@[simp] theorem State.fillBuffer_profileSlot (s : State) (b : List Byte) (q : ProfileId) :
    (s.fillBuffer b).profileSlot q = s.profileSlot q := by simp [State.profileSlot]
@[simp] theorem State.fillBuffer_line (s : State) (b : List Byte) (m : LineId) : (s.fillBuffer b).line m = s.line m := by
  simp [State.line]
@[simp] theorem State.fillBuffer_inst (s : State) (b : List Byte) (m : LineId) : (s.fillBuffer b).inst m = s.inst m := by
  simp [State.inst]
@[simp] theorem State.writeHost_slot (s : State) (a : HostAddr) (b : List Byte) (j : SlotId) : (s.writeHost a b).slot j = s.slot j := by
  simp [State.slot]
@[simp] theorem State.writeHost_profileSlot (s : State) (a : HostAddr) (b : List Byte) (q : ProfileId) :
    (s.writeHost a b).profileSlot q = s.profileSlot q := by simp [State.profileSlot]
@[simp] theorem State.writeHost_line (s : State) (a : HostAddr) (b : List Byte) (m : LineId) : (s.writeHost a b).line m = s.line m := by
  simp [State.line]
@[simp] theorem State.writeHost_inst (s : State) (a : HostAddr) (b : List Byte) (m : LineId) : (s.writeHost a b).inst m = s.inst m := by
  simp [State.inst]
@[simp] theorem State.endTransfer_slot (s : State) (j : SlotId) : (s.endTransfer).slot j = s.slot j := by
  simp [State.slot]
@[simp] theorem State.endTransfer_profileSlot (s : State) (q : ProfileId) :
    (s.endTransfer).profileSlot q = s.profileSlot q := by simp [State.profileSlot]
@[simp] theorem State.endTransfer_line (s : State) (m : LineId) : (s.endTransfer).line m = s.line m := by
  simp [State.line]
@[simp] theorem State.endTransfer_inst (s : State) (m : LineId) : (s.endTransfer).inst m = s.inst m := by
  simp [State.inst]
@[simp] theorem State.closeResult_slot (s : State) (c : Closer) (d : List Word) (j : SlotId) : (s.closeResult c d).slot j = s.slot j := by
  simp [State.slot]
@[simp] theorem State.closeResult_profileSlot (s : State) (c : Closer) (d : List Word) (q : ProfileId) :
    (s.closeResult c d).profileSlot q = s.profileSlot q := by simp [State.profileSlot]
@[simp] theorem State.closeResult_line (s : State) (c : Closer) (d : List Word) (m : LineId) : (s.closeResult c d).line m = s.line m := by
  simp [State.line]
@[simp] theorem State.closeResult_inst (s : State) (c : Closer) (d : List Word) (m : LineId) : (s.closeResult c d).inst m = s.inst m := by
  simp [State.inst]
@[simp] theorem State.modInst_slot (s : State) (l : LineId) (f : Inst → Inst) (j : SlotId) : (s.modInst l f).slot j = s.slot j := by
  simp [State.slot]
@[simp] theorem State.modInst_profileSlot (s : State) (l : LineId) (f : Inst → Inst) (q : ProfileId) :
    (s.modInst l f).profileSlot q = s.profileSlot q := by simp [State.profileSlot]
@[simp] theorem State.modField_slot (s : State) (l : LineId) (n : Nat) (f : FieldRec → FieldRec) (j : SlotId) : (s.modField l n f).slot j = s.slot j := by
  simp [State.slot]
@[simp] theorem State.modField_profileSlot (s : State) (l : LineId) (n : Nat) (f : FieldRec → FieldRec) (q : ProfileId) :
    (s.modField l n f).profileSlot q = s.profileSlot q := by simp [State.profileSlot]
@[simp] theorem State.putValue_slot (s : State) (l : LineId) (n : Nat) (v : List Byte) (j : SlotId) : (s.putValue l n v).slot j = s.slot j := by
  simp [State.slot]
@[simp] theorem State.putValue_profileSlot (s : State) (l : LineId) (n : Nat) (v : List Byte) (q : ProfileId) :
    (s.putValue l n v).profileSlot q = s.profileSlot q := by simp [State.profileSlot]
@[simp] theorem State.changeValue_slot (s : State) (l : LineId) (n : Nat) (v : List Byte) (p : Nat) (j : SlotId) : (s.changeValue l n v p).slot j = s.slot j := by
  simp [State.slot]
@[simp] theorem State.changeValue_profileSlot (s : State) (l : LineId) (n : Nat) (v : List Byte) (p : Nat) (q : ProfileId) :
    (s.changeValue l n v p).profileSlot q = s.profileSlot q := by simp [State.profileSlot]
@[simp] theorem State.recheck_slot (s : State) (l : LineId) (n : Nat) (j : SlotId) : (s.recheck l n).slot j = s.slot j := by
  simp [State.slot]
@[simp] theorem State.recheck_profileSlot (s : State) (l : LineId) (n : Nat) (q : ProfileId) :
    (s.recheck l n).profileSlot q = s.profileSlot q := by simp [State.profileSlot]
@[simp] theorem State.hostWrite_slot (s : State) (l : LineId) (n : Nat) (v : List Byte) (j : SlotId) : (s.hostWrite l n v).slot j = s.slot j := by
  simp [State.slot]
@[simp] theorem State.hostWrite_profileSlot (s : State) (l : LineId) (n : Nat) (v : List Byte) (q : ProfileId) :
    (s.hostWrite l n v).profileSlot q = s.profileSlot q := by simp [State.profileSlot]
@[simp] theorem State.presetWrite_slot (s : State) (l : LineId) (n : Nat) (v : List Byte) (j : SlotId) : (s.presetWrite l n v).slot j = s.slot j := by
  simp [State.slot]
@[simp] theorem State.presetWrite_profileSlot (s : State) (l : LineId) (n : Nat) (v : List Byte) (q : ProfileId) :
    (s.presetWrite l n v).profileSlot q = s.profileSlot q := by simp [State.profileSlot]
@[simp] theorem State.openingValues_slot (s : State) (l : LineId) (j : SlotId) : (s.openingValues l).slot j = s.slot j := by
  simp [State.slot]
@[simp] theorem State.openingValues_profileSlot (s : State) (l : LineId) (q : ProfileId) :
    (s.openingValues l).profileSlot q = s.profileSlot q := by simp [State.profileSlot]
@[simp] theorem State.fullRepaint_slot (s : State) (l : LineId) (j : SlotId) : (s.fullRepaint l).slot j = s.slot j := by
  simp [State.slot]
@[simp] theorem State.fullRepaint_profileSlot (s : State) (l : LineId) (q : ProfileId) :
    (s.fullRepaint l).profileSlot q = s.profileSlot q := by simp [State.profileSlot]
@[simp] theorem State.discardDisplay_slot (s : State) (l : LineId) (j : SlotId) : (s.discardDisplay l).slot j = s.slot j := by
  simp [State.slot]
@[simp] theorem State.discardDisplay_profileSlot (s : State) (l : LineId) (q : ProfileId) :
    (s.discardDisplay l).profileSlot q = s.profileSlot q := by simp [State.profileSlot]
@[simp] theorem State.refresh_slot (s : State) (l : LineId) (j : SlotId) : (s.refresh l).slot j = s.slot j := by
  simp [State.slot]
@[simp] theorem State.refresh_profileSlot (s : State) (l : LineId) (q : ProfileId) :
    (s.refresh l).profileSlot q = s.profileSlot q := by simp [State.profileSlot]
@[simp] theorem State.clerkEdit_slot (s : State) (l : LineId) (n : Nat) (v : List Byte) (p q : Nat) (j : SlotId) : (s.clerkEdit l n v p q).slot j = s.slot j := by
  simp [State.slot]
@[simp] theorem State.clerkEdit_profileSlot (s : State) (l : LineId) (n : Nat) (v : List Byte) (p pos : Nat) (q : ProfileId) :
    (s.clerkEdit l n v p pos).profileSlot q = s.profileSlot q := by simp [State.profileSlot]
@[simp] theorem State.moveCursor_slot (s : State) (l : LineId) (p : Nat) (j : SlotId) : (s.moveCursor l p).slot j = s.slot j := by
  simp [State.slot]
@[simp] theorem State.moveCursor_profileSlot (s : State) (l : LineId) (p : Nat) (q : ProfileId) :
    (s.moveCursor l p).profileSlot q = s.profileSlot q := by simp [State.profileSlot]
@[simp] theorem State.clearMark_slot (s : State) (l : LineId) (u : UnitKind) (j : SlotId) : (s.clearMark l u).slot j = s.slot j := by
  simp [State.slot]
@[simp] theorem State.clearMark_profileSlot (s : State) (l : LineId) (u : UnitKind) (q : ProfileId) :
    (s.clearMark l u).profileSlot q = s.profileSlot q := by simp [State.profileSlot]
@[simp] theorem State.endPaint_slot (s : State) (l : LineId) (j : SlotId) : (s.endPaint l).slot j = s.slot j := by
  simp [State.slot]
@[simp] theorem State.endPaint_profileSlot (s : State) (l : LineId) (q : ProfileId) :
    (s.endPaint l).profileSlot q = s.profileSlot q := by simp [State.profileSlot]
@[simp] theorem State.postOpen_slot (s : State) (l : LineId) (st : Status) (d : List Word) (j : SlotId) : (s.postOpen l st d).slot j = s.slot j := by
  simp [State.slot]
@[simp] theorem State.postOpen_profileSlot (s : State) (l : LineId) (st : Status) (d : List Word) (q : ProfileId) :
    (s.postOpen l st d).profileSlot q = s.profileSlot q := by simp [State.profileSlot]
@[simp] theorem State.deferClose_slot (s : State) (l : LineId) (c : Closer) (j : SlotId) : (s.deferClose l c).slot j = s.slot j := by
  simp [State.slot]
@[simp] theorem State.deferClose_profileSlot (s : State) (l : LineId) (c : Closer) (q : ProfileId) :
    (s.deferClose l c).profileSlot q = s.profileSlot q := by simp [State.profileSlot]
@[simp] theorem State.startDelivery_slot (s : State) (l : LineId) (d : Descriptor) (j : SlotId) : (s.startDelivery l d).slot j = s.slot j := by
  simp [State.slot]
@[simp] theorem State.startDelivery_profileSlot (s : State) (l : LineId) (d : Descriptor) (q : ProfileId) :
    (s.startDelivery l d).profileSlot q = s.profileSlot q := by simp [State.profileSlot]

end Sys2Proof.Machine
end

