-- ==== Sys2Proof/Laws/Lines.lean ====
section
/-! SUPPORT. What is done to all twelve lines at once (a tick, a reset), and a run of bytes written. -/

namespace Sys2Proof.Machine

open Sys2Proof.Safety

/-- Every line is among the twelve. -/
@[simp] theorem mem_allLines (l : LineId) : l ∈ allLines := by revert l; decide

/-- No line stands twice among the twelve. -/
theorem allLines_nodup : allLines.Nodup := by decide

/-- A change made to each line of a list reaches the lines of the list and no other. -/
theorem State.foldl_modLine_line (f : Line → Line) (ls : List LineId) :
    ∀ (s : State), ls.Nodup → ∀ l,
      (ls.foldl (fun s l => s.modLine l f) s).line l = if l ∈ ls then f (s.line l) else s.line l := by
  induction ls with
  | nil => intro s _ l; simp
  | cons a ls ih =>
    intro s hn l
    have hn' := List.nodup_cons.1 hn
    simp only [List.foldl_cons]
    rw [ih _ hn'.2]
    by_cases h : l = a
    · subst h
      simp [hn'.1]
    · rw [State.modLine_line_of_ne _ _ h]
      simp [h]

/-- A change made to each line of a list changes nothing but the lines. -/
theorem State.foldl_modLine_frame (f : Line → Line) (ls : List LineId) :
    ∀ s : State, ls.foldl (fun s l => s.modLine l f) s =
      { s with lines := (ls.foldl (fun s l => s.modLine l f) s).lines } := by
  induction ls with
  | nil => intro s; rfl
  | cons a ls ih =>
    intro s
    simp only [List.foldl_cons]
    rw [ih]
    rfl

/-- A tick of a line's timers, line by line. -/
@[simp] theorem State.tick_line (s : State) (l : LineId) : s.tick.line l = (s.line l).tick := by
  have h := State.foldl_modLine_line Line.tick allLines { s with assembler := s.assembler.tick } allLines_nodup l
  simp only [mem_allLines, if_true] at h
  have key : ∀ (t : State) (p : List Instr), ({ t with pending := p } : State).line l = t.line l := fun _ _ => rfl
  exact (key _ _).trans h

/-- A tick changes the timers and the queue of waiting commands alone. -/
theorem State.tick_frame (s : State) :
    s.tick = { s with lines := s.tick.lines, assembler := s.assembler.tick, pending := s.tick.pending } := by
  have key : ∀ t u : State, t = { u with lines := t.lines } → ∀ p,
      { t with pending := p } = { u with lines := ({ t with pending := p } : State).lines, pending := p } := by
    intro t u h p
    generalize t.lines = v at *
    subst h
    rfl
  exact key _ _ (State.foldl_modLine_frame Line.tick allLines { s with assembler := s.assembler.tick }) _

/-- R179: each line after a reset. -/
theorem State.resetBy_line (s : State) (cause : ResetCause) (l : LineId) :
    (s.resetBy cause).line l = Line.reset (s.line l).readyLevel (s.line l).wire := by
  have key : ∀ (ls : List LineId) (v : Vector Line 12), ls.Nodup →
      (ls.foldl (fun v (m : LineId) => v.set m (Line.reset (s.line m).readyLevel (s.line m).wire)) v)[l] =
        if l ∈ ls then Line.reset (s.line l).readyLevel (s.line l).wire else v[l] := by
    intro ls
    induction ls with
    | nil => intro v _; simp
    | cons a ls ih =>
      intro v hn
      have hn' := List.nodup_cons.1 hn
      simp only [List.foldl_cons]
      rw [ih _ hn'.2]
      by_cases h : l = a
      · subst h
        simp [hn'.1]
      · have : a.val ≠ l.val := fun e => h (Fin.ext e.symm)
        simp [h, this]
  have h := key allLines s.lines allLines_nodup
  simp only [mem_allLines, if_true] at h
  exact h

/-- A run of writes writes its bytes. -/
theorem wrote_writeBytes (m : Memory) (x : Nat) (bs : List Byte) : Wrote m (m.writeBytes x bs) x bs :=
  ⟨fun k h => Memory.read_writeBytes_inside bs m x k h, fun y h => Memory.read_writeBytes_of_outside bs m x y h⟩

/-- R157, R162: the parity bit the transmitter sends is one a receiver of the same configuration agrees with. -/
theorem parityAgrees_parityBitOf (p : Parity) (b : Byte) (bit : Bool) (h : parityBitOf p b = some bit) :
    parityAgrees p b bit = true := by
  cases p with
  | none => cases h
  | even =>
    cases h
    rcases Nat.mod_two_eq_zero_or_one (onesOf b) with h | h <;> simp [parityAgrees, Nat.add_mod, h]
  | odd =>
    cases h
    rcases Nat.mod_two_eq_zero_or_one (onesOf b) with h | h <;> simp [parityAgrees, Nat.add_mod, h]

end Sys2Proof.Machine
end

