-- ==== Sys2Proof/Laws/Grants.lean ====
section
/-! SUPPORT. The grants of R189: what `leftWaiting`, `grants` and `prompted` do, as `Safety` says it, and what a row gives. -/

namespace Sys2Proof.Machine

open Sys2Proof.Safety

/-- Every claimant is searched. -/
theorem mem_searchOrder (p c : Claimant) : c ∈ searchOrder p := by
  have hr : c ∈ ring := by cases c <;> simp [ring]
  rw [← List.take_append_drop (p.place + 1) ring, List.mem_append] at hr
  exact List.mem_append.2 hr.symm

/-- Where a grant is next, its row is named, and only there. -/
theorem State.grantHappening_none (s : State) : s.grantHappening = none ↔ s.nextGrant = none := by
  unfold State.grantHappening
  cases s.nextGrant with
  | none => simp
  | some p =>
    obtain ⟨c, n⟩ := p
    cases c with
    | commandUnit => cases s.headCommand <;> simp
    | line l => cases h : (s.line l).claim <;> simp [h]

/-- All that `grants` does: grants lead to what it leaves. -/
theorem State.grants_lead (n : Nat) : ∀ s : State, GrantsLead n s (s.grants n) := by
  induction n with
  | zero => exact fun s => .spent s
  | succ n ih =>
    intro s
    unfold State.grants
    cases h : s.grantHappening with
    | none => exact .stop _ _ (s.grantHappening_none.1 h)
    | some row => exact .grant h (ih _)

/-- A state in which no grant is next takes none. -/
theorem State.grants_of_none {s : State} (h : s.nextGrant = none) (n : Nat) : s.grants n = s := by
  cases n with
  | zero => rfl
  | succ n => simp [State.grants, s.grantHappening_none.2 h]

/-- A row that is not that of the next grant finds every claim waiting. -/
theorem State.leftWaiting_of_other {s : State} {row : Instr} (h : s.grantHappening ≠ some row) : s.leftWaiting row = s := by
  unfold State.leftWaiting
  cases s.nextGrant with
  | none => rfl
  | some p => simp [h]

/-- Whether a claim stays is what `SameClaim` says. -/
theorem State.claimStays_iff (s t : State) (c : Claimant) : s.claimStays t c = true ↔ SameClaim s t c := by
  cases c <;> simp [State.claimStays, SameClaim]

/-- All that `prompted` does: nothing where the first claim found waiting stays, and otherwise grants follow. -/
theorem State.prompted_cases (s : State) (row : Instr) (t : State) :
    (∃ c, (s.leftWaiting row).firstWaiting = some c ∧ SameClaim (s.leftWaiting row) t c ∧ s.prompted row t = t) ∨
      ((∀ c, (s.leftWaiting row).firstWaiting = some c → ¬ SameClaim (s.leftWaiting row) t c) ∧
        s.prompted row t = t.grants Config.grantRounds) := by
  unfold State.prompted
  cases h : (s.leftWaiting row).firstWaiting with
  | none => exact .inr ⟨by simp, rfl⟩
  | some c =>
    by_cases hc : (s.leftWaiting row).claimStays t c = true
    · exact .inl ⟨c, rfl, (State.claimStays_iff _ _ _).1 hc, by simp [hc]⟩
    · refine .inr ⟨fun c' hc' => ?_, by simp [hc]⟩
      cases hc'
      exact fun h => hc ((State.claimStays_iff _ _ _).2 h)

/-- Where no grant is next after a row, none follows it. -/
theorem State.prompted_of_none {t : State} (h : t.nextGrant = none) (s : State) (row : Instr) : s.prompted row t = t := by
  rcases s.prompted_cases row t with ⟨-, -, -, e⟩ | ⟨-, e⟩
  · exact e
  · rw [e, State.grants_of_none h]

/-- The claims of two states that have the same assembler and the same claims on their lines. -/
theorem State.claimOf_of_same {s t : State} (h : ∀ c, SameClaim s t c) (c : Claimant) : t.claimOf c = s.claimOf c := by
  have hc := h c
  cases c <;> simp only [SameClaim] at hc <;> simp [State.claimOf, hc]

/-- A row that makes and withdraws no claim, and grants none, prompts no grant. -/
theorem State.prompted_of_same {s t : State} {row : Instr} (hr : s.grantHappening ≠ some row) (h : ∀ c, SameClaim s t c) :
    s.prompted row t = t := by
  have hl := State.leftWaiting_of_other hr
  rcases s.prompted_cases row t with ⟨-, -, -, e⟩ | ⟨hn, e⟩
  · exact e
  · rw [hl] at hn
    have hf : s.firstWaiting = none := by
      cases hf : s.firstWaiting with
      | none => rfl
      | some c => exact absurd (h c) (hn c hf)
    have ht : t.nextGrant = none := by
      have : t.firstWaiting = none := by
        rw [State.firstWaiting, List.find?_eq_none] at hf ⊢
        intro c _
        rw [State.claimOf_of_same h]
        exact hf c (mem_searchOrder _ _)
      simp [State.nextGrant, this]
    rw [e, State.grants_of_none ht]

/-- What a row gives, from its own effect. -/
theorem gives_of {row : Instr} {s t : State} (hx : exec row s = .next (s.prompted row (s.effect row))) (h : s.effect row = t) :
    Gives row s t := ⟨h, by rw [hx, h]⟩

end Sys2Proof.Machine
end

