-- ==== Sys2Proof/WellFormed.lean ====
section
/-! DEFINITION. Which commands are well formed: what the bus answers to a fetch has a length some request of its kind can
have (R169). -/

namespace Sys2Proof

/-- R169: the lengths of the four kinds of request bound what a transfer's end can bring. -/
def WellFormed : Instr → Bool
  | .formFetchEnd bytes => decide (16 ≤ bytes.length ∧ bytes.length ≤ 1808)
  | .profileFetchEnd bytes => decide (bytes.length = Config.profileImageBytes)
  | .presetFetchEnd bytes => decide (4 ≤ bytes.length ∧ bytes.length ≤ 4040)
  | .busFault _ bytes => decide (bytes.length ≤ Config.transferBufferBytes)
  | _ => true

end Sys2Proof
end

