-- ==== Sys2Proof/Laws/PerInstr.lean ====
section
/-! SUPPORT. What holds of every command of the table as syntax, one lemma per constructor: what a well-formed command brings
fits the transfer buffer, and no word of the table spells it. -/

namespace Sys2Proof.Laws

/-- The bytes that a command brings from the bus. -/
def Shape.brought : Instr → List Byte
  | .formFetchEnd bytes => bytes
  | .profileFetchEnd bytes => bytes
  | .presetFetchEnd bytes => bytes
  | .busFault _ bytes => bytes
  | _ => []

/-- R168, R169: a well-formed command brings no more bytes than the transfer buffer holds; and no word spells it, since the
table gives no row bits. -/
def Shape.Statement (i : Instr) : Prop :=
  (WellFormed i = true → (Shape.brought i).length ≤ Config.transferBufferBytes) ∧
    ∀ nbits w, decodeTableWord nbits w ≠ some i

/-- A command that brings no bytes from the bus has the shape. -/
theorem Shape.of_brought_nil {i : Instr} (h : Shape.brought i = []) : Shape.Statement i :=
  ⟨fun _ => by rw [h]; exact Nat.zero_le _, fun _ _ => nofun⟩

theorem Shape.powerOnReset : Shape.Statement .powerOnReset := Shape.of_brought_nil rfl
theorem Shape.portReset (value : Word) (answered : Nat) : Shape.Statement (.portReset value answered) :=
  Shape.of_brought_nil rfl
theorem Shape.selfCheckEnd (valueOk : Bool) (libraryOk : Bool) (profileOk : Bool) : Shape.Statement (.selfCheckEnd valueOk libraryOk profileOk) :=
  Shape.of_brought_nil rfl
theorem Shape.dataWrite (word : Word) : Shape.Statement (.dataWrite word) := Shape.of_brought_nil rfl
theorem Shape.dataRead : Shape.Statement .dataRead := Shape.of_brought_nil rfl
theorem Shape.setInterruptEnables (control : Word) : Shape.Statement (.setInterruptEnables control) :=
  Shape.of_brought_nil rfl
theorem Shape.clearStateChangeFlag (control : Word) : Shape.Statement (.clearStateChangeFlag control) :=
  Shape.of_brought_nil rfl
theorem Shape.clearOverflow (control : Word) : Shape.Statement (.clearOverflow control) := Shape.of_brought_nil rfl
theorem Shape.assemblyTimerExpiry : Shape.Statement .assemblyTimerExpiry := Shape.of_brought_nil rfl
theorem Shape.assemblyResultPost : Shape.Statement .assemblyResultPost := Shape.of_brought_nil rfl
theorem Shape.loadForm : Shape.Statement .loadForm := Shape.of_brought_nil rfl
theorem Shape.discardForm : Shape.Statement .discardForm := Shape.of_brought_nil rfl
theorem Shape.queryForm : Shape.Statement .queryForm := Shape.of_brought_nil rfl
theorem Shape.setProfile : Shape.Statement .setProfile := Shape.of_brought_nil rfl
theorem Shape.configureLine : Shape.Statement .configureLine := Shape.of_brought_nil rfl
theorem Shape.enableLine : Shape.Statement .enableLine := Shape.of_brought_nil rfl
theorem Shape.disableLine : Shape.Statement .disableLine := Shape.of_brought_nil rfl
theorem Shape.queryLine : Shape.Statement .queryLine := Shape.of_brought_nil rfl
theorem Shape.resetLine : Shape.Statement .resetLine := Shape.of_brought_nil rfl
theorem Shape.openForm : Shape.Statement .openForm := Shape.of_brought_nil rfl
theorem Shape.closeForm : Shape.Statement .closeForm := Shape.of_brought_nil rfl
theorem Shape.clearEntry : Shape.Statement .clearEntry := Shape.of_brought_nil rfl
theorem Shape.holdInput : Shape.Statement .holdInput := Shape.of_brought_nil rfl
theorem Shape.resumeInput : Shape.Statement .resumeInput := Shape.of_brought_nil rfl
theorem Shape.readField : Shape.Statement .readField := Shape.of_brought_nil rfl
theorem Shape.writeField : Shape.Statement .writeField := Shape.of_brought_nil rfl
theorem Shape.setFieldStateProtect : Shape.Statement .setFieldStateProtect := Shape.of_brought_nil rfl
theorem Shape.setFieldStateUnprotect : Shape.Statement .setFieldStateUnprotect := Shape.of_brought_nil rfl
theorem Shape.setFieldStateDefined : Shape.Statement .setFieldStateDefined := Shape.of_brought_nil rfl
theorem Shape.setFieldStateMark : Shape.Statement .setFieldStateMark := Shape.of_brought_nil rfl
theorem Shape.setFieldStateUnmark : Shape.Statement .setFieldStateUnmark := Shape.of_brought_nil rfl
theorem Shape.placeCursor : Shape.Statement .placeCursor := Shape.of_brought_nil rfl
theorem Shape.showMessage : Shape.Statement .showMessage := Shape.of_brought_nil rfl
theorem Shape.repaint : Shape.Statement .repaint := Shape.of_brought_nil rfl
theorem Shape.postBuffer : Shape.Statement .postBuffer := Shape.of_brought_nil rfl
theorem Shape.withdrawBuffers : Shape.Statement .withdrawBuffers := Shape.of_brought_nil rfl
theorem Shape.acceptEntryClose : Shape.Statement .acceptEntryClose := Shape.of_brought_nil rfl
theorem Shape.acceptEntryRenew : Shape.Statement .acceptEntryRenew := Shape.of_brought_nil rfl
theorem Shape.returnEntry : Shape.Statement .returnEntry := Shape.of_brought_nil rfl
theorem Shape.queryPart : Shape.Statement .queryPart := Shape.of_brought_nil rfl
theorem Shape.transferStart : Shape.Statement .transferStart := Shape.of_brought_nil rfl
theorem Shape.formFetchEnd (bytes : List Byte) : Shape.Statement (.formFetchEnd bytes) :=
  ⟨fun h => (of_decide_eq_true h).2.trans (by decide), fun _ _ => nofun⟩
theorem Shape.profileFetchEnd (bytes : List Byte) : Shape.Statement (.profileFetchEnd bytes) :=
  ⟨fun h => (of_decide_eq_true h).le.trans (by decide), fun _ _ => nofun⟩
theorem Shape.presetFetchEnd (bytes : List Byte) : Shape.Statement (.presetFetchEnd bytes) :=
  ⟨fun h => (of_decide_eq_true h).2.trans (by decide), fun _ _ => nofun⟩
theorem Shape.deliveryComplete : Shape.Statement .deliveryComplete := Shape.of_brought_nil rfl
theorem Shape.busFault (answered : Nat) (bytes : List Byte) : Shape.Statement (.busFault answered bytes) :=
  ⟨fun h => of_decide_eq_true h, fun _ _ => nofun⟩
theorem Shape.characterReceived (line : LineId) (char : RxChar) : Shape.Statement (.characterReceived line char) :=
  Shape.of_brought_nil rfl
theorem Shape.breakEnd (line : LineId) : Shape.Statement (.breakEnd line) := Shape.of_brought_nil rfl
theorem Shape.readyInputChange (line : LineId) (present : Bool) : Shape.Statement (.readyInputChange line present) :=
  Shape.of_brought_nil rfl
theorem Shape.settleTimerExpiry (line : LineId) : Shape.Statement (.settleTimerExpiry line) := Shape.of_brought_nil rfl
theorem Shape.stallTimerExpiry (line : LineId) : Shape.Statement (.stallTimerExpiry line) := Shape.of_brought_nil rfl
theorem Shape.byteTransmitStart (line : LineId) : Shape.Statement (.byteTransmitStart line) := Shape.of_brought_nil rfl
theorem Shape.byteTaken (line : LineId) : Shape.Statement (.byteTaken line) := Shape.of_brought_nil rfl
theorem Shape.gapTimerExpiry (line : LineId) : Shape.Statement (.gapTimerExpiry line) := Shape.of_brought_nil rfl
theorem Shape.keyClaimGrant (line : LineId) : Shape.Statement (.keyClaimGrant line) := Shape.of_brought_nil rfl
theorem Shape.lineEvent (line : LineId) : Shape.Statement (.lineEvent line) := Shape.of_brought_nil rfl
theorem Shape.inactivityTimerExpiry (line : LineId) : Shape.Statement (.inactivityTimerExpiry line) :=
  Shape.of_brought_nil rfl
theorem Shape.verdictTimerExpiry (line : LineId) : Shape.Statement (.verdictTimerExpiry line) := Shape.of_brought_nil rfl
theorem Shape.unitComposition (line : LineId) : Shape.Statement (.unitComposition line) := Shape.of_brought_nil rfl
theorem Shape.receivedStreamIdleSeen (line : LineId) : Shape.Statement (.receivedStreamIdleSeen line) :=
  Shape.of_brought_nil rfl

end Sys2Proof.Laws
end

