-- ==== Sys2Proof/Laws/Releases.lean ====
section
/-! SUPPORT. What keys release: the Key Interpreter's functions give what `Safety.Examined`, `Safety.PendingOut` and
`Safety.EntryOut` say, and the rounds that `examine` is given are enough. -/

namespace Sys2Proof.Machine

open Sys2Proof.Safety

/-- R72, case 2, as `OpensEntry` says it. -/
theorem Profile.opensEntry_iff (p : Profile) (q : List Byte) : p.opensEntry q = true ↔ OpensEntry p q := by
  simp only [Profile.opensEntry, OpensEntry, List.any_eq_true, Bool.and_eq_true, List.isPrefixOf_iff_prefix, decide_eq_true_eq]
  refine exists_congr fun k => and_congr_right fun _ => and_congr_right fun h => ⟨fun hl he => ?_, fun hn => ?_⟩
  · rw [he] at hl
    exact absurd hl (Nat.lt_irrefl _)
  · exact lt_of_le_of_ne h.length_le fun he => hn (h.eq_of_length he).symm

/-- R72, case 1: an entry gives its action. -/
theorem Profile.exactEntry_of {p : Profile} {q : List Byte} {a : Action} (h : IsEntry p q a) : p.exactEntry q = some a := by
  unfold Profile.exactEntry
  cases hf : p.keyTable.find? fun e => e.keys == q with
  | none =>
    obtain ⟨⟨k, hk, e⟩, -⟩ := h
    exact absurd (List.find?_eq_none.1 hf k hk) (by simp [e])
  | some k => rw [Option.map_some, h.2 k (List.mem_of_find?_eq_some hf) (by simpa using List.find?_some hf)]

/-- R72, case 1: a sequence that is no entry has no action. -/
theorem Profile.exactEntry_none {p : Profile} {q : List Byte} (h : ∀ k ∈ p.keyTable, k.keys ≠ q) : p.exactEntry q = none := by
  rw [Profile.exactEntry, Option.map_eq_none_iff, List.find?_eq_none]
  exact fun k hk => by simpa using h k hk

/-- R73, R75: the longest entry, looked for downward from a length no entry exceeds. -/
theorem Profile.longestEntry_of {p : Profile} {q pending : List Byte} {a : Action} (hq : q ≠ []) (hp : q <+: pending)
    (ha : IsEntry p q a) (hl : ∀ k ∈ p.keyTable, k.keys <+: pending → k.keys.length ≤ q.length) :
    ∀ n, q.length ≤ n → n ≤ pending.length → p.longestEntry pending n = some (q.length, a) := by
  have hpos := List.length_pos_iff.2 hq
  intro n
  induction n with
  | zero => omega
  | succ n ih =>
    intro h1 h2
    rw [Profile.longestEntry]
    rcases Nat.lt_or_ge n q.length with h | h
    · have e : q.length = n + 1 := by omega
      rw [← e, ← List.prefix_iff_eq_take.1 hp, Profile.exactEntry_of ha]
    · rw [Profile.exactEntry_none fun k hk he => ?_, ih h (by omega)]
      have := hl k hk (he ▸ List.take_prefix _ _)
      rw [he, List.length_take] at this
      omega

/-- R73, R75: no entry is a prefix of the pending bytes. -/
theorem Profile.longestEntry_none {p : Profile} {pending : List Byte}
    (h : ∀ k ∈ p.keyTable, k.keys ≠ [] → ¬ k.keys <+: pending) : ∀ n, n ≤ pending.length → p.longestEntry pending n = none
  | 0, _ => rfl
  | n + 1, hn => by
    rw [Profile.longestEntry, Profile.exactEntry_none fun k hk he => ?_, p.longestEntry_none h n (by omega)]
    refine h k hk (fun e => ?_) (he ▸ List.take_prefix _ _)
    have := congrArg List.length (he.symm.trans e)
    rw [List.length_take, List.length_nil] at this
    omega

/-- R73, R75: the first release of the pending bytes. -/
theorem Profile.releaseFirst_of {p : Profile} {pending rest : List Byte} {a : Action} (h : FirstOf p pending a rest) :
    p.releaseFirst pending = (a, rest) ∧ rest.length < pending.length := by
  unfold Profile.releaseFirst
  rcases h with ⟨q, hq, rfl, ha, hl⟩ | ⟨b, rfl, ⟨-, hm⟩, hn⟩
  · rw [Profile.longestEntry_of hq (List.prefix_append q rest) ha hl _ (by simp) le_rfl]
    have := List.length_pos_iff.2 hq
    exact ⟨by simp, by simp; omega⟩
  · rw [Profile.longestEntry_none hn _ le_rfl]
    refine ⟨?_, by simp⟩
    simp only [List.headD_cons, List.drop_succ_cons, List.drop_zero, Profile.mapped, Prod.mk.injEq, and_true]
    rw [← hm]
    congr 1
    exact if_congr ⟨fun h => BitVec.eq_of_toNat_eq h, fun h => by rw [h]; rfl⟩ rfl rfl

/-- R71: a byte classified alone. -/
theorem Profile.aloneRun_of {p : Profile} {b : Byte} {es : List Elem} {bell : Bool} (h : Alone p b es bell) :
    p.aloneRun b = es ∧ aloneBell b = bell := by
  have hd : printable b = true → control b = false := by
    simp only [printable, control, decide_eq_true_eq, decide_eq_false_iff_not]
    omega
  rcases h with ⟨a, ⟨hc, hm⟩, rfl, rfl⟩ | ⟨hp, rfl, rfl⟩ | ⟨hc, hp, rfl, rfl⟩
  · refine ⟨?_, by simp [aloneBell, hc]⟩
    rw [Profile.aloneRun, if_pos hc, ← hm, Profile.mapped]
    congr 2
    exact if_congr ⟨fun h => BitVec.eq_of_toNat_eq h, fun h => by rw [h]; rfl⟩ rfl rfl
  · simp [Profile.aloneRun, aloneBell, hd hp, hp]
  · simp [Profile.aloneRun, aloneBell, hc, hp]

/-- The rounds that an examination may still need. -/
def rounds (pending bytes : List Byte) : Nat :=
  (pending.length + bytes.length) * (pending.length + bytes.length + 1) + bytes.length

/-- Fewer bytes need fewer rounds. -/
theorem rounds_lt {p q : List Byte} {b : Byte} {bs cs : List Byte} (h : q.length + cs.length < p.length + (b :: bs).length) :
    rounds q cs < rounds p (b :: bs) := by
  unfold rounds
  have := Nat.mul_le_mul (Nat.le_sub_one_of_lt h) (Nat.add_le_add_right (Nat.le_sub_one_of_lt h) 1)
  simp only [List.length_cons] at *
  have e : ∀ n, n + 1 - 1 = n := fun _ => rfl
  rw [← Nat.add_assoc, e] at this
  nlinarith

/-- R72, R73: `examine` gives what `Examined` says, whatever rounds it has beyond those it needs. -/
theorem Profile.examine_of {p : Profile} {pending bytes : List Byte} {es : List Elem} {left : List Byte} {bell : Bool}
    (h : Examined p pending bytes es left bell) :
    ∀ fuel, rounds pending bytes ≤ fuel → p.examine fuel pending bytes = ⟨es, left, bell⟩ := by
  induction h with
  | none pending => rintro (_ | _) _ <;> rfl
  | opens ho _ ih =>
    rintro (_ | fuel) hf
    · simp [rounds] at hf
    · rw [Profile.examine]
      simp only [(p.opensEntry_iff _).2 ho, if_true]
      refine ih fuel ?_
      simp only [rounds, List.length_append, List.length_cons, List.length_nil] at hf ⊢
      ring_nf at hf ⊢
      omega
  | entry he ho _ ih =>
    rintro (_ | fuel) hf
    · simp [rounds] at hf
    · rw [Profile.examine]
      simp only [Bool.not_eq_true _ ▸ mt (p.opensEntry_iff _).1 ho, Profile.exactEntry_of he]
      rw [ih fuel (Nat.le_of_lt_succ (lt_of_lt_of_le (rounds_lt (by simp; omega)) hf))]
      rfl
  | @alone b es bs es' left bell bell' hs ha _ ih =>
    rintro (_ | fuel) hf
    · simp [rounds] at hf
    · have hn : ∀ k ∈ p.keyTable, ¬ [b] <+: k.keys := fun k hk hpre => by
        obtain ⟨r, hr⟩ := hpre
        exact hs k hk (by rw [← hr]; rfl)
      have h1 : p.opensEntry ([] ++ [b]) = false :=
        Bool.eq_false_iff.2 fun h => by obtain ⟨k, hk, hp, -⟩ := (p.opensEntry_iff _).1 h; exact hn k hk hp
      rw [Profile.examine]
      simp only [h1, Bool.false_eq_true, if_false, List.isEmpty_nil, if_true,
        Profile.exactEntry_none (p := p) (q := [] ++ [b]) fun k hk he => hn k hk (he ▸ List.prefix_rfl)]
      rw [ih fuel (Nat.le_of_lt_succ (lt_of_lt_of_le (rounds_lt (by simp)) hf)), (p.aloneRun_of ha).1, (p.aloneRun_of ha).2]
  | @release pending b a rest bs es left bell hp hn hf' _ ih =>
    rintro (_ | fuel) hf
    · simp [rounds] at hf
    · obtain ⟨e, hlen⟩ := p.releaseFirst_of hf'
      have h1 : p.opensEntry (pending ++ [b]) = false :=
        Bool.eq_false_iff.2 fun h => by obtain ⟨k, hk, hp, -⟩ := (p.opensEntry_iff _).1 h; exact hn k hk hp
      rw [Profile.examine]
      simp only [h1, Bool.false_eq_true, if_false, List.isEmpty_iff, hp, e,
        Profile.exactEntry_none (p := p) (q := pending ++ [b]) fun k hk he => hn k hk (he ▸ List.prefix_rfl)]
      rw [ih fuel (Nat.le_of_lt_succ (lt_of_lt_of_le (rounds_lt (by simp; omega)) hf))]
      rfl

/-- R75: what the pending bytes release as they stand. -/
theorem Profile.gapRelease_of {p : Profile} {pending : List Byte} {es : List Elem} {left : List Byte} {bell : Bool}
    (h : PendingOut p pending es left bell) : p.gapRelease pending = ⟨es, left, bell⟩ := by
  rcases h with ⟨rfl, rfl, rfl, rfl⟩ | ⟨a, rest, es', hf, he, rfl⟩
  · rfl
  · obtain ⟨e, hlen⟩ := p.releaseFirst_of hf
    have hne : pending.isEmpty = false := by cases pending <;> simp_all
    rw [Profile.gapRelease, hne]
    simp only [Bool.false_eq_true, if_false, e]
    rw [Profile.examine_of he]
    · rfl
    · simp only [rounds, examineFuel, List.length_nil]
      nlinarith

/-- R72, R73, R81: what an entry of the type-ahead releases. -/
theorem Profile.takeEntry_of {p : Profile} {action : BreakAction} {pending : List Byte} {e : Entry} {es : List Elem}
    {left : List Byte} {bell : Bool} (h : EntryOut p action pending e es left bell) :
    p.takeEntry action pending e = ⟨es, left, bell⟩ := by
  cases e with
  | byte b =>
    refine Profile.examine_of h _ ?_
    simp only [rounds, examineFuel, List.length_cons, List.length_nil]
    nlinarith
  | breakMarker =>
    cases action with
    | ignore =>
      obtain ⟨rfl, rfl, rfl⟩ := h
      rfl
    | refresh =>
      obtain ⟨es', h', rfl⟩ := h
      simp [Profile.takeEntry, Profile.takeBreak, Profile.gapRelease_of h']
    | attention =>
      obtain ⟨es', h', rfl⟩ := h
      simp [Profile.takeEntry, Profile.takeBreak, Profile.gapRelease_of h']

/-- R69, R75: what the Key Interpreter considers releases the run that `Considers` gives. -/
theorem State.considered_of {s : State} {l : LineId} {es : List Elem} (h : Considers s l es) :
    ∃ rel, s.considered l = some rel ∧ rel.run = es := by
  obtain ⟨left, bell, ⟨hd, hp⟩ | ⟨hd, e, q, hq, he⟩⟩ := h
  · exact ⟨⟨es, left, bell⟩, by rw [State.considered, if_pos hd, Profile.gapRelease_of hp], rfl⟩
  · exact ⟨⟨es, left, bell⟩, by simp [State.considered, hd, hq, Profile.takeEntry_of he], rfl⟩

end Sys2Proof.Machine
end

