-- ==== Sys2Proof/Laws/Taking.lean ====
section
/-! SUPPORT. The taking of a command: what the assembler does with the words behind it, and what a row does with the command
that is offered. -/

namespace Sys2Proof.Machine

open Sys2Proof.Safety

/-- The number of a word made of two bytes. -/
theorem toNat_wordOf (a b : Byte) : (wordOf a b).toNat = 256 * b.toNat + a.toNat := by
  have e : (wordOf a b).toNat = (b ++ a).toNat := rfl
  rw [e, BitVec.toNat_append, ← Nat.shiftLeft_add_eq_or_of_lt a.isLt, Nat.shiftLeft_eq]
  omega

/-- The low byte of a word made of two bytes. -/
@[simp] theorem lowByte_wordOf (a b : Byte) : lowByte (wordOf a b) = a := by
  apply BitVec.eq_of_toNat_eq
  rw [lowByte, BitVec.toNat_setWidth, toNat_wordOf]
  have := a.isLt
  omega

/-- The high byte of a word made of two bytes. -/
@[simp] theorem highByte_wordOf (a b : Byte) : highByte (wordOf a b) = b := by
  apply BitVec.eq_of_toNat_eq
  rw [highByte, BitVec.toNat_setWidth, BitVec.toNat_ushiftRight, toNat_wordOf, Nat.shiftRight_eq_div_pow]
  have := a.isLt
  have := b.isLt
  omega

/-- What a FREE assembler makes of an empty queue. -/
theorem headerTaken_nil : HeaderTaken [] .free [] := ⟨rfl, rfl⟩

/-- What a FREE assembler makes of a header with a count outside 2 to 40. -/
theorem headerTaken_bad {w : Word} {rest : List Word} (h : (lowByte w).toNat < 2 ∨ 40 < (lowByte w).toNat) :
    HeaderTaken (w :: rest) (.owing 0 .badLength) rest := by
  simp only [HeaderTaken, if_pos h, and_self]

/-- What a FREE assembler makes of a header whose command is whole. -/
theorem headerTaken_whole {w : Word} {rest : List Word} (h : ¬((lowByte w).toNat < 2 ∨ 40 < (lowByte w).toNat))
    (hl : (lowByte w).toNat ≤ rest.length + 1) :
    HeaderTaken (w :: rest) (.complete (decodeHeader (highByte w) (lowByte w).toNat)) (w :: rest) := by
  simp only [HeaderTaken, if_neg h, if_pos hl, and_self]

/-- What a FREE assembler makes of a header whose command is not yet whole. -/
theorem headerTaken_part {w : Word} {rest : List Word} (h : ¬((lowByte w).toNat < 2 ∨ 40 < (lowByte w).toNat))
    (hl : ¬(lowByte w).toNat ≤ rest.length + 1) : HeaderTaken (w :: rest) (.gathering (.running 5)) (w :: rest) := by
  simp only [HeaderTaken, if_neg h, if_neg hl, and_self]

/-- Everything `assemble` does with a FREE assembler: it takes up the header at the head of the queue (R184). -/
theorem State.assemble_free (u : State) (h : u.assembler = .free) :
    HeaderTaken u.commandQueue u.assemble.assembler u.assemble.commandQueue ∧
      u.assemble = { u with assembler := u.assemble.assembler, commandQueue := u.assemble.commandQueue } := by
  cases hq : u.commandQueue with
  | nil =>
    have e : u.assemble = u := by simp [State.assemble, h, hq]
    rw [e, h, hq]
    refine ⟨headerTaken_nil, ?_⟩
    rw [← h, ← hq]
  | cons w rest =>
    by_cases hc : (lowByte w).toNat < 2 ∨ 40 < (lowByte w).toNat
    · have e : u.assemble = { u with commandQueue := rest, assembler := .owing 0 .badLength } := by
        simp only [State.assemble, h, hq, if_pos hc]
      rw [e]
      exact ⟨headerTaken_bad hc, rfl⟩
    · by_cases hl : (lowByte w).toNat ≤ rest.length + 1
      · have e : u.assemble =
            { u with assembler := .complete (decodeHeader (highByte w) (lowByte w).toNat) } := by
          simp only [State.assemble, h, hq, if_neg hc, State.completeIfWhole, State.headCount, List.length_cons,
            if_pos hl]
        rw [e]
        exact ⟨by simpa only [hq] using headerTaken_whole hc hl, rfl⟩
      · have e : u.assemble = { u with assembler := .gathering (.running 5) } := by
          simp only [State.assemble, h, hq, if_neg hc, State.completeIfWhole, State.headCount, List.length_cons,
            if_neg hl]
          rfl
        rw [e]
        exact ⟨by simpa only [hq] using headerTaken_part hc hl, rfl⟩

/-- `assemble` changes the assembler and the command queue alone. -/
theorem State.assemble_frame (u : State) :
    u.assemble = { u with assembler := u.assemble.assembler, commandQueue := u.assemble.commandQueue } := by
  cases ha : u.assembler with
  | free => exact (u.assemble_free ha).2
  | gathering t =>
    have : u.assemble = u.completeIfWhole := by simp [State.assemble, ha]
    rw [this]
    unfold State.completeIfWhole
    split
    · split <;> rfl
    · rfl
  | complete d =>
    have : u.assemble = u := by simp [State.assemble, ha]
    rw [this]
  | owing t st =>
    have : u.assemble = u := by simp [State.assemble, ha]
    rw [this]

/-- The command an offered command is. -/
theorem State.headCommand_of_offered {s : State} {code : CommandCode} {tag target : Byte} {args rest : List Word}
    (h : Offered s code tag target args rest) : s.headCommand = some ⟨code, tag, target, args⟩ := by
  obtain ⟨w, hw, hq⟩ := h.words
  simp only [State.headCommand, h.complete, hq, State.headCount, hw, lowByte_wordOf, highByte_wordOf]
  simp

/-- The command that is taken next is the one offered. -/
theorem State.grantedCommand_of_offered {s : State} {code : CommandCode} {tag target : Byte} {args rest : List Word}
    (h : Offered s code tag target args rest) : s.grantedCommand = some ⟨code, tag, target, args⟩ := by
  simp [State.grantedCommand, h.turn, State.headCommand_of_offered h]

/-- The state from which the owning block of an offered command acts (R186, step 1). -/
theorem State.beginTaking_of_offered {s : State} {code : CommandCode} {tag target : Byte} {args rest : List Word}
    (h : Offered s code tag target args rest) :
    s.beginTaking ⟨code, tag, target, args⟩ =
      { s with
        pointer := .commandUnit
        reserved := s.reserved + code.reservation
        commandQueue := rest
        assembler := .free } := by
  obtain ⟨w, hw, hq⟩ := h.words
  simp [State.beginTaking, State.grant, hq, State.headCount, hw]

/-- A row that accepts the offered command lets its owning block act and takes up the next header (R186). -/
theorem State.takeCommand_of_offered {s : State} {code : CommandCode} {tag target : Byte} {args rest : List Word}
    (h : Offered s code tag target args rest) {accepts : Command → Bool} (act : Command → State → State)
    (ha : accepts ⟨code, tag, target, args⟩ = true) :
    s.takeCommand accepts act =
      (act ⟨code, tag, target, args⟩
        { s with
          pointer := .commandUnit
          reserved := s.reserved + code.reservation
          commandQueue := rest
          assembler := .free }).assemble := by
  simp [State.takeCommand, State.grantedCommand_of_offered h, ha, State.beginTaking_of_offered h]

/-- A row whose owning block leaves `u`, having touched neither the assembler nor the command queue, has taken its
command. -/
theorem took_of_assemble {u v : State} {rest : List Word} (ha : u.assembler = .free) (hq : u.commandQueue = rest)
    (hp : u.pointer = .commandUnit)
    (hu : { v with assembler := u.assembler, commandQueue := u.commandQueue, pointer := u.pointer } = u) :
    Took v u.assemble rest := by
  obtain ⟨h1, h2⟩ := u.assemble_free ha
  subst hq
  refine ⟨h1, ?_⟩
  rw [← hp]
  generalize u.assemble = t at *
  rw [h2]
  rw [← hu]

/-- What a command row does with the offered command, from what its owning block does. -/
theorem does_of {s u : State} {code : CommandCode} {tag target : Byte} {args rest : List Word} {row : Instr}
    (h : Offered s code tag target args rest) {accepts : Command → Bool} {act : Command → State → State}
    (hx : exec row s = .next (s.prompted row (s.effect row))) (hr : s.effect row = s.takeCommand accepts act)
    (ha : accepts ⟨code, tag, target, args⟩ = true)
    (hu : act ⟨code, tag, target, args⟩
        { s with
          pointer := .commandUnit
          reserved := s.reserved + code.reservation
          commandQueue := rest
          assembler := .free } = { u with pointer := .commandUnit, commandQueue := rest, assembler := .free }) :
    Does row s rest u := by
  refine ⟨_, gives_of hx hr, ?_⟩
  rw [State.takeCommand_of_offered h act ha, hu]
  exact took_of_assemble rfl rfl rfl rfl

/-- A command row whose command is not the one granted next does nothing. -/
theorem State.takeCommand_of_none {s : State} (h : s.grantedCommand = none) (accepts : Command → Bool)
    (act : Command → State → State) : s.takeCommand accepts act = s := by simp [State.takeCommand, h]

/-- All that a command row can do: nothing, or what its owning block does, with the next header taken up. -/
theorem State.takeCommand_cases (s : State) (accepts : Command → Bool) (act : Command → State → State) :
    s.takeCommand accepts act = s ∨
      ∃ c, s.grantedCommand = some c ∧ accepts c = true ∧
        s.takeCommand accepts act = (act c (s.beginTaking c)).assemble := by
  unfold State.takeCommand
  cases h : s.grantedCommand with
  | none => exact .inl rfl
  | some c =>
    by_cases ha : accepts c = true
    · exact .inr ⟨c, rfl, ha, by simp [ha]⟩
    · exact .inl (by simp [ha])

/-- All that an instance command can do: a refusal that changes nothing else, or its effect on the instance named (R28). -/
theorem State.onInst_cases (s : State) (c : Command) (act : LineId → Inst → State → State) :
    (∃ st, s.instCheck c = .error st ∧ s.onInst c act = s.reply c st []) ∨
      ∃ l i, s.instCheck c = .ok (l, i) ∧ s.inst l = some i ∧ s.onInst c act = (act l i s).settle l := by
  unfold State.onInst
  cases h : s.instCheck c with
  | error st => exact .inl ⟨st, rfl, rfl⟩
  | ok p =>
    obtain ⟨l, i⟩ := p
    refine .inr ⟨l, i, rfl, ?_, rfl⟩
    unfold State.instCheck at h
    split at h
    · exact absurd h (by simp)
    · split at h
      · exact absurd h (by simp)
      · rename_i i' hi
        split at h
        · exact absurd h (by simp)
        · split at h
          · exact absurd h (by simp)
          · cases h; exact hi

/-- A line number of a target byte. -/
theorem lineOf_of_eq {b : Byte} {l : LineId} (h : b.toNat = l.val) : lineOf b = some l := by
  simp [lineOf, h]

/-- A slot number. -/
theorem slotOf_of_eq {n : Nat} {k : SlotId} (h : n = k.val) : slotOf n = some k := by
  subst h; simp [slotOf]

/-- A profile number. -/
theorem profileOf_of_eq {n : Nat} {p : ProfileId} (h : n = p.val) : profileOf n = some p := by
  subst h; simp [profileOf]

/-- The result of a reply, with the reservation of its command released. -/
theorem State.reply_eq (s : State) (c : Command) (st : Status) (d : List Word) :
    s.reply c st d =
      { s with answerQueue := s.answerQueue ++ result c.tag st.code d, reserved := s.reserved - c.code.reservation } := by
  simp [State.reply, State.post, resultRecord, record, result]

end Sys2Proof.Machine
end

