-- ==== Sys2Proof/Laws/Settle.lean ====
section
/-! SUPPORT. What follows on a line in the same happening: `settle` does what `Safety.Becomes` says, on its line alone. -/

namespace Sys2Proof.Machine

open Sys2Proof.Safety

/-- The last record set on a line stands. -/
@[simp] theorem State.setLine_setLine (s : State) (l : LineId) (x y : Line) :
    (s.setLine l x).setLine l y = s.setLine l y := by simp [State.setLine]

/-- Setting a line to what it is changes nothing. -/
@[simp] theorem State.setLine_line (s : State) (l : LineId) : s.setLine l (s.line l) = s := by
  simp [State.setLine, State.line]

/-- The row of R30 interprets bytes on just the lines `Interprets` names. -/
theorem Line.interprets_eq (x : Line) : x.inputRow.interprets = Interprets x := by
  unfold Line.inputRow Interprets
  cases x.inst with
  | none => rfl
  | some i => cases x.detached <;> cases hh : i.held <;> cases h : i.phase <;> simp [InputRow.interprets, h, hh]

/-- The row of R30 is EDITING's on just the lines `Editable` names. -/
theorem Line.inputRow_editing (x : Line) : x.inputRow = .editing ↔ Editable x = true := by
  unfold Line.inputRow Editable
  cases x.inst with
  | none => simp
  | some i => cases x.detached <;> cases hh : i.held <;> cases h : i.phase <;> simp [h, hh]

/-- Whether the inactivity timer may run is what `Editable` says. -/
theorem Line.inactivityRuns_eq {x : Line} {i : Inst} (h : x.inst = some i) : x.inactivityRuns i = Editable x := by
  simp [Line.inactivityRuns, Editable, h]

/-- The inactivity timer of a line, settled. -/
theorem Line.settleInactivity_eq (y : Line) :
    y.settleInactivity = { y with inst := y.inst.map fun i => { i with inactivity := inactivityAfter y i } } := by
  unfold Line.settleInactivity
  cases h : y.inst with
  | none =>
    simp only [Option.map_none]
    rw [← h]
  | some i =>
    simp only [Line.inactivityRuns_eq h, Option.map_some, inactivityAfter]
    cases i.inactivity <;> simp [Timer.start, Config.ticksPerSecond]
    cases Editable y <;> by_cases hc : y.config.inactivity = 0 <;> simp [hc, Nat.mul_comm]

/-- What a change of the inactivity timer leaves of the rows of R30. -/
theorem interprets_inactivity (y : Line) (f : Inst → Timer) :
    Interprets { y with inst := y.inst.map fun i => { i with inactivity := f i } } = Interprets y := by
  cases h : y.inst <;> simp [Interprets, h]

/-- What a change of the inactivity timer leaves of the rows of R30. -/
theorem editable_inactivity (y : Line) (f : Inst → Timer) (g : Timer) :
    Editable { y with inst := y.inst.map (fun i => { i with inactivity := f i }), gapTimer := g } = Editable y := by
  cases h : y.inst <;> simp [Editable, h]

/-- The two timers of a line, settled. -/
theorem Line.settleTimers_eq (y : Line) :
    y.settleInactivity.settleGap =
      { y with
        inst := y.inst.map fun i => { i with inactivity := inactivityAfter y i }
        gapTimer := gapAfter y } := by
  rw [Line.settleInactivity_eq]
  simp only [Line.settleGap, Line.interprets_eq, interprets_inactivity]
  unfold gapAfter
  cases hp : y.pendingKeys <;> cases ht : y.typeAhead <;> cases hd : y.releaseDue <;> cases hi : Interprets y <;>
    simp [Timer.isRunning]
  cases hg : y.gapTimer <;> simp [← hg]

/-- The claim of a line, chosen anew. -/
theorem State.lineClaim_cases (s : State) (l : LineId) :
    (∀ n, (s.line l).claim = .key n → Editable (s.line l) = true → s.lineClaim l = .key n) ∧
    ((Editable (s.line l) = true → ∀ n, (s.line l).claim ≠ .key n) → (s.line l).flags.any = true →
      s.lineClaim l = .event) ∧
    ((Editable (s.line l) = true → ∀ n, (s.line l).claim ≠ .key n) → (s.line l).flags.any = false →
      s.lineClaim l = .absent ∨
        Editable (s.line l) = true ∧ ((s.line l).releaseDue = true ∨ (s.line l).typeAhead ≠ []) ∧
          ∃ n, 0 < n ∧ s.lineClaim l = .key n) := by
  have he := Line.inputRow_editing (s.line l)
  unfold State.lineClaim
  refine ⟨fun n hn hed => ?_, fun hk hf => ?_, fun hk hf => ?_⟩
  · rw [hn, he.2 hed]
  · split
    · rename_i n h1 h2
      exact absurd h1 (hk (he.1 h2) n)
    · simp [hf]
  · split
    · rename_i n h1 h2
      exact absurd h1 (hk (he.1 h2) n)
    · simp only [hf, Bool.false_eq_true, if_false]
      split
      · rename_i h3
        cases hc : s.considered l with
        | none => exact .inl rfl
        | some rel =>
          simp only
          split
          · exact .inl rfl
          · refine .inr ⟨he.1 h3, ?_, _, Nat.pos_of_ne_zero ‹_›, rfl⟩
            unfold State.considered at hc
            split at hc
            · exact .inl ‹_›
            · split at hc
              · rename_i h5; exact .inr (by simp [h5])
              · cases hc
      · exact .inl rfl

/-- The claim of a line, chosen anew, is that of the run the Key Interpreter considers. -/
theorem State.lineClaim_made (v : State) (l : LineId) : ClaimMade v l (v.lineClaim l) := by
  intro he hf hk es hc
  obtain ⟨rel, h1, rfl⟩ := State.considered_of hc
  unfold State.lineClaim
  split
  · rename_i n h2 h3
    exact absurd h2 (hk n)
  · simp only [hf, Bool.false_eq_true, if_false, (Line.inputRow_editing _).2 he, if_true, h1]

/-- `settle` changes its line alone, and leaves it as `Becomes` and `ClaimMade` say. -/
theorem State.settle_becomes (s : State) (l : LineId) :
    ∃ x, s.settle l = s.setLine l x ∧ Becomes x (s.line l) ∧
      ClaimMade (s.setLine l { x with claim := (s.line l).claim }) l x.claim := by
  let y := s.line l
  let z : Line := { y with
        inst := y.inst.map fun i => { i with inactivity := inactivityAfter y i }
        gapTimer := gapAfter y }
  have hz : (s.setLine l z).line l = z := State.setLine_line_self _ _ _
  obtain ⟨h1, h2, h3⟩ := (s.setLine l z).lineClaim_cases l
  rw [hz] at h1 h2 h3
  have hez : Editable z = Editable y := editable_inactivity y _ _
  refine ⟨{ z with claim := (s.setLine l z).lineClaim l }, ?_, ⟨?_, ?_, ?_, ?_⟩, (s.setLine l z).lineClaim_made l⟩
  · simp only [State.settle, State.modLine, Line.settleTimers_eq]
    rw [show (s.setLine l z).line l = z from hz]
    simp only [State.setLine_setLine]
    rfl
  · rfl
  · exact fun n hn he => h1 n hn (hez.trans he)
  · exact fun hk => h2 fun he => hk (hez.symm.trans he)
  · intro hk hf
    rcases h3 (fun he => hk (hez.symm.trans he)) hf with h | ⟨a, b, c⟩
    · exact .inl h
    · exact .inr ⟨hez.symm.trans a, b, c⟩

/-- A change of the instance of a line, as a change of the line. -/
theorem State.modInst_eq (s : State) (l : LineId) (f : Inst → Inst) :
    s.modInst l f = s.setLine l { s.line l with inst := (s.line l).inst.map f } := by
  unfold State.modInst State.inst
  cases h : (s.line l).inst with
  | none =>
    have e : ({ s.line l with inst := Option.map f none } : Line) = s.line l := by rw [Option.map_none, ← h]
    simp only
    rw [e, State.setLine_line]
  | some i => simp [State.setInst, State.modLine]

/-! ## Field work noted behind a paint (R114) -/

@[simp] theorem Inst.fieldWorkSince_slot (j i : Inst) : (j.fieldWorkSince i).slot = j.slot := rfl
@[simp] theorem Inst.fieldWorkSince_serial (j i : Inst) : (j.fieldWorkSince i).serial = j.serial := rfl
@[simp] theorem Inst.fieldWorkSince_phase (j i : Inst) : (j.fieldWorkSince i).phase = j.phase := rfl
@[simp] theorem Inst.fieldWorkSince_held (j i : Inst) : (j.fieldWorkSince i).held = j.held := rfl
@[simp] theorem Inst.fieldWorkSince_late (j i : Inst) : (j.fieldWorkSince i).late = j.late := rfl
@[simp] theorem Inst.fieldWorkSince_extent (j i : Inst) : (j.fieldWorkSince i).extent = j.extent := rfl
@[simp] theorem Inst.fieldWorkSince_cursorField (j i : Inst) : (j.fieldWorkSince i).cursorField = j.cursorField := rfl
@[simp] theorem Inst.fieldWorkSince_cursorPos (j i : Inst) : (j.fieldWorkSince i).cursorPos = j.cursorPos := rfl
@[simp] theorem Inst.fieldWorkSince_insertMode (j i : Inst) : (j.fieldWorkSince i).insertMode = j.insertMode := rfl
@[simp] theorem Inst.fieldWorkSince_edited (j i : Inst) : (j.fieldWorkSince i).edited = j.edited := rfl
@[simp] theorem Inst.fieldWorkSince_message (j i : Inst) : (j.fieldWorkSince i).message = j.message := rfl
@[simp] theorem Inst.fieldWorkSince_imageSize (j i : Inst) : (j.fieldWorkSince i).imageSize = j.imageSize := rfl
@[simp] theorem Inst.fieldWorkSince_resubmit (j i : Inst) : (j.fieldWorkSince i).resubmit = j.resubmit := rfl
@[simp] theorem Inst.fieldWorkSince_heldBuffer (j i : Inst) : (j.fieldWorkSince i).heldBuffer = j.heldBuffer := rfl
@[simp] theorem Inst.fieldWorkSince_reservation (j i : Inst) : (j.fieldWorkSince i).reservation = j.reservation := rfl
@[simp] theorem Inst.fieldWorkSince_pendingOpen (j i : Inst) : (j.fieldWorkSince i).pendingOpen = j.pendingOpen := rfl
@[simp] theorem Inst.fieldWorkSince_pendingClose (j i : Inst) : (j.fieldWorkSince i).pendingClose = j.pendingClose := rfl
@[simp] theorem Inst.fieldWorkSince_inactivity (j i : Inst) : (j.fieldWorkSince i).inactivity = j.inactivity := rfl
@[simp] theorem Inst.fieldWorkSince_verdictTimer (j i : Inst) : (j.fieldWorkSince i).verdictTimer = j.verdictTimer := rfl
@[simp] theorem Inst.fieldWorkSince_fields (j i : Inst) : (j.fieldWorkSince i).fields = j.fields := rfl
@[simp] theorem Inst.fieldWorkSince_textIndex (j i : Inst) : (j.fieldWorkSince i).textIndex = j.textIndex := rfl
@[simp] theorem Inst.fieldWorkSince_messageStale (j i : Inst) : (j.fieldWorkSince i).messageStale = j.messageStale := rfl
@[simp] theorem Inst.fieldWorkSince_cursorStale (j i : Inst) : (j.fieldWorkSince i).cursorStale = j.cursorStale := rfl

/-- An element that leaves the fields' records as they are creates no field work. -/
theorem Inst.fieldWorkSince_of_fields {j i : Inst} (h : j.fields = i.fields) : j.fieldWorkSince i = j := by
  have hn : ∀ n, i.field n = j.field n := fun n => by simp [Inst.field, h]
  unfold Inst.fieldWorkSince
  cases j with
  | mk =>
    simp only [Inst.mk.injEq, true_and]
    rename_i p
    cases p with
    | none => rfl
    | some ns =>
      simp only [Option.map_some, Option.some.injEq, List.append_right_eq_self, List.filter_eq_nil_iff]
      intro n _
      rw [hn]
      simp only [Bool.and_eq_true, Option.isNone_iff_eq_none, Option.isSome_iff_ne_none, not_and]
      exact fun h1 => absurd h1.1 h1.2

/-- The field work that an element created, as `workNoted` says it. -/
theorem Inst.fieldWorkSince_eq (j i : Inst) :
    j.fieldWorkSince i =
      { j with
        paintLeft := j.paintLeft.map fun ns =>
          ns ++ (List.range j.fields.length).filter fun n =>
            (i.field n).staleFrom = none ∧ (j.field n).staleFrom ≠ none ∧ n ∉ ns } := by
  have h : ∀ ns : List Nat, ∀ n,
      ((i.field n).staleFrom.isNone && (j.field n).staleFrom.isSome && !ns.contains n) =
        decide ((i.field n).staleFrom = none ∧ (j.field n).staleFrom ≠ none ∧ n ∉ ns) := by
    intro ns n
    cases (i.field n).staleFrom <;> cases (j.field n).staleFrom <;> simp
  simp only [Inst.fieldWorkSince, h]

/-- The field work that an element created is noted on its line. -/
theorem State.fieldWork_noted (s u : State) (l : LineId) (y : Line) :
    (u.setLine l y).modInst l (fun j => j.fieldWorkSince (s.instOf l)) = u.setLine l (workNoted (s.line l) y) := by
  rw [State.modInst_eq, State.setLine_setLine, State.setLine_line_self]
  simp only [Inst.fieldWorkSince_eq]
  rfl

/-- A line whose pending bytes were released, before the run is applied. -/
theorem State.afterRelease_eq (s : State) (l : LineId) (rel : Released) :
    s.afterRelease l rel = s.setLine l (relieved (s.line l) rel.pending rel.bell) := by
  unfold State.afterRelease relieved State.bell
  cases rel.bell <;> cases hd : (s.line l).detached <;> simp [State.modLine, hd]

/-- A row that ends by settling its line leaves what `Leaves` says. -/
theorem leaves_of {row : Instr} {s u v : State} {l : LineId} {y : Line}
    (hx : exec row s = .next (s.prompted row (s.effect row))) (hr : s.effect row = v.settle l)
    (hl : v.line l = y) (hu : ∀ x, v.setLine l x = u.setLine l x) : Leaves row s u l y := by
  obtain ⟨x, e, hb, hc⟩ := v.settle_becomes l
  subst hl
  exact ⟨x, gives_of hx (by rw [hr, e, hu]), hb, by rw [← hu]; exact hc⟩

/-- What a command row does with the offered command, from what its owning block does on a line that it then settles. -/
theorem doesOn_of {s u : State} {code : CommandCode} {tag target : Byte} {args rest : List Word} {row : Instr}
    (h : Offered s code tag target args rest) {accepts : Command → Bool} {act : Command → State → State}
    (hx : exec row s = .next (s.prompted row (s.effect row))) (hr : s.effect row = s.takeCommand accepts act)
    (ha : accepts ⟨code, tag, target, args⟩ = true)
    {v : State} {l : LineId} {y : Line}
    (hv : act ⟨code, tag, target, args⟩
        { s with
          pointer := .commandUnit
          reserved := s.reserved + code.reservation
          commandQueue := rest
          assembler := .free } = v.settle l)
    (hl : v.line l = y)
    (hu : ∀ x, v.setLine l x =
      { u.setLine l x with pointer := .commandUnit, commandQueue := rest, assembler := .free }) :
    DoesOn row s rest u l y := by
  obtain ⟨x, e, hb, hc⟩ := v.settle_becomes l
  have hd : Does row s rest (u.setLine l x) := does_of h hx hr ha (by rw [hv, e, hu])
  obtain ⟨t, ht, h1, h2⟩ := hd
  have e : t.line l = x := by
    rw [h2]
    exact State.setLine_line_self u l x
  refine ⟨t, ht, by rw [e]; exact ⟨h1, h2⟩, by rw [e, ← hl]; exact hb, ?_⟩
  have hv' : ({ t with assembler := .free, commandQueue := rest } : State) = v.setLine l x := by rw [h2, hu]
  rw [hv', e, State.setLine_setLine, ← hl]
  exact hc

end Sys2Proof.Machine
end

