-- ==== Sys2Proof/Tests/Slice0.lean ====
section
/-! SUPPORT. Tests: the well-formedness checks, values the spec's own examples and tables give, and, for every statement that
has hypotheses, states and operands that meet them. -/

namespace Sys2Proof.Tests

open Sys2Proof Sys2Proof.Machine Sys2Proof.Safety

-- Each test waits for the kernel; one after another, they need one thread.
set_option Elab.async false

/-! ## Well-formedness: each check refuses an ill-formed term -/

/-- R169: a form image has 16 to 1808 bytes. -/
theorem test_wellFormed_formFetchEnd :
    WellFormed (.formFetchEnd (List.replicate 15 0)) = false ∧ WellFormed (.formFetchEnd (List.replicate 16 0)) = true := by
  decide +kernel

/-- R169: a form image has at most 1808 bytes. -/
theorem test_wellFormed_formFetchEnd_long :
    WellFormed (.formFetchEnd (List.replicate 1809 0)) = false := by
  decide +kernel

/-- R149: a profile image has 171 bytes. -/
theorem test_wellFormed_profileFetchEnd :
    WellFormed (.profileFetchEnd (List.replicate 170 0)) = false ∧
      WellFormed (.profileFetchEnd (List.replicate 171 0)) = true := by decide +kernel

/-- R169: a preset image has 4 to 4040 bytes. -/
theorem test_wellFormed_presetFetchEnd :
    WellFormed (.presetFetchEnd [1, 0, 4]) = false ∧ WellFormed (.presetFetchEnd [0, 0, 4, 0]) = true := by decide +kernel

/-- R168: no transfer brings more than the transfer buffer holds. -/
theorem test_wellFormed_busFault :
    WellFormed (.busFault 0 (List.replicate 4097 0)) = false ∧ WellFormed (.busFault 0 []) = true := by decide +kernel

/-- The table gives no row any bits, so no word spells a command. -/
theorem test_decodeTableWord : decodeTableWord 16 0x0102 = none := by decide

/-! ## Small states -/

/-- The part just READY. -/
def ready : State := { State.reset with partState := .ready }

/-- A state in which the command unit holds a command with these words and its claim is the next grant. -/
def offer (s : State) (code : CommandCode) (tag target : Byte) (args rest : List Word) : State :=
  { s with
    assembler := .complete (.command code)
    pointer := .line 11
    commandQueue := wordOf (byte (args.length + 2)) 0 :: wordOf tag target :: (args ++ rest) }

/-- A command that the free room covers is offered in `offer`. -/
theorem offered (s : State) (code : CommandCode) (tag target : Byte) (args rest : List Word)
    (h : decide (args.length < 254) = true)
    (hr : decide (code.reservation ≤ 256 - (s.answerQueue.length + s.reserved)) = true) :
    Offered (offer s code tag target args rest) code tag target args rest := by
  have h := of_decide_eq_true h
  have hr := of_decide_eq_true hr
  refine ⟨rfl, ⟨wordOf (byte (args.length + 2)) 0, ?_, rfl⟩, ?_⟩
  · rw [lowByte_wordOf]
    simp only [byte, BitVec.toNat_ofNat]
    omega
  · have h1 : (offer s code tag target args rest).firstWaiting = some .commandUnit := rfl
    have h2 : (offer s code tag target args rest).claimOf .commandUnit = some code.reservation := rfl
    have h3 : (offer s code tag target args rest).freeRoom = 256 - (s.answerQueue.length + s.reserved) := rfl
    simp only [State.nextGrant, h1, h2, h3, if_pos hr]

/-- A form of two TEXT fields of 4 bytes, on row 0 of 2 rows of 20 columns. -/
def form : FormDef :=
  ⟨[0x41, 0x42, 0x43, 0x44, 0x45, 0x46], 2, 20, none, .stay, false,
   [⟨0, 0, 4, .text, 0, 0, ⟨false, false, false, false, false, false⟩, 0x5F, 0, 0, 0⟩,
    ⟨0, 6, 4, .text, 0, 0, ⟨true, false, false, false, false, false⟩, 0x5F, 0, 0, 7⟩], [], [], 8⟩

/-- READY, with the form in slot F0 and line L0 ON. -/
def on : State :=
  ((ready.setSlot 0 ⟨.ready form, 0⟩).setProfile 0 ⟨.ready Profile.default, 1⟩).modLine 0
    fun x => { x with on := true, idleSeen := true }

/-- An instance of the form with the value "AB" in field 0. -/
def inst : Inst :=
  { opened form 0 1 0 none with
    phase := .editing
    fields := [⟨2, false, false, false, .none, none⟩, ⟨0, false, false, false, .none, none⟩]
    cursorPos := 2
    textIndex := none
    messageStale := false
    cursorStale := false
    imageSize := 18
    pendingOpen := some 9
    heldBuffer := some ⟨0x100, 64⟩ }

/-- READY, with that instance on line L0, changed by `f`, and the line changed by `g`. -/
def busy (f : Inst → Inst) (g : Line → Line) : State :=
  { (on.setSlot 0 ⟨.ready form, 1⟩).modLine 0 (fun x => g { x with inst := some (f inst) }) with
    freeList := [⟨1, 1535⟩]
    nextSerial := 2
    valueMemory := [(0, 0x41), (1, 0x42)] }

/-- The instance in a phase. -/
def inPhase (p : Phase) (i : Inst) : Inst := { i with phase := p }

/-- A granted claim of line L0. -/
def claiming (c : LineClaim) (s : State) : State := s.modLine 0 fun x => { x with claim := c }

/-! ## Values the spec's examples and tables give -/

/-- ASCII bytes. -/
def text (s : String) : List Byte := s.toList.map fun c => byte c.toNat

/-- R59, the table: canonical forms with scale 2 and 1. -/
theorem test_canonical_scale :
    canonical 2 (text "007.5") = text "7.50" ∧ canonical 1 (text "-0.0") = text "0.0" ∧
      canonical 2 (text ".5") = text "0.50" ∧ canonical 2 (text "12") = text "12.00" := by decide +kernel

/-- R59, the table: canonical forms with scale 0, and the value kept where its form is longer than the field. -/
theorem test_canonical_exit :
    canonical 0 (text "-3") = text "-3" ∧ canonical 0 (text "000") = text "0" ∧
      exitOutcome ⟨0, 0, 5, .amount, 2, 0, ⟨false, false, false, false, false, false⟩, 0x20, 0, 0, 0⟩ (text "123.4") =
        (text "123.4", false) := by decide +kernel

/-- R144, the table: coordinates under DECIMAL encoding. -/
theorem test_decimal_coordinates :
    (Encoding.decimal 0).bytes 0 = [0x30] ∧ (Encoding.decimal 0).bytes 7 = [0x37] ∧
      (Encoding.decimal 1).bytes 23 = [0x32, 0x34] ∧ (Encoding.decimal 0).bytes 100 = [0x31, 0x30, 0x30] ∧
      (Encoding.decimal 1).bytes 131 = [0x31, 0x33, 0x32] := by decide +kernel

/-- R49, the table: the four ways a released extent returns to the list. -/
theorem test_release :
    releaseExtent ⟨10, 5⟩ [⟨0, 5⟩, ⟨20, 5⟩] = [⟨0, 5⟩, ⟨10, 5⟩, ⟨20, 5⟩] ∧
      releaseExtent ⟨5, 5⟩ [⟨0, 5⟩, ⟨20, 5⟩] = [⟨0, 10⟩, ⟨20, 5⟩] ∧
      releaseExtent ⟨15, 5⟩ [⟨0, 5⟩, ⟨20, 5⟩] = [⟨0, 5⟩, ⟨15, 10⟩] ∧
      releaseExtent ⟨5, 15⟩ [⟨0, 5⟩, ⟨20, 5⟩] = [⟨0, 25⟩] := by decide +kernel

/-- R48: an extent is cut from the low end of the first entry large enough; an entry of just its size goes. -/
theorem test_allocate :
    allocate 5 [⟨0, 4⟩, ⟨10, 8⟩, ⟨30, 5⟩] = some (10, [⟨0, 4⟩, ⟨15, 3⟩, ⟨30, 5⟩]) ∧
      allocate 8 [⟨0, 4⟩, ⟨10, 8⟩] = some (10, [⟨0, 4⟩]) ∧ allocate 9 [⟨0, 4⟩, ⟨10, 8⟩] = none := by decide +kernel

/-- R27: next serial wraps from 65535 to 1, over the serials held. -/
theorem test_serial_wraps : pickSerial [65535, 1] 13 65535 = 2 ∧ nextSerialAfter 65535 = 1 := by decide +kernel

/-- R157: parity bits of 0x41, which has two set bits. -/
theorem test_parity : parityAgrees .even 0x41 false = true ∧ parityAgrees .odd 0x41 true = true ∧
    parityAgrees .even 0x41 true = false := by decide +kernel

/-- R162: 0x91 is sent as 0x11, two set bits, on a line with 7 data bits; odd parity makes them three. -/
theorem test_frame :
    { LineConfig.reset with dataBits := .seven, parity := .odd, stopBits := .two }.frame 0x91 = ⟨.seven, 0x11, some true, .two⟩ ∧
      LineConfig.reset.frame 0x91 = ⟨.eight, 0x91, none, .one⟩ := by decide +kernel

/-- R171: the cycles of a range at an odd address move one byte, then two at a time, then the byte left over. -/
theorem test_cycles : bytesMoved 0x101 6 0 = 0 ∧ bytesMoved 0x101 6 1 = 1 ∧ bytesMoved 0x101 6 3 = 5 ∧
    bytesMoved 0x101 6 4 = 6 ∧ bytesMoved 0x100 5 3 = 5 := by decide +kernel

/-- R193: STATUS right after reset, and when READY with the state-change flag, reads its items at their bits. -/
theorem test_status :
    State.reset.statusWord = 0x0000 ∧
      { ready with stateChange := true, stateChangeEnable := true }.statusWord = 0x0521 := by decide +kernel

/-- R184: a header of count 1 is consumed alone with BAD_LENGTH; R189: its lone claim is granted in the happening that makes it. -/
theorem test_bad_header :
    ready.effect (.dataWrite 0x0601) = { ready with assembler := .owing 0 .badLength } ∧
      (match exec (.dataWrite 0x0601) ready with
        | .next t => (t.answerQueue, t.assembler, t.commandQueue)
        | _ => ([], .free, [1])) = ([0x0102, 0x0200], .free, []) := by
  exact ⟨rfl, by decide +kernel⟩

/-- The last word of a QUERY PART with tag 5 is still to come. -/
def asking : State := { ready with assembler := .gathering (.running 5), commandQueue := [0x1902] }

/-- R189, R190: the result of QUERY PART stands in the answer queue after the happening of its last word, and a read of DATA
takes its header. -/
theorem test_query_part_at_once :
    (match step { asking with pending := [.dataWrite 0x0005, .dataRead] } with
      | .next t =>
        (t.answerQueue.take 2, t.answerQueue.length, t.reserved, t.assembler,
          match step t with
          | .next u => (u.dataOut, u.answerQueue.length)
          | _ => (0, 0))
      | _ => ([], 0, 1, .free, 0, 0)) = ([0x010A, 0x0005], 10, 0, .free, 0x010A, 9) := by decide +kernel

/-- R189: while another claim stands first and is larger than the free room, the command waits. -/
theorem test_query_part_waits :
    (match exec (.dataWrite 0x0005) (claiming .event { asking with answerQueue := List.replicate 253 0 }) with
      | .next t => (t.answerQueue.length, t.assembler)
      | _ => (0, .free)) = (253, .complete (.command .queryPart)) := by decide +kernel

/-- R147: the default control map's CR is NEXT, Ctrl-C CANCEL and DEL DELETE. -/
theorem test_default_map :
    Profile.default.mapped 0x0D = .next ∧ Profile.default.mapped 0x03 = .cancel ∧
      Profile.default.mapped 0x7F = .delete := by decide +kernel

/-- R72, R147: ESC [ A is taken as one key, PREV. -/
theorem test_key_sequence :
    Profile.default.takeByte [] 0x1B = ⟨[], [0x1B], false⟩ ∧
      Profile.default.takeByte [0x1B, 0x5B] 0x41 = ⟨[.action .prev], [], false⟩ := by decide +kernel

/-! ## States and operands that meet the statements' hypotheses -/

theorem witness_StepRunsFrontCommand : ({ ready with pending := [.dataRead] } : State).pending = Instr.dataRead :: [] := rfl

theorem witness_StepWithoutCommand :
    ready.pending = [] ∧ ready.ownHappening = none ∧
      (busy id fun x => { x with clearPending := true }).ownHappening = some (.unitComposition 0) ∧
      (busy id fun x => { x with clearPending := true }).composable 0 = some .clear ∧
      ready.nextGrant = none ∧ (claiming .event (busy id id)).nextGrant = some (.line 0, 4) := by decide +kernel

/-- A state with nothing to do in which every timer runs with `n` ticks left, the assembly timer's one tick more. -/
def timed (n : Nat) : State :=
  { busy (fun i => { inPhase .awaitVerdict i with inactivity := .running n, verdictTimer := .running n })
      (fun x => { x with settleTimer := .running n, stallTimer := .running n, gapTimer := .running n }) with
    assembler := .gathering (.running (n + 1))
    commandQueue := [0x0203] }

theorem witness_StepWithoutCommand_timers :
    (timed 1).ownHappening = none ∧ (timed 2).ownHappening = none ∧
      (timed 1).assembler = .gathering (.running 2) ∧ ((timed 1).line 0).gapTimer = .running 1 ∧
      ((timed 2).line 0).gapTimer = .running 2 ∧ ((timed 1).line 0).settleTimer = .running 1 ∧
      ((timed 1).line 0).stallTimer = .running 1 ∧ ((timed 1).instOf 0).inactivity = .running 1 ∧
      ((timed 1).instOf 0).verdictTimer = .running 1 ∧ (timed 1).tick.pending.length = 5 ∧ (timed 2).tick.pending = [] := by
  decide +kernel

theorem witness_SelfCheckEnds : State.reset.partState = .starting := rfl

theorem witness_PortResetTaken :
    ({ ready with transfer := some ⟨.delivery 0, 0x101, 18⟩ } : State).transfer = some ⟨.delivery 0, 0x101, 18⟩ := rfl

theorem witness_DataWritesTaken :
    State.reset.partState ≠ .ready ∧ ({ ready with overflow := true } : State).overflow = true ∧
      (ready.partState = .ready ∧ ready.overflow = false ∧ ready.commandQueue.length < 128 ∧ ready.assembler = .free) ∧
      (List.replicate 127 (0x0203 : Word)).length < 128 ∧ 128 ≤ (List.replicate 128 (0x0203 : Word)).length ∧
      ({ ready with assembler := .gathering (.running 5), commandQueue := [0x0203] } : State).commandQueue = 0x0203 :: [] := by
  decide +kernel

/-- The states of overflow: a full queue whose command is under assembly, whole, or owed. -/
theorem witness_Overflow (a : Assembler)
    (h : a = .free ∨ a = .owing 3 .badLength ∨ a = .gathering (.running 4) ∨ a = .complete (.refused .badCode)) :
    ∃ s : State, s.partState = .ready ∧ s.overflow = false ∧ 128 ≤ s.commandQueue.length ∧ s.assembler = a ∧
      s.commandQueue = 0x0128 :: 0x0005 :: List.replicate 126 0 := by
  refine ⟨{ ready with assembler := a, commandQueue := 0x0128 :: 0x0005 :: List.replicate 126 0 }, rfl, rfl, ?_, rfl, rfl⟩
  rcases h with rfl | rfl | rfl | rfl <;> decide +kernel

theorem witness_CommandsDecode : (0x01, 5, 5, 4, CommandCode.loadForm) ∈ commandTable ∧ (0x1A : Byte).toNat = 0x1A ∧ (0 : Byte).toNat = 0 := by
  decide +kernel

theorem witness_WindowAccessesTaken :
    ({ ready with answerQueue := [0x0102] } : State).answerQueue = 0x0102 :: [] ∧ ready.answerQueue = [] ∧ 0 < 8 ∧ 7 < 8 := by
  decide +kernel

/-- R177: byte accesses, and word accesses off the even offsets. -/
theorem test_window :
    { ready with answerQueue := [0x0102] }.windowRead .byte 1 = some (0, { ready with answerQueue := [0x0102] }) ∧
      (ready.windowRead .word 6).map Prod.fst = some 0xFE01 ∧ ready.windowRead .word 1 = none ∧
      ready.windowWrite .word 8 0 0 = none := by decide +kernel

theorem witness_StatusAndInterrupt :
    ready.commandQueue.length ≤ 128 ∧ (List.replicate 256 (0 : Word)).length ≤ 256 := by decide +kernel

theorem witness_AssemblerHappenings :
    ({ ready with assembler := .gathering (.running 0), commandQueue := [0x0103, 0x0009] } : State).commandQueue =
        0x0103 :: 0x0009 :: [] ∧
      2 ≤ (lowByte 0x0102).toNat ∧
      ({ ready with assembler := .owing 0 .badLength, pointer := .line 11 } : State).nextGrant = some (.commandUnit, 2) ∧
      ({ ready with assembler := .complete (.refused .badCode), pointer := .line 11,
                    commandQueue := [0x1A02, 0x0007, 0x0102] } : State).nextGrant = some (.commandUnit, 2) ∧
      (lowByte 0x1A02).toNat = ([] : List Word).length + 2 := by decide +kernel

/-- A HOLD INPUT is offered while a key claim of its line waits, which it withdraws. -/
def holding : State := offer (claiming (.key 3) (busy id id)) .holdInput 5 0 [] []

/-- A state whose first waiting claim is larger than the free room. -/
def blocked : State := claiming .event { asking with answerQueue := List.replicate 253 0 }

/-- R189: no claim found waiting; the first one stays; the first one is withdrawn by the command granted before it. -/
theorem witness_GrantRotation :
    (∀ c, asking.claimOf c ≠ none → GrantedBy asking (.dataWrite 0x0005) c) ∧
      (FirstFound blocked (.dataWrite 0x0005) (.line 0) ∧ SameClaim blocked (blocked.effect (.dataWrite 0x0005)) (.line 0)) ∧
      (FirstFound holding .holdInput (.line 0) ∧ ¬ SameClaim holding (holding.effect .holdInput) (.line 0)) := by
  have hb : blocked.nextGrant = none := by decide +kernel
  have nb : ∀ row c, ¬ GrantedBy blocked row c := fun row c ⟨_, n, h⟩ => by rw [hb] at h; cases h
  have hh : holding.nextGrant = some (.commandUnit, 2) := by decide +kernel
  have hw : holding.grantHappening = some .holdInput := by decide +kernel
  have gh : ∀ c, GrantedBy holding .holdInput c → c = .commandUnit := fun c ⟨_, n, h⟩ => by rw [hh] at h; cases h; rfl
  refine ⟨fun c h => absurd ?_ h, ⟨⟨⟨by decide +kernel, nb _ _⟩, ?_⟩, ?_⟩, ⟨⟨by decide +kernel, fun h => ?_⟩, ?_⟩, ?_⟩
  · have hl : ∀ l, (asking.line l).claim = .absent := by decide +kernel
    cases c with
    | commandUnit => rfl
    | line l => simp [State.claimOf, hl l]
  · rintro p (h | ⟨-, rfl⟩) c' - -
    · exact absurd h (nb _ _)
    · exact Nat.zero_le _
  · unfold SameClaim; decide +kernel
  · cases gh _ h
  · rintro p (h | ⟨h, -⟩) c' - -
    · rw [gh p h]; exact Nat.zero_le _
    · exact absurd ⟨hw, 2, hh⟩ (h .commandUnit)
  · unfold SameClaim; decide +kernel

/-- The rows of the next grants: an event record, a key claim, a command and an owed result. -/
theorem witness_GrantRotation_rows :
    (claiming .event (busy id id)).nextGrant = some (.line 0, 4) ∧
      (claiming (.key 3) (busy id id)).nextGrant = some (.line 0, 3) ∧ holding.nextGrant = some (.commandUnit, 2) ∧
      holding.headCommand = some ⟨.holdInput, 5, 0, []⟩ ∧
      ({ ready with assembler := .owing 0 .badLength } : State).nextGrant = some (.commandUnit, 2) := by decide +kernel

theorem witness_LoadFormTaken :
    (∀ target len : Word, Offered (offer ready .loadForm 1 (lowByte target) [0, 0, len] []) .loadForm 1 (lowByte target) [0, 0, len] []) ∧
      23 < (24 : Byte).toNat ∧ (23 : Byte).toNat = (23 : SlotId).val ∧ (15 : Word).toNat < 16 ∧ 1808 < (1809 : Word).toNat ∧
      ¬((16 : Word).toNat < 16 ∨ 1808 < (16 : Word).toNat ∨ 0x1000000 ≤ (0xFFF0 : Word).toNat + 0x10000 * (0x00FF : Word).toNat ∨
        0x1000000 < (0xFFF0 : Word).toNat + 0x10000 * (0x00FF : Word).toNat + (16 : Word).toNat) ∧
      ((ready.setSlot 0 ⟨.loading 1 4, 0⟩).slot 0).isLoading = true ∧ 0 < ((busy id id).slot 0).useCount ∧
      (on.slot 0).isLoading = false ∧ (on.slot 0).useCount = 0 :=
  ⟨fun _ _ => offered _ _ _ _ _ _ rfl rfl, by decide +kernel⟩

theorem witness_DiscardFormTaken :
    (∀ target : Byte, Offered (offer on .discardForm 1 target [] []) .discardForm 1 target [] []) ∧
      23 < (24 : Byte).toNat ∧ (23 : Byte).toNat = (23 : SlotId).val ∧
      ((ready.setSlot 0 ⟨.loading 1 4, 0⟩).slot 0).isLoading = true ∧ 0 < ((busy id id).slot 0).useCount ∧
      (on.slot 23).state = .empty ∧ (on.slot 0).state = .ready form :=
  ⟨fun _ => offered _ _ _ _ _ _ rfl rfl, by decide +kernel⟩

theorem witness_QueryFormTaken :
    (∀ target : Byte, Offered (offer on .queryForm 1 target [] []) .queryForm 1 target [] []) ∧
      (on.slot 23).state = .empty ∧ (on.slot 0).state = .ready form ∧
      ((ready.setSlot 0 ⟨.loading 1 4, 0⟩).slot 0).state = .loading 1 4 :=
  ⟨fun _ => offered _ _ _ _ _ _ rfl rfl, by decide +kernel⟩

/-- The smallest image of one field (R11, 28 bytes). -/
def image : List Byte :=
  [0x48, 0x46, 0x41, 0x42, 0x43, 0x44, 0x45, 0x46, 1, 20, 255, 1, 0, 0, 0, 0, 0, 0, 4, 0, 0, 0, 0, 0x5F, 0, 0, 0, 0]

theorem witness_FormFetchEnds :
    image.length = 28 ∧ formImageCheck image 28 = none ∧ formImageCheck (image.set 0 0) 28 = some (1, 0) ∧
      ((ready.setSlot 5 ⟨.loading 9 4, 0⟩).slot 5).state = .loading 9 4 ∧
      ({ ready.setSlot 5 ⟨.loading 9 4, 0⟩ with transfer := some ⟨.formFetch 5, 0x10, 28⟩ } : State).transfer =
        some ⟨.formFetch 5, 0x10, 28⟩ := by decide +kernel

theorem witness_CheckedFormsAreSound : image.length = 28 ∧ formImageCheck image 28 = none := by decide +kernel

/-- A profile image: a clear and a lead of one byte, and distinct flow bytes. -/
def profileImage : List Byte :=
  [0x50, 0x46, 1, 0x0C] ++ List.replicate 7 0 ++ [1, 0x1B] ++ List.replicate 26 0 ++ [0x11, 0x13] ++ List.replicate 130 0

theorem witness_ProfilesSet :
    (∀ (target : Byte) (low : Word), Offered (offer on .setProfile 1 target [low, 0xFF] []) .setProfile 1 target [low, 0xFF] []) ∧
      3 < (4 : Byte).toNat ∧ (3 : Byte).toNat = (3 : ProfileId).val ∧
      0x1000000 < (0xFF56 : Word).toNat + 0x10000 * (0xFF : Word).toNat + 171 ∧
      ¬ 0x1000000 < (0xFF55 : Word).toNat + 0x10000 * (0xFF : Word).toNat + 171 ∧
      ((on.setProfile 3 ⟨.loading 1 4, 0⟩).profileSlot 3).isLoading = true ∧ 0 < (on.profileSlot 0).userCount ∧
      profileImage.length = 171 ∧ profileImageCheck profileImage = none ∧
      profileImageCheck (profileImage.set 0 0) = some (40, 0) ∧
      ((on.setProfile 3 ⟨.loading 1 4, 0⟩).profileSlot 3).state = .loading 1 4 :=
  ⟨fun _ _ => offered _ _ _ _ _ _ rfl rfl, by decide +kernel⟩

theorem witness_LinesConfigured :
    (∀ target : Byte, Offered (offer on .configureLine 1 target (List.replicate 7 0) []) .configureLine 1 target
      (List.replicate 7 0) []) ∧
      11 < (12 : Byte).toNat ∧ (11 : Byte).toNat = (11 : LineId).val ∧ (on.line 0).on = true ∧ (on.line 11).on = false ∧
      LineConfig.ofBytes (bytesOfWords (List.replicate 7 0)) = none ∧
      LineConfig.ofBytes LineConfig.reset.bytes = some LineConfig.reset ∧ LineConfig.reset.bytes.length = 14 :=
  ⟨fun _ => offered _ _ _ _ _ _ rfl rfl, by decide +kernel⟩

theorem witness_LinesSwitched :
    (∀ target : Byte, Offered (offer on .enableLine 1 target [] []) .enableLine 1 target [] [] ∧
      Offered (offer on .disableLine 1 target [] []) .disableLine 1 target [] []) ∧
      11 < (12 : Byte).toNat ∧ (11 : Byte).toNat = (11 : LineId).val ∧ (on.line 0).on = true ∧ (on.line 11).on = false ∧
      ((ready.setProfile 0 ⟨.loading 1 4, 0⟩).profileSlot ((ready.line 11).config.profile)).userCount = 0 ∧
      ((busy id id).line 0).inst ≠ none ∧ (on.line 0).inst = none :=
  ⟨fun _ => ⟨offered _ _ _ _ _ _ rfl rfl, offered _ _ _ _ _ _ rfl rfl⟩, by decide +kernel⟩

theorem witness_QueryLineTaken (target : Byte) : Offered (offer on .queryLine 1 target [] []) .queryLine 1 target [] [] :=
  offered _ _ _ _ _ _ rfl rfl

theorem witness_InstanceCommandsRefused :
    (∀ serial : Word, Offered (offer (busy (inPhase .presetting) id) .clearEntry 1 0 [serial] []) .clearEntry 1 0 [serial] []) ∧
      CommandCode.clearEntry ∈ [CommandCode.closeForm, .clearEntry] ∧ 11 < (12 : Byte).toNat ∧ (on.line 0).inst = none ∧
      (∃ i, ((busy (inPhase .presetting) id).line 0).inst = some i ∧ i.serial = 1 ∧ (2 : Word) ≠ i.serial ∧
        phaseCheck .clearEntry i = some .wrongPhase) :=
  ⟨fun _ => offered _ _ _ _ _ _ rfl rfl, by decide +kernel, by decide +kernel, by decide +kernel,
    _, rfl, by decide +kernel⟩

theorem witness_OpenFormRefused :
    (∀ (target : Byte) (slot len : Word),
      Offered (offer on .openForm 1 target [slot, 0xFFFF, 0xFF, len] []) .openForm 1 target [slot, 0xFFFF, 0xFF, len] []) ∧
      11 < (12 : Byte).toNat ∧ (on.line 11).on = false ∧ ((busy id id).line 0).inst ≠ none ∧ (on.line 0).inst = none ∧
      23 < (24 : Word).toNat ∧ (on.slot 23).state = .empty ∧
      ((on.setSlot 23 ⟨.loading 1 4, 0⟩).slot 23).isLoading = true ∧
      (3 : Word).toNat < 4 ∧ 4040 < (4041 : Word).toNat ∧
      0x1000000 < (0xFFFF : Word).toNat + 0x10000 * (0xFF : Word).toNat + (4 : Word).toNat ∧
      (∀ e ∈ ({ on with freeList := [] } : State).freeList, e.count < ((on.slot 0).form.valueTotal + 7) / 8) :=
  ⟨fun _ _ _ => offered _ _ _ _ _ _ rfl rfl, by decide +kernel⟩

theorem witness_OpenFormTaken :
    (∀ len : Word, Offered (offer on .openForm 1 0 [0, 0, 0, len] []) .openForm 1 0 [0, 0, 0, len] []) ∧
      (on.line 0).on = true ∧ (on.line 0).inst = none ∧ (on.slot 0).state = .ready form ∧
      allocate ((form.valueTotal + 7) / 8) on.freeList = some (0, [⟨1, 1535⟩]) ∧ 4 ≤ (4 : Word).toNat ∧
      (4040 : Word).toNat ≤ 4040 ∧ (0 : Word).toNat + 0x10000 * (0 : Word).toNat + (4040 : Word).toNat ≤ 0x1000000 :=
  ⟨fun _ => offered _ _ _ _ _ _ rfl rfl, by decide +kernel⟩

theorem witness_SerialTakenIsFresh :
    State.reset.nextSerial ≠ 0 ∧ ((busy id id).line 0).inst ≠ none ∧ (busy id id).takenSerial = 2 := by decide +kernel

theorem witness_OpeningValuesWritten :
    ∀ n, n < form.fields.length → (form.default n).length ≤ (form.field n).length := by decide +kernel

/-- The preset image of one entry, "XY" for field 1, and the same with a field the form lacks. -/
def preset (field : Byte) : List Byte := [1, 0, 10, 0, field, 0, 2, 0, 0x58, 0x59]

theorem witness_PresetFetchEnds :
    (preset 1).length = 10 ∧ presetImage form (preset 1) 10 = .ok [(1, [0x58, 0x59])] ∧
      presetImage form (preset 2) 10 = .error (32, 0) ∧
      (∃ i, ((busy (inPhase .presetting) id).line 0).inst = some i ∧ i.phase = .presetting ∧ i.pendingOpen = some 9 ∧
        (busy (inPhase .presetting) id).form i = form ∧ i.fields.length = form.fields.length ∧
        ∀ m, m < i.fields.length → (i.field m).valueLength ≤ (form.field m).length) ∧
      ∃ i, ((busy (inPhase .closing) id).line 0).inst = some i ∧ i.phase = .closing ∧ i.pendingOpen = some 9 := by
  refine ⟨by decide +kernel, by rfl, by rfl, ⟨_, rfl, by decide +kernel⟩, _, rfl, by decide +kernel⟩

theorem witness_CloseFormTaken :
    (∀ p : Phase, Offered (offer (busy (inPhase p) id) .closeForm 1 0 [1, 1] []) .closeForm 1 0 [1, 1] []) ∧
      (∃ i, ((busy (inPhase .awaitBuffer) id).line 0).inst = some i ∧ (1 : Word) = i.serial ∧ i.phase = .awaitBuffer) ∧
      (∃ i, ((busy (inPhase .presetting) id).line 0).inst = some i ∧ i.pendingOpen = some 9) ∧
      (busy (inPhase .presetting) id).transfer = none ∧
      waitsFor { busy (inPhase .delivering) id with transfer := some ⟨.delivery 0, 0x100, 18⟩ } 0 (inPhase .delivering inst) ∧
      waitsFor { busy (inPhase .presetting) id with transfer := some ⟨.presetFetch 0, 0, 4⟩ } 0 (inPhase .presetting inst) :=
  ⟨fun _ => offered _ _ _ _ _ _ rfl rfl, ⟨_, rfl, by decide +kernel⟩, ⟨_, rfl, by decide +kernel⟩,
    by decide +kernel, ⟨_, rfl, .inr ⟨rfl, rfl⟩⟩, ⟨_, rfl, .inl ⟨rfl, rfl⟩⟩⟩

theorem witness_CloseFormInDelivering :
    Offered (offer (busy (inPhase .delivering) id) .closeForm 1 0 [0, 0] []) .closeForm 1 0 [0, 0] [] ∧
      (∃ i, ((busy (inPhase .delivering) id).line 0).inst = some i ∧ i.heldBuffer = some ⟨0x100, 64⟩ ∧ i.phase = .delivering) ∧
      ¬ waitsFor (busy (inPhase .delivering) id) 0 (inPhase .delivering inst) ∧
      (0 : LineId) ∉ (busy (inPhase .delivering) id).waiting ∧
      (List.replicate 15 (⟨0, 16⟩ : Descriptor)).length < 16 ∧ 16 ≤ (List.replicate 16 (⟨0, 16⟩ : Descriptor)).length :=
  ⟨offered _ _ _ _ _ _ rfl rfl, ⟨_, rfl, by decide +kernel⟩,
    fun ⟨_, h, _⟩ => absurd (show (none : Option Request) = some _ from h) (by simp), by decide +kernel⟩

theorem witness_ResetLineTaken :
    (∀ target : Byte, Offered (offer (busy (inPhase .closing) id) .resetLine 1 target [1] []) .resetLine 1 target [1] []) ∧
      11 < (12 : Byte).toNat ∧ (11 : Byte).toNat = (11 : LineId).val ∧ (on.line 0).inst = none ∧
      (∃ i, ((busy (inPhase .closing) id).line 0).inst = some i ∧ i.phase = .closing) ∧
      (∃ i, ((busy (inPhase .presetting) id).line 0).inst = some i ∧ i.phase = .presetting ∧ i.pendingOpen = some 9) ∧
      (∃ i, ((busy (inPhase .delivering) id).line 0).inst = some i ∧ i.phase = .delivering ∧ i.heldBuffer = some ⟨0x100, 64⟩) ∧
      (∀ p, ¬ waitsFor (busy (inPhase p) id) 0 (inPhase p inst)) ∧ (∀ p, (0 : LineId) ∉ (busy (inPhase p) id).waiting) ∧
      (List.replicate 15 (⟨0, 16⟩ : Descriptor)).length < 16 ∧ 16 ≤ (List.replicate 16 (⟨0, 16⟩ : Descriptor)).length :=
  ⟨fun _ => offered _ _ _ _ _ _ rfl rfl, by decide +kernel, by decide +kernel, by decide +kernel,
    ⟨_, rfl, by decide +kernel⟩, ⟨_, rfl, by decide +kernel⟩, ⟨_, rfl, by decide +kernel⟩,
    fun _ ⟨_, h, _⟩ => absurd (show (none : Option Request) = some _ from h) (by simp),
    fun _ h => absurd (show (0 : LineId) ∈ ([] : List LineId) from h) (by simp), by decide +kernel⟩

/-- The instance of `busy` is named by its serial and by 0. -/
theorem named (f : Inst → Inst) (g : Line → Line) (serial : Word) (hg : (g { on.line 0 with inst := some (f inst) }).inst = some (f inst))
    (hs : serial = 0 ∨ serial = (f inst).serial) : Named (busy f g) 0 serial 0 (f inst) := ⟨rfl, hg, hs⟩

theorem witness_EntryCommandsTaken :
    Offered (offer (busy id id) .clearEntry 1 0 [1] []) .clearEntry 1 0 [1] [] ∧
      Offered (offer (busy id id) .holdInput 1 0 [] []) .holdInput 1 0 [] [] ∧
      Offered (offer (busy id id) .resumeInput 1 0 [] []) .resumeInput 1 0 [] [] ∧
      Named (offer (busy id id) .clearEntry 1 0 [1] []) 0 1 0 inst ∧
      Named (offer (busy id id) .holdInput 1 0 [] []) 0 0 0 inst ∧ inst.phase = .editing :=
  ⟨offered _ _ _ _ _ _ rfl rfl, offered _ _ _ _ _ _ rfl rfl, offered _ _ _ _ _ _ rfl rfl, ⟨rfl, rfl, .inr rfl⟩,
    ⟨rfl, rfl, .inl rfl⟩, rfl⟩

theorem witness_ReadFieldTaken :
    (∀ n : Word, Offered (offer (busy id id) .readField 1 0 [0, n] []) .readField 1 0 [0, n] [] ∧
      Named (offer (busy id id) .readField 1 0 [0, n] []) 0 0 0 inst) ∧
      inst.phase ≠ .presetting ∧ form.fields.length ≤ (2 : Word).toNat ∧ ¬ form.fields.length ≤ (1 : Word).toNat :=
  ⟨fun _ => ⟨offered _ _ _ _ _ _ rfl rfl, rfl, rfl, .inl rfl⟩, by decide +kernel⟩

theorem witness_WriteFieldTaken :
    (∀ (n len : Byte) (w : Word),
      Offered (offer (busy id id) .writeField 1 0 [1, wordOf n len, w] []) .writeField 1 0 [1, wordOf n len, w] [] ∧
        Named (offer (busy id id) .writeField 1 0 [1, wordOf n len, w] []) 0 1 0 inst) ∧
      inst.phase = .editing ∧ inst.fields.length = form.fields.length ∧ inst.fields.length ≤ (2 : Byte).toNat ∧
      ¬ inst.fields.length ≤ (1 : Byte).toNat ∧ (form.field 1).length < (5 : Byte).toNat ∧
      ¬ (form.field 1).length < (4 : Byte).toNat ∧ ([0x4142] : List Word).length ≠ ((4 : Byte).toNat + 1) / 2 ∧
      ([0x4142] : List Word).length = ((1 : Byte).toNat + 1) / 2 ∧
      (∃ b ∈ (bytesOfWords [0x001F]).take 1, printable b = false) ∧
      ¬ (∃ b ∈ (bytesOfWords [0x0041]).take 1, printable b = false) :=
  ⟨fun _ _ _ => ⟨offered _ _ _ _ _ _ rfl rfl, rfl, rfl, .inr rfl⟩, by decide +kernel⟩

theorem witness_FieldProtectionSet :
    (∀ n op : Byte, Offered (offer (busy id id) .setFieldState 1 0 [1, wordOf n op] []) .setFieldState 1 0 [1, wordOf n op] [] ∧
      Named (offer (busy id id) .setFieldState 1 0 [1, wordOf n op] []) 0 1 0 inst) ∧
      inst.phase = .editing ∧ inst.fields.length = form.fields.length ∧ (1 : Byte).toNat < inst.fields.length ∧
      (overridden form inst 0 .isProtected).cursorField = none ∧
      (overridden form { inst with cursorField := none } 1 .unprotected).cursorField = some 0 :=
  ⟨fun _ _ => ⟨offered _ _ _ _ _ _ rfl rfl, rfl, rfl, .inr rfl⟩, by decide +kernel⟩

theorem witness_FieldMarksAndRefusals :
    (∀ n op : Byte, Offered (offer (busy id id) .setFieldState 1 0 [1, wordOf n op] []) .setFieldState 1 0 [1, wordOf n op] [] ∧
      Named (offer (busy id id) .setFieldState 1 0 [1, wordOf n op] []) 0 1 0 inst) ∧
      inst.phase = .editing ∧ form.fields.length ≤ (2 : Byte).toNat ∧ (1 : Byte).toNat < form.fields.length ∧
      5 < (6 : Byte).toNat :=
  ⟨fun _ _ => ⟨offered _ _ _ _ _ _ rfl rfl, rfl, rfl, .inr rfl⟩, by decide +kernel⟩

theorem witness_ScreenCommandsTaken :
    (∀ n pos : Byte, Offered (offer (busy id id) .placeCursor 1 0 [0, wordOf n pos] []) .placeCursor 1 0 [0, wordOf n pos] [] ∧
      Named (offer (busy id id) .placeCursor 1 0 [0, wordOf n pos] []) 0 0 0 inst) ∧
      (∀ (len : Byte) (w : Word),
        Offered (offer (busy id id) .showMessage 1 0 [0, wordOf len 0, w] []) .showMessage 1 0 [0, wordOf len 0, w] [] ∧
          Named (offer (busy id id) .showMessage 1 0 [0, wordOf len 0, w] []) 0 0 0 inst) ∧
      Offered (offer (busy id id) .repaint 1 0 [0] []) .repaint 1 0 [0] [] ∧
      Named (offer (busy id id) .repaint 1 0 [0] []) 0 0 0 inst ∧ inst.phase = .editing ∧
      form.fields.length ≤ (2 : Byte).toNat ∧ inst.fieldProtected form 1 = true ∧ inst.fieldProtected form 0 = false ∧
      (inst.field 0).valueLength < (3 : Byte).toNat ∧ ¬ (inst.field 0).valueLength < (2 : Byte).toNat ∧
      80 < (81 : Byte).toNat ∧ ([0x4142] : List Word).length ≠ ((80 : Byte).toNat + 1) / 2 ∧
      ([0x4142] : List Word).length = ((2 : Byte).toNat + 1) / 2 ∧
      (∃ b ∈ (bytesOfWords [0x7F41]).take 2, printable b = false) ∧
      ¬ (∃ b ∈ (bytesOfWords [0x7E20]).take 2, printable b = false) :=
  ⟨fun _ _ => ⟨offered _ _ _ _ _ _ rfl rfl, rfl, rfl, .inl rfl⟩,
    fun _ _ => ⟨offered _ _ _ _ _ _ rfl rfl, rfl, rfl, .inl rfl⟩, offered _ _ _ _ _ _ rfl rfl, ⟨rfl, rfl, .inl rfl⟩,
    by decide +kernel⟩

theorem witness_PostBufferTaken :
    (∀ low len : Word, Offered (offer on .postBuffer 1 0 [low, 0xFF, len] []) .postBuffer 1 0 [low, 0xFF, len] []) ∧
      16 ≤ (List.replicate 16 (⟨0, 16⟩ : Descriptor)).length ∧ ¬ 16 ≤ (List.replicate 15 (⟨0, 16⟩ : Descriptor)).length ∧
      (15 : Word).toNat < 16 ∧ ¬ (16 : Word).toNat < 16 ∧
      0x1000000 < (0xFFF1 : Word).toNat + 0x10000 * (0xFF : Word).toNat + (16 : Word).toNat ∧
      ¬ 0x1000000 < (0xFFF0 : Word).toNat + 0x10000 * (0xFF : Word).toNat + (16 : Word).toNat ∧
      ({ busy (inPhase .awaitBuffer) id with waiting := [0] } : State).waiting.find?
        (fun m => decide ((({ busy (inPhase .awaitBuffer) id with waiting := [0] } : State).instOf m).imageSize ≤ 18)) = some 0 ∧
      on.waiting.find? (fun m => decide ((on.instOf m).imageSize ≤ 18)) = none :=
  ⟨fun _ _ => offered _ _ _ _ _ _ rfl rfl, by decide +kernel⟩

theorem witness_WithdrawBuffersTaken : Offered (offer on .withdrawBuffers 1 0 [] [0x0102]) .withdrawBuffers 1 0 [] [0x0102] :=
  offered _ _ _ _ _ _ rfl rfl

theorem witness_AcceptEntryTaken (verdict flag : Byte) :
    Offered (offer (busy (inPhase .awaitVerdict) id) .acceptEntry 1 0 [1, wordOf verdict flag] []) .acceptEntry 1 0
        [1, wordOf verdict flag] [] ∧
      Named (offer (busy (inPhase .awaitVerdict) id) .acceptEntry 1 0 [1, wordOf verdict flag] []) 0 1 0
        (inPhase .awaitVerdict inst) ∧ (inPhase .awaitVerdict inst).phase = .awaitVerdict :=
  ⟨offered _ _ _ _ _ _ rfl rfl, ⟨rfl, rfl, .inr rfl⟩, rfl⟩

theorem witness_ReturnEntryTaken :
    (∀ (p : Phase) (n len : Byte) (w : Word),
      Offered (offer (busy (inPhase p) id) .returnEntry 1 0 [1, wordOf n len, w] []) .returnEntry 1 0 [1, wordOf n len, w] [] ∧
        Named (offer (busy (inPhase p) id) .returnEntry 1 0 [1, wordOf n len, w] []) 0 1 0 (inPhase p inst)) ∧
      (inPhase .awaitBuffer inst).phase = .awaitBuffer ∧ form.fields.length ≤ (2 : Byte).toNat ∧
      inst.fieldProtected form 1 = true ∧ inst.fieldProtected form 0 = false ∧ 80 < (81 : Byte).toNat ∧
      ([0x4142] : List Word).length ≠ ((80 : Byte).toNat + 1) / 2 ∧
      ([0x4142] : List Word).length = ((2 : Byte).toNat + 1) / 2 ∧
      (∃ b ∈ (bytesOfWords [0x7F41]).take 2, printable b = false) ∧
      ¬ (∃ b ∈ (bytesOfWords [0x7E20]).take 2, printable b = false) :=
  ⟨fun _ _ _ _ => ⟨offered _ _ _ _ _ _ rfl rfl, rfl, rfl, .inr rfl⟩, by decide +kernel⟩

theorem witness_QueryPartTaken : Offered (offer (busy id id) .queryPart 1 0 [] []) .queryPart 1 0 [] [] :=
  offered _ _ _ _ _ _ rfl rfl

theorem witness_TransferStarts :
    ({ on with busQueue := [⟨.delivery 0, 0, 18⟩] } : State).busQueue = ⟨.delivery 0, 0, 18⟩ :: [] ∧ on.transfer = none ∧
      ({ on with transfer := some ⟨.delivery 0, 0, 18⟩ } : State).transfer ≠ none := by decide +kernel

theorem witness_DeliveryCompletes :
    (({ busy (inPhase .delivering) id with transfer := some ⟨.delivery 0, 0x100, 18⟩ } : State).line 0).inst =
        some (inPhase .delivering inst) ∧
      (({ busy (inPhase .closing) id with transfer := some ⟨.delivery 0, 0x101, 18⟩ } : State).line 0).inst =
        some (inPhase .closing inst) ∧ inst.heldBuffer = some ⟨0x100, 64⟩ := by decide +kernel

theorem witness_EntryImageLaid :
    ((busy id id).line 0).inst = some inst ∧ inst.fields.length = ((busy id id).form inst).fields.length := by decide +kernel

theorem witness_BusFaultsTaken :
    bytesMoved (0x101 : HostAddr).toNat 18 0 < 18 ∧ bytesMoved (0x101 : HostAddr).toNat 18 9 < 18 ∧
      ((ready.setSlot 5 ⟨.loading 9 4, 0⟩).slot 5).state = .loading 9 4 ∧
      ((ready.setProfile 3 ⟨.loading 1 4, 0⟩).profileSlot 3).state = .loading 1 4 ∧
      (∀ l, (⟨.formFetch 5, 0x101, 18⟩ : Request).owner ≠ .delivery l) ∧
      ((busy (inPhase .closing) id).line 0).inst = some (inPhase .closing inst) ∧
      ((busy (inPhase .presetting) id).line 0).inst = some (inPhase .presetting inst) ∧ inst.pendingOpen = some 9 ∧
      inst.heldBuffer = some ⟨0x100, 64⟩ := by
  refine ⟨by decide +kernel, by decide +kernel, by decide +kernel, by decide +kernel, ?_, by decide +kernel⟩
  intro l h; cases h

/-- A character of an 8-bit line without parity. -/
def char (b : Byte) (stopIdle : Bool) : RxChar := ⟨b, false, stopIdle⟩

theorem witness_CharacterTaken :
    ((busy id id).line 0).on = true ∧ ((busy id id).line 0).idleSeen = true ∧ ((busy id id).line 0).breakState = .idle ∧
      (on.line 1).on = false ∧
      dataByte ((busy id id).line 0) (char 0 false) = 0 ∧ dataByte ((busy id id).line 0) (char 1 false) ≠ 0 ∧
      ((busy id id).line 0).config.flowControl = true ∧
      dataByte ((busy id id).line 0) (char 0x13 true) = ((busy id id).lineProfile 0).xoff ∧
      dataByte ((busy id id).line 0) (char 0x11 true) = ((busy id id).lineProfile 0).xon ∧
      dataByte ((busy id id).line 0) (char 0xFF true) ≠ ((busy id id).lineProfile 0).xon ∧
      ((busy id id).line 0).config.parity = .none := by decide +kernel

/-- A line with even parity on which the character 0x01 with parity bit 0 is damaged. -/
theorem witness_CharacterTaken_parity :
    parityBad { (busy id id).line 0 with config := { LineConfig.reset with parity := .even } } (char 1 true) ∧
      ¬ parityBad { (busy id id).line 0 with config := { LineConfig.reset with parity := .even } } (char 3 true) := by
  constructor
  · exact .inl ⟨rfl, by decide +kernel⟩
  · rintro (⟨_, h⟩ | ⟨h, _⟩)
    · revert h; decide +kernel
    · cases h

theorem witness_ReceiverAndTransmitter :
    ((busy id fun x => { x with output := [0x91] }).line 0).output = 0x91 :: [] ∧ ((busy id id).line 0).on = true ∧
      ((busy id id).line 0).flow = .flowing ∧
      ((busy id fun x => { x with flow := .paused }).line 0).flow = .paused ∧
      ((busy id id).line 0).config.flowControl = true := by decide +kernel

theorem witness_ReadyMonitored :
    ((busy id fun x => { x with settleTimer := .running 0 }).line 0).settleTimer = .running 0 ∧
      ((busy id id).line 0).readyLevel = false ∧ ((busy id fun x => { x with readyLevel := true }).line 0).readyLevel = true ∧
      ((busy id id).line 0).inst = some inst ∧ inst.phase ≠ .presetting ∧ (on.line 1).inst = none ∧
      (inPhase .presetting inst).phase = .presetting := by decide +kernel

theorem witness_LineTimersRunOut :
    ((busy id fun x => { x with stallTimer := .running 0 }).line 0).stallTimer = .running 0 ∧
      ((busy (fun i => { i with inactivity := .running 0 }) id).line 0).inst = some { inst with inactivity := .running 0 } ∧
      ((busy (fun i => { inPhase .awaitVerdict i with verdictTimer := .running 0 }) id).line 0).inst =
        some { inPhase .awaitVerdict inst with verdictTimer := .running 0 } := by decide +kernel

theorem witness_LineEventPosted :
    (claiming .event (busy id id)).nextGrant = some (.line 0, 4) ∧ ((claiming .event (busy id id)).line 0).claim = .event := by
  decide +kernel

theorem witness_TypedByteTaken :
    ((busy id fun x => { x with typeAhead := [.byte 0x43, .byte 0x44] }).line 0).typeAhead = .byte 0x43 :: [.byte 0x44] ∧
      ((busy id id).line 0).inst = some inst ∧ ((busy id id).line 0).detached = false ∧
      (inPhase .closing inst).phase = .closing ∧ inst.phase = .editing ∧ inst.held = false ∧ printable 0x43 = true ∧
      (∀ e ∈ ((busy id id).lineProfile 0).keyTable, e.keys.head? ≠ some 0x43) ∧ ((busy id id).line 0).pendingKeys = [] ∧
      ((busy id id).line 0).releaseDue = false ∧ ((busy id id).line 0).claim = .absent ∧ inst.cursorField = some 0 ∧
      0 < inst.fields.length ∧ inst.fields.length = form.fields.length ∧ (form.field 0).attrs.autoAdvance = false ∧
      (form.field 0).type.admits (fold form (form.field 0) 0x43) = true ∧
      (inst.field 0).valueLength < (form.field 0).length ∧ inst.cursorPos = (inst.field 0).valueLength ∧
      ({ inst with cursorPos := 1 } : Inst).cursorPos < (inst.field 0).valueLength ∧ inst.insertMode = .overwrite ∧
      ({ inst with insertMode := .insert } : Inst).insertMode = .insert := by decide +kernel

/-- Field 0 of `form` as an AUTO_ADVANCE or NOTIFY field of another last-field option. -/
def formWith (o : LastField) (auto notify : Bool) : FormDef :=
  { form with
    lastField := o
    fields := [⟨0, 0, 4, .text, 0, 0, ⟨false, false, auto, false, false, notify⟩, 0x5F, 0, 0, 0⟩, form.field 1] }

/-- The entry `e` at the head of L0's type-ahead, over `f` of the instance, with slot F0 holding `d`. -/
def keyed (d : FormDef) (f : Inst → Inst) (g : Line → Line) (e : Entry) : State :=
  (busy f fun x => g { x with typeAhead := [e] }).setSlot 0 ⟨.ready d, 1⟩

theorem atHead (d : FormDef) (f : Inst → Inst) (g : Line → Line) (e : Entry) (i : Inst) (q : List Entry)
    (h : decide (((keyed d f g e).line 0).inst = some i ∧ ((keyed d f g e).line 0).detached = false ∧ i.held = false ∧
      ((keyed d f g e).line 0).typeAhead = e :: q ∧ ((keyed d f g e).line 0).releaseDue = false) = true) :
    AtHead (keyed d f g e) 0 i e q := by
  obtain ⟨h1, h2, h3, h4, h5⟩ := of_decide_eq_true h
  exact ⟨h1, h2, h3, h4, h5⟩

/-- What the default profile makes of a control byte that begins no key sequence. -/
theorem presses (d : FormDef) (f : Inst → Inst) (b : Byte) (a : Action)
    (h : decide (((keyed d f id (.byte b)).line 0).pendingKeys = [] ∧
      (∀ k ∈ ((keyed d f id (.byte b)).lineProfile 0).keyTable, k.keys.head? ≠ some b) ∧ control b = true ∧
      ((keyed d f id (.byte b)).lineProfile 0).controlMap.getD (if b = 0x7F then 32 else b.toNat) .ignore = a) = true) :
    Presses (keyed d f id (.byte b)) 0 (.byte b) a := by
  obtain ⟨h1, h2, h3, h4⟩ := of_decide_eq_true h
  exact .inl ⟨b, rfl, h1, h2, h3, h4⟩

/-- R76: the AWAIT phases take REFRESH, IGNORE, another action and a character. -/
theorem witness_TypedByteTaken_await :
    (∀ e, AtHead (keyed form (inPhase .awaitBuffer) id e) 0 (inPhase .awaitBuffer inst) e []) ∧
      (∀ w, ((keyed form (inPhase .awaitBuffer) id (.byte 0x0C)).line 0).claim ≠ .key w) ∧
      Presses (keyed form (inPhase .awaitBuffer) id (.byte 0x0C)) 0 (.byte 0x0C) .refresh ∧
      Presses (keyed form (inPhase .awaitBuffer) id (.byte 0x00)) 0 (.byte 0x00) .ignore ∧
      Presses (keyed form (inPhase .awaitBuffer) id (.byte 0x03)) 0 (.byte 0x03) .cancel ∧
      Sends (keyed form (inPhase .awaitBuffer) id (.byte 0xFF)) 0 (.byte 0xFF) 0xFF := by
  refine ⟨fun e => ⟨rfl, rfl, rfl, rfl, rfl⟩, fun w h => ?_, presses _ _ _ _ (by decide +kernel),
    presses _ _ _ _ (by decide +kernel), presses _ _ _ _ (by decide +kernel), rfl, by decide +kernel, by decide +kernel, ?_⟩
  · cases (show LineClaim.absent = .key w from h)
  · unfold StandsAlone; decide +kernel

/-- R70, R147: the keys of the default profile, one for each action; two of them by a key sequence, one by a break. -/
theorem witness_TypedByteTaken_keys :
    (∀ e, AtHead (keyed form id id e) 0 inst e []) ∧ inst.phase = .editing ∧
      (∀ p ∈ [((0x01 : Byte), Action.home), (0x03, .cancel), (0x04, .submit), (0x05, .toEnd), (0x08, .rubout), (0x09, .next),
          (0x0B, .prev), (0x0E, .insertToggle), (0x10, .attention), (0x15, .clearField), (0x7F, .delete)],
        Presses (keyed form id id (.byte p.1)) 0 (.byte p.1) p.2) ∧
      Presses (keyed form id (fun x => { x with pendingKeys := [0x1B, 0x5B] }) (.byte 0x44)) 0 (.byte 0x44) .left ∧
      Presses (keyed form id (fun x => { x with pendingKeys := [0x1B, 0x5B] }) (.byte 0x43)) 0 (.byte 0x43) .right ∧
      Presses (keyed form id (fun x => { x with config := { x.config with breakAction := .refresh } }) .breakMarker) 0
        .breakMarker .refresh := by
  refine ⟨fun e => ⟨rfl, rfl, rfl, rfl, rfl⟩, rfl, ?_, ?_, ?_, .inr (.inr ⟨rfl, rfl, rfl⟩)⟩
  · intro p hp
    simp only [List.mem_cons, List.not_mem_nil, or_false] at hp
    rcases hp with rfl | rfl | rfl | rfl | rfl | rfl | rfl | rfl | rfl | rfl | rfl <;>
      exact presses _ _ _ _ (by decide +kernel)
  · exact .inr (.inl ⟨0x44, ⟨[0x1B, 0x5B, 0x44], .left⟩, rfl, by decide +kernel, by decide +kernel, by decide +kernel⟩)
  · exact .inr (.inl ⟨0x43, ⟨[0x1B, 0x5B, 0x43], .right⟩, rfl, by decide +kernel, by decide +kernel, by decide +kernel⟩)

/-- R86 to R95, R98: the states in which each key acts, is refused, or leaves the field; the boundary positions among them. -/
theorem witness_TypedByteTaken_cases :
    inst.cursorField = some 0 ∧ ({ inst with cursorField := none } : Inst).cursorField = none ∧
      ({ inst with cursorPos := 0 } : Inst).cursorPos = 0 ∧ inst.cursorPos = (inst.field 0).valueLength ∧
      ({ inst with cursorPos := 1 } : Inst).cursorPos < (inst.field 0).valueLength ∧
      ((form.field 0).type.admits (fold form (form.field 0) 0x43) = true) ∧
      (FieldType.digits.admits 0x43 = false) ∧ printable 0x43 = true ∧ printable 0xFF = false ∧
      (withField inst 0 ⟨4, false, false, false, .none, none⟩).fields.length = form.fields.length ∧
      ((withField inst 0 ⟨4, false, false, false, .none, none⟩).field 0).valueLength = (form.field 0).length ∧
      Places .overwrite 4 3 [0x41, 0x42, 0x43] 0x44 [0x41, 0x42, 0x43, 0x44] ∧
      Places .overwrite 4 3 [0x41, 0x42, 0x43, 0x44] 0x45 [0x41, 0x42, 0x43, 0x45] ∧
      Places .insert 4 1 [0x41, 0x42] 0x43 [0x41, 0x43, 0x42] ∧
      ((formWith .stay true true).field 0).attrs.autoAdvance = true ∧
      exitNotice (formWith .stay true true) 0 { inst with edited := true } 0 = [0x0403, 0, 1] ∧
      (openOf form inst).find? (fun k => decide (0 < k)) = none ∧ (openOf form inst).head? = some 0 ∧
      (openOf form (withField inst 1 ⟨0, false, false, false, .unprotected, none⟩)).find? (fun k => decide (0 < k)) = some 1 ∧
      (openOf form inst).reverse.find? (fun k => decide (k < 0)) = none ∧ (openOf form inst).getLast? = some 0 ∧
      exitOutcome (form.field 0) [0x41] = ([0x41], true) ∧
      (exitOutcome ⟨0, 0, 4, .digits, 0, 0, ⟨false, false, false, false, false, false⟩, 0x20, 0, 0, 0⟩ [0x41]).2 = false := by
  unfold Places
  decide +kernel

/-- R69, R78: a key taken freely; a key claim that covers its need, and one that does not. -/
theorem witness_Takes :
    (∀ w, ((keyed form id id (.byte 0x09)).line 0).claim ≠ .key w) ∧
      (claiming (.key 3) (keyed (formWith .wrap false true) (fun i => { i with edited := true }) id (.byte 0x09))).nextGrant =
        some (.line 0, 3) ∧
      (claiming (.key 6) (keyed form id id (.byte 0x04))).nextGrant = some (.line 0, 6) ∧
      (claiming (.key 3) (keyed form id id (.byte 0x04))).nextGrant = some (.line 0, 3) := by
  refine ⟨fun w h => ?_, by decide +kernel⟩
  cases (show LineClaim.absent = .key w from h)

/-- R92, R95: NEXT leaves the NOTIFY field 0 with its notice, and the cursor enters it afresh under WRAP. -/
theorem test_next_wraps :
    (match exec (.keyClaimGrant 0)
        (claiming (.key 3) (keyed (formWith .wrap false true) (fun i => { i with edited := true }) id (.byte 0x09))) with
      | .next t => (t.answerQueue, t.reserved, (t.instOf 0).cursorField, (t.instOf 0).cursorPos, (t.instOf 0).edited)
      | _ => ([], 1, none, 1, true)) = ([0x0403, 0x0000, 0x0001], 0, some 0, 0, false) := by decide +kernel

theorem witness_KeysReleased :
    ((busy id fun x => { x with gapTimer := .running 0, pendingKeys := [0x00] }).line 0).pendingKeys = [0x00] ∧
      (∀ e ∈ Profile.default.keyTable, e.keys ≠ [0x00] ∧ e.keys ≠ [0x1B] ∧ e.keys.head? ≠ some 0x03 ∧ e.keys.head? ≠ some 0x10) ∧
      mapsTo Profile.default 0x00 .ignore ∧ mapsTo Profile.default 0x1B .cancel ∧ mapsTo Profile.default 0x03 .cancel ∧
      mapsTo Profile.default 0x10 .attention ∧ (busy id id).lineProfile 0 = Profile.default ∧
      Editable ((busy id id).line 0) = true ∧
      (claiming (.key 3) (busy id fun x => { x with typeAhead := [.byte 0x03] })).nextGrant = some (.line 0, 3) ∧
      (claiming (.key 1) (busy id fun x => { x with typeAhead := [.byte 0x10] })).nextGrant = some (.line 0, 1) ∧
      ((claiming (.key 3) (busy id fun x => { x with typeAhead := [.byte 0x03] })).line 0).typeAhead = .byte 0x03 :: [] := by
  unfold mapsTo
  decide +kernel

/-- `busy` with these keys pending on L0 and this entry at its head, under the profile `p`. -/
def pendingKeys (p : Profile) (keys : List Byte) (e : Entry) : State :=
  (keyed form id (fun x => { x with pendingKeys := keys }) e).setProfile 0 ⟨.ready p, 1⟩

/-- The profile of the worked example 4.10: 1B 4F is END and 1B 4F 50 is ATTENTION. -/
def endOrAttention : Profile :=
  { Profile.default with keyTable := [⟨[0x1B, 0x4F], .toEnd⟩, ⟨[0x1B, 0x4F, 0x50], .attention⟩] }

/-- R72, case 2, R81: an ESC, and the second byte of an arrow key, open an entry; so does 1B 4F, an entry itself, in the worked
example 4.10. -/
theorem witness_TypedByteTaken_pending :
    AtHead (pendingKeys Profile.default [0x1B] (.byte 0x5B)) 0 inst (.byte 0x5B) [] ∧
      Interprets ((pendingKeys Profile.default [0x1B] (.byte 0x5B)).line 0) = true ∧
      (pendingKeys Profile.default [0x1B] (.byte 0x5B)).lineProfile 0 = Profile.default ∧
      OpensEntry Profile.default [0x1B] ∧ OpensEntry Profile.default ([0x1B] ++ [0x5B]) ∧
      OpensEntry endOrAttention [0x1B, 0x4F] ∧ LineConfig.reset.breakAction = .ignore ∧
      ((pendingKeys Profile.default [0x1B] .breakMarker).line 0).claim = .absent := by
  refine ⟨⟨rfl, rfl, rfl, rfl, rfl⟩, ?_⟩
  unfold OpensEntry
  decide +kernel

/-- The worked example 4.9, ticks 22 and 36: ESC followed by x, and 1B 5B as they stand. -/
theorem witness_escape_runs :
    EntryOut Profile.default .ignore [0x1B] (.byte 0x78) [.action .cancel, .char 0x78] [] false ∧
      PendingOut Profile.default [0x1B, 0x5B] [.action .cancel, .char 0x5B] [] false := by
  have last : ∀ b : Byte, StandsAlone Profile.default b → printable b = true →
      Examined Profile.default [] [b] [.char b] [] false := fun b hs hp =>
    .alone (es' := []) (bell := false) (bell' := false) hs (.inr (.inl ⟨hp, rfl, rfl⟩)) (.none [])
  refine ⟨.release (a := .cancel) (rest := []) (by decide) ?_ (.inr ⟨0x1B, rfl, ?_, ?_⟩) (last 0x78 ?_ ?_),
    .inr ⟨.cancel, [0x5B], [.char 0x5B], .inr ⟨0x1B, rfl, ?_, ?_⟩, last 0x5B ?_ ?_, rfl⟩⟩ <;>
    (try unfold mapsTo) <;> (try unfold StandsAlone) <;> decide +kernel

/-- The worked example 4.10: q after 1B 4F releases END and q; 1B 4F as they stand release END. -/
theorem witness_prefix_runs :
    EntryOut endOrAttention .ignore [0x1B, 0x4F] (.byte 0x71) [.action .toEnd, .char 0x71] [] false ∧
      PendingOut endOrAttention [0x1B, 0x4F] [.action .toEnd] [] false ∧
      EntryOut endOrAttention .attention [0x1B, 0x4F] .breakMarker [.action .toEnd, .action .attention] [] false := by
  have h : FirstOf endOrAttention [0x1B, 0x4F] .toEnd [] := by
    refine .inl ⟨[0x1B, 0x4F], ?_⟩
    unfold IsEntry
    decide +kernel
  have hp : PendingOut endOrAttention [0x1B, 0x4F] [.action .toEnd] [] false := .inr ⟨.toEnd, [], [], h, .none [], rfl⟩
  refine ⟨.release (by decide) ?_ h
    (.alone (es' := []) (bell := false) (bell' := false) ?_ (.inr (.inl ⟨?_, rfl, rfl⟩)) (.none [])), hp, _, hp, rfl⟩ <;>
    (try unfold StandsAlone) <;> decide +kernel

/-- 1B 5B pending on L0 with the gap about to run out. -/
def gapOut : State := busy id fun x => { x with pendingKeys := [0x1B, 0x5B], gapTimer := .running 0 }

/-- The worked example 4.9, tick 36: the gap runs out on 1B 5B, and a claim of 3 words is made for CANCEL and the bracket; it is
granted in the same tick. -/
theorem test_gap_claims :
    ((((gapOut.effect (.gapTimerExpiry 0)).line 0).claim, ((gapOut.effect (.gapTimerExpiry 0)).line 0).releaseDue) =
      (LineClaim.key 3, true)) ∧
    (match exec (.gapTimerExpiry 0) gapOut with
      | .next t => (t.answerQueue, (t.line 0).claim, (t.line 0).pendingKeys, (t.line 0).gapTimer, (t.instOf 0).cursorPos)
      | _ => ([], .event, [], .stopped, 0)) = ([0x0603, 0x0000, 0x0001], .absent, [], .stopped, 3) := by decide +kernel

/-- L0 of `busy` with 1B 5B due and its key claim of 3 words. -/
def dueKeys : State := claiming (.key 3) (busy id fun x => { x with pendingKeys := [0x1B, 0x5B], releaseDue := true })

/-- The worked example 4.9, tick 36: at the grant the CANCEL_KEY is posted and the bracket placed. -/
theorem test_due_release_applied :
    (match exec (.keyClaimGrant 0) dueKeys with
      | .next t => (t.answerQueue, t.reserved, t.value 0 0, (t.instOf 0).cursorPos)
      | _ => ([], 1, [], 0)) = ([0x0603, 0x0000, 0x0001], 0, (dueKeys.value 0 0) ++ [0x5B], 3) ∧
    (match exec (.keyClaimGrant 0) dueKeys with
      | .next t => ((t.line 0).pendingKeys, (t.line 0).releaseDue, (t.line 0).claim)
      | _ => ([], true, .event)) = ([], false, .absent) := by decide +kernel

/-- The worked example 4.10, tick 2: END and q, with no claim. -/
theorem test_prefix_entry :
    (match exec (.byteTaken 0)
        ((busy (fun i => { i with cursorPos := 0 }) fun x =>
          { x with pendingKeys := [0x1B, 0x4F], typeAhead := [.byte 0x71] }).setProfile 0 ⟨.ready endOrAttention, 1⟩) with
      | .next t => (t.value 0 0, (t.instOf 0).cursorPos, (t.line 0).pendingKeys)
      | _ => ([], 0, [0])) = (((busy id id).value 0 0) ++ [0x71], 3, []) := by decide +kernel

/-- R75, R76, R78, R80: a run that needs words and one that needs none, a grant that covers the need and one that does not, and a
line that may claim once its event record is posted. -/
theorem witness_KeysReleased_runs :
    (gapOut.line 0).gapTimer = .running 0 ∧
      (busy id id).runNeed 0 [.action .cancel, .char 0x5B] = 3 ∧ (busy id id).runNeed 0 [.action .toEnd, .char 0x71] = 0 ∧
      (dueKeys.line 0).releaseDue = true ∧ (dueKeys.line 0).inst = some inst ∧ Interprets (dueKeys.line 0) = true ∧
      Editable (dueKeys.line 0) = true ∧ dueKeys.nextGrant = some (.line 0, 3) ∧ (dueKeys.line 0).claim = .key 3 ∧
      (claiming (.key 1) dueKeys).nextGrant = some (.line 0, 1) ∧ (form.field 0).attrs.autoAdvance = false ∧
      (form.field 0).type.admits (fold form (form.field 0) 0x5B) = true ∧
      (claiming .event (busy id fun x => { x with typeAhead := [.byte 0x03] })).nextGrant = some (.line 0, 4) ∧
      ((((claiming .event (busy id fun x => { x with typeAhead := [.byte 0x03] })).effect (.lineEvent 0)).line 0).claim =
        .key 3) := by decide +kernel

theorem witness_UnitsComposed :
    (on.line 0).on = true ∧ (on.line 0).detached = false ∧ (on.line 1).on = false ∧ (on.line 0).inst = none ∧
      (on.line 0).output.length ≤ 256 ∧ ((busy id id).line 0).on = true ∧ ((busy id id).line 0).inst = some inst ∧
      ((busy id fun x => { x with detached := true }).line 0).detached = true ∧
      ((on.modLine 0 fun x => { x with clearPending := true }).line 0).clearPending = true ∧
      ((busy (inPhase .painting) fun x => { x with clearPending := true }).line 0).clearPending = true ∧
      (List.replicate 255 (0 : Byte)).length + (on.lineProfile 0).clear.length ≤ 256 ∧
      256 < (List.replicate 256 (0 : Byte)).length + (on.lineProfile 0).clear.length ∧
      (List.replicate 256 (0 : Byte)).length ≤ 256 ∧
      ((on.modLine 0 fun x => { x with bellPending := true }).line 0).bellPending = true ∧
      ((busy (fun i => inPhase .painting (withField i 0 ⟨2, false, true, false, .none, some 0⟩)) id).line 0).inst =
        some (inPhase .painting (withField inst 0 ⟨2, false, true, false, .none, some 0⟩)) ∧
      (∀ k ∈ inst.textIndex, form.texts.length ≤ k) ∧ (∀ m, m < inst.fields.length → (inst.field m).staleFrom = none) ∧
      (withField inst 1 ⟨0, false, false, false, .none, some 4⟩).fields.length = 2 ∧
      ({ form with texts := [⟨1, 0, 0, 4, .plain⟩] } : FormDef).texts[0]? = some ⟨1, 0, 0, 4, .plain⟩ ∧
      ({ inst with textIndex := some 0 } : Inst).textIndex = some 0 ∧ form.messageRow = none ∧
      ({ form with messageRow := some 1 } : FormDef).messageRow = some 1 ∧ inst.messageStale = false ∧
      inst.cursorStale = false ∧ inst.cursorField = some 0 := by
  decide +kernel

/-- The end of a paint with the message and the cursor still stale, this entry in the type-ahead, and an output queue with room
for the last field's unit alone. -/
def paintEnds (e : Entry) : State :=
  busy (fun i =>
      { inPhase .painting (withField i 1 ⟨0, false, false, false, .none, some 0⟩) with messageStale := true, cursorStale := true })
    fun x => { x with typeAhead := [e], output := List.replicate 250 0, knownCursor := some (0, 6) }

/-- The state a row leaves. -/
def after (row : Instr) (s : State) : State := match exec row s with | .next t => t | _ => s

/-- The units composed next, one after another, with room for each. -/
def units : Nat → State → List UnitKind
  | 0, _ => []
  | n + 1, s =>
    let s := s.modLine 0 fun x => { x with output := [] }
    match s.composable 0 with
    | some u => u :: units n (s.compose 0)
    | none => []

/-- R114, R189: at the end of a paint the key claim is made and granted in the same happening, with no room for the cursor's unit
yet; the message and the cursor left by the paint are composed before the field work of the clerk's first keystroke. -/
theorem test_paint_end_order :
    (((after (.unitComposition 0) (paintEnds (.byte 0x03))).answerQueue,
        ((after (.unitComposition 0) (paintEnds (.byte 0x03))).instOf 0).phase) = ([0x0603, 0x0000, 0x0001], .editing)) ∧
      (after (.unitComposition 0) (after (.unitComposition 0) (paintEnds (.byte 0x03)))).composable 0 = none ∧
      units 9 (after (.byteTaken 0) (after (.unitComposition 0) (paintEnds (.byte 0x43)))) =
        [.message, .cursor, .field 0, .cursor] ∧
      units 9 (after (.unitComposition 0) (paintEnds (.byte 0x03))) = [.message, .cursor] := by decide +kernel

/-- R105: a field that a host command marks comes before the message all the same. -/
theorem test_paint_end_host_order :
    units 9 ((after (.byteTaken 0) (after (.unitComposition 0) (paintEnds (.byte 0x43)))).modInst 0 fun i =>
        withField i 1 { i.field 1 with staleFrom := some 0 }) =
      [.field 1, .message, .cursor, .field 0, .cursor] := by decide +kernel

/-- Work left by a paint: a field behind it and one that is not. -/
theorem witness_UnitsComposed_left :
    Behind { inst with paintLeft := some [1] } 1 ∧ ¬ Behind { inst with paintLeft := some [1] } 0 ∧
      ¬ Behind inst 0 ∧ cursorDone { inst with paintLeft := some [1] } = { inst with cursorStale := true } ∧
      messageDone { inst with messageStale := true, paintLeft := some [] } = inst := by
  refine ⟨⟨[1], rfl, by decide⟩, ?_, ?_, rfl, rfl⟩
  · rintro ⟨ns, h, hn⟩
    cases h
    exact absurd hn (by decide)
  · rintro ⟨ns, h, -⟩
    cases h

/-- A paint ends with the composition of its last field, and not while a clear is pending. -/
theorem test_paint_ends :
    (match exec (.unitComposition 0) (busy (fun i => inPhase .painting (withField i 1 ⟨0, false, false, false, .none, some 0⟩)) id) with
      | .next t => (t.instOf 0).phase
      | _ => .closing) = .editing ∧
      (painted form { (busy (inPhase .painting) id).line 0 with clearPending := true }).inst.map Inst.phase = some .painting := by
  decide +kernel

theorem witness_SubmissionSweptAndMatched_amounts :
    isAmount 2 (text "-007.5") = true ∧ isAmount 0 (text "000") = true ∧
      text "-007.5" = text "-" ++ text "00" ++ text "7" ++ text "." ++ text "5" ∧
      text "000" = [] ++ text "000" ++ [] ++ [] ++ [] ∧ (text "7").head? ≠ some 0x30 ∧ ([] : List Byte).head? ≠ some 0x30 ∧
      (∀ b ∈ text "00", b = 0x30) ∧ (∀ b ∈ text "7" ++ text "5", 0x30 ≤ b.toNat ∧ b.toNat ≤ 0x39) ∧
      FieldType.text ≠ .amount ∧ isAmount 2 (text "1.234") = false ∧ text "1.234" ≠ [] := by decide +kernel

/-- A SUBMIT at the head, with the cursor in a field and NONE; a sweep that passes and one that does not. -/
theorem witness_SubmissionSweptAndMatched_submit :
    AtHead (keyed form id id (.byte 0x04)) 0 inst (.byte 0x04) [] ∧
      Presses (keyed form id id (.byte 0x04)) 0 (.byte 0x04) .submit ∧
      AtHead (keyed form (fun i => { i with cursorField := none }) id (.byte 0x04)) 0 { inst with cursorField := none }
        (.byte 0x04) [] ∧
      (exitOutcome (form.field 0) ((keyed form id id (.byte 0x04)).value 0 0)).2 = true ∧
      (openOf form inst).find? (fun n => failsSweep (form.field n) ((keyed form id id (.byte 0x04)).value 0 n)) = none ∧
      failsSweep { form.field 0 with minLength := 3 } ((keyed form id id (.byte 0x04)).value 0 0) = true := by
  refine ⟨⟨rfl, rfl, rfl, rfl, rfl⟩, presses _ _ _ _ (by decide +kernel), ⟨rfl, rfl, rfl, rfl, rfl⟩, by decide +kernel⟩

/-- R123: a SUBMIT of `busy` with no buffer posted waits, keeping 6 words; its image size is 8 and, for each of two fields, 4 and
the value length rounded up to even. -/
theorem test_submit_waits :
    (match exec (.keyClaimGrant 0) (claiming (.key 6) (keyed form id id (.byte 0x04))) with
      | .next t => (t.waiting, t.reserved, (t.instOf 0).phase, (t.instOf 0).imageSize)
      | _ => ([], 0, .closing, 0)) = ([0], 6, .awaitBuffer, 18) := by decide +kernel

theorem witness_SubmissionSweptAndMatched :
    ((busy id id).line 0).inst = some inst ∧ inst.fields.length = form.fields.length ∧ (∀ n ∈ [0, 1], n < inst.fields.length) ∧
      ({ busy id id with bufferList := [⟨0, 17⟩, ⟨32, 18⟩, ⟨64, 20⟩] } : State).bufferList = [⟨0, 17⟩] ++ ⟨32, 18⟩ :: [⟨64, 20⟩] ∧
      (17 : Word).toNat < inst.imageSize ∧ inst.imageSize ≤ (18 : Word).toNat := by decide +kernel

theorem witness_MemoryFormAndCapacityKept :
    MemoryForm (busy id id) ∧ WithinCapacity (busy id id) ∧ ∃ t, step (busy id id) = .next t := by
  refine ⟨?_, ?_, _, rfl⟩
  · unfold MemoryForm; decide +kernel
  · unfold WithinCapacity; decide +kernel

theorem witness_QuietUntilReady :
    Quiet { ready with partState := .fault } ∧ ∃ t, step { ready with partState := .fault } = .next t := by
  refine ⟨fun _ => ⟨rfl, rfl, rfl, rfl, rfl, fun l => ⟨false, none, ?_⟩⟩, _, rfl⟩
  simp [ready, State.line, State.reset]

/-- An instance that waits for a buffer. -/
def waitingEntry (i : Inst) : Inst :=
  { inPhase .awaitBuffer i with pendingOpen := none, heldBuffer := none, reservation := 6 }

/-- READY, with that instance on line L0, its books in order. -/
def tidy : State := { busy waitingEntry id with waiting := [0], reserved := 6 }

/-- The counts of `tidy` are exact. -/
theorem witness_CountsExact : CountsExact tidy := by
  constructor
  · intro k
    by_cases h : k = 0
    · subst h
      exact ⟨by decide +kernel, fun _ => ⟨form, by decide +kernel⟩⟩
    · have hk : ∀ k : SlotId, k ≠ 0 → (tidy.slot k).useCount = 0 ∧
          (allLines.filter fun l => decide ((tidy.inst l).map Inst.slot = some k)).length = 0 := by
        decide +kernel
      exact ⟨(hk k h).1.trans (hk k h).2.symm, fun h' => absurd (hk k h).1 (by omega)⟩
  · intro p
    have hp : ∀ p : ProfileId, (tidy.profileSlot p).userCount =
        (allLines.filter fun l => (tidy.line l).on &&
          decide ((tidy.line l).config.profile = p)).length ∧
        (tidy.profileSlot p).state = .ready Profile.default := by decide +kernel
    exact ⟨(hp p).1, fun _ => ⟨_, (hp p).2⟩⟩

/-- The form of the tests is sound. -/
theorem witness_FormSound : FormSound form := by
  constructor <;> decide +kernel

theorem witness_CountsAndRecordsKept : RecordsWhole tidy := by
  constructor
  · intro k d h
    by_cases hk : k = 0
    · subst hk
      have e : (tidy.slot 0).state = .ready form := by decide +kernel
      rw [e] at h
      cases h
      exact witness_FormSound
    · have hn : ∀ k : SlotId, k ≠ 0 → (tidy.slot k).state = .empty := by decide +kernel
      rw [hn k hk] at h
      cases h
  · intro l i h
    by_cases hl : l = 0
    · subst hl
      have e : tidy.inst 0 = some (waitingEntry inst) := by decide +kernel
      rw [e] at h
      cases h
      decide +kernel
    · have hn : ∀ l : LineId, l ≠ 0 → tidy.inst l = none := by decide +kernel
      rw [hn l hl] at h
      cases h

theorem witness_ValueMemoryStaysDivided :
    Divided tidy ∧
      ∀ k d, (tidy.slot k).state = .ready d → 0 < d.valueTotal := by
  have hx : (tidy.freeList ++
      allLines.filterMap fun l => (tidy.inst l).map Inst.extent) = [⟨1, 1535⟩, ⟨0, 1⟩] := by
    decide +kernel
  refine ⟨⟨by show 0 < 1535; decide, ?_, ?_⟩, ?_⟩
  · intro l i h
    have hn : ∀ l : LineId, ∀ i ∈ tidy.inst l, 0 < i.extent.count := by decide +kernel
    exact hn l i h
  · intro g
    rw [hx]
    simp only [List.filter_cons, List.filter_nil]
    by_cases h0 : g = 0
    · subst h0; decide
    · by_cases h1 : g < 1536
      · rw [if_pos h1, if_pos (by simpa using by omega), if_neg (by simpa using by omega)]; rfl
      · rw [if_neg h1, if_neg (by simpa using by omega), if_neg (by simpa using by omega)]; rfl
  · intro k d h
    obtain ⟨hs, _⟩ := witness_CountsAndRecordsKept
    have := hs k d h
    rw [this.valueTotal]
    have h1 := this.fieldCount.1
    cases hf : d.fields with
    | nil => rw [hf] at h1; exact absurd h1 (by decide)
    | cons f fs =>
      have := (this.field f (by rw [hf]; exact List.mem_cons_self)).2.2.1
      simp only [List.map_cons, List.sum_cons]
      omega

theorem witness_BooksAndCursorKept : Booked tidy ∧ CursorWithin tidy ∧ ∃ t, step tidy = .next t := by
  have hi : ∀ l : LineId, l ≠ 0 → tidy.inst l = none := by decide +kernel
  have h0 : tidy.inst 0 = some (waitingEntry inst) := by decide +kernel
  have hc : (waitingEntry inst).phase = .awaitBuffer := rfl
  have one : ∀ l i, tidy.inst l = some i → l = 0 ∧ i = waitingEntry inst := by
    intro l i h
    by_cases hl : l = 0
    · subst hl; rw [h0] at h; cases h; exact ⟨rfl, rfl⟩
    · rw [hi l hl] at h; cases h
  have asked : ∀ o, ¬ Asked tidy o := fun o h => by cases (show o ∈ ([] : List Owner) from h)
  have hs : ∀ k, (tidy.slot k).isLoading = false := by decide +kernel
  have hp : ∀ p, (tidy.profileSlot p).isLoading = false := by decide +kernel
  have hs' : ∀ k tag r, (tidy.slot k).state ≠ .loading tag r := fun k tag r h => by
    have := hs k; simp [Slot.isLoading, h] at this
  have hp' : ∀ p tag r, (tidy.profileSlot p).state ≠ .loading tag r := fun p tag r h => by
    have := hp p; simp [ProfileSlot.isLoading, h] at this
  refine ⟨⟨⟨by decide +kernel, fun l => ?_⟩, by decide +kernel, fun k => ?_, fun p => ?_, fun l => ?_, fun l => ?_,
    ⟨fun k tag r h => absurd h (hs' k tag r), fun p tag r h => absurd h (hp' p tag r)⟩, fun l i h => ?_, fun l i h hp => ?_,
    by decide +kernel, by decide +kernel⟩, fun l i n h hn => ?_, _, rfl⟩
  · constructor
    · intro h
      have : l = 0 := by simpa [tidy] using h
      subst this; exact ⟨_, h0, rfl⟩
    · rintro ⟨i, h, -⟩
      obtain ⟨rfl, -⟩ := one l i h
      decide +kernel
  · exact ⟨fun h => absurd h (asked _), fun ⟨tag, h⟩ => absurd h (hs' k tag 4)⟩
  · exact ⟨fun h => absurd h (asked _), fun ⟨tag, h⟩ => absurd h (hp' p tag 4)⟩
  · exact ⟨fun h => absurd h (asked _), fun ⟨i, h, hph⟩ => by
      obtain ⟨-, rfl⟩ := one l i h; rcases hph with h | ⟨h, -⟩ <;> cases h⟩
  · exact ⟨fun h => absurd h (asked _), fun ⟨i, h, hph⟩ => by
      obtain ⟨-, rfl⟩ := one l i h; rcases hph with h | ⟨h, -⟩ <;> cases h⟩
  · obtain ⟨-, rfl⟩ := one l i h
    exact ⟨rfl, rfl, rfl, rfl⟩
  · obtain ⟨-, rfl⟩ := one l i h; cases hp
  · obtain ⟨rfl, rfl⟩ := one l i h
    cases hn
    decide +kernel

/-- A row, and a step (a tick of the timers), that keep a frozen entry frozen. -/
theorem witness_FrozenEntriesKept :
    Frozen (waitingEntry inst).phase ∧
      ((tidy.effect (.gapTimerExpiry 0)).line 0).inst = some (waitingEntry inst) ∧
      ∃ t, step tidy = .next t ∧ (t.line 0).inst = some (waitingEntry inst) ∧
        (t.line 0).typeAhead = (tidy.line 0).typeAhead ∧ (t.line 0).releaseDue = (tidy.line 0).releaseDue := by
  refine ⟨.inl rfl, by decide +kernel, tidy.tick, ?_, by decide +kernel⟩
  have h : tidy.ownHappening = none := by decide +kernel
  have hp : tidy.pending = [] := rfl
  simp only [step, hp, h]

end Sys2Proof.Tests
end

