-- ==== Sys2Proof/Proofs/BusMaster.lean ====
section
/-! PROOFS. The bus master (chapter 10): when a transfer starts. -/

namespace Sys2Proof.Machine

open Sys2Proof.Safety

/-- The row TRANSFER_START is the start of a transfer and nothing else: it makes no claim. -/
theorem exec_transferStart (s : State) : exec .transferStart s = .next s.startTransfer := rfl

theorem State.startTransfer_of_queued {s : State} {r : Request} {rest : List Request} (hidle : s.transfer = none)
    (hqueue : s.busQueue = r :: rest) : s.startTransfer = { s with transfer := some r, busQueue := rest } := by
  simp only [State.startTransfer, hidle, hqueue]

theorem State.startTransfer_of_busy {s : State} (hbusy : s.transfer ≠ none) : s.startTransfer = s := by
  obtain ⟨r, hr⟩ := Option.ne_none_iff_exists'.mp hbusy
  simp only [State.startTransfer, hr]

theorem State.startTransfer_of_empty {s : State} (hempty : s.busQueue = []) : s.startTransfer = s := by
  cases hs : s.transfer <;> simp only [State.startTransfer, hs, hempty]

/-- Settles O41: with no transfer in progress the head of the queue starts (R170); a transfer in progress or an empty queue
each leave the state as it is. -/
theorem transferStarts : Obligations.TransferStarts := by
  intro s
  rw [exec_transferStart]
  constructor
  · intro r rest hidle hqueue
    rw [State.startTransfer_of_queued hidle hqueue]
  · rintro (hbusy | hempty)
    · rw [State.startTransfer_of_busy hbusy]
    · rw [State.startTransfer_of_empty hempty]

end Sys2Proof.Machine
end

/-! PROOFS. The host port (chapter 11): the items of STATUS and LEVELS at their bits, the interrupt request line, and a write of
CONTROL. -/

namespace Sys2Proof.Machine

/-! ## Bits and bytes of a number -/

/-- A bit of a word is a binary digit of its number. -/
theorem getLsbD_eq_iff (w : Word) (i : Nat) (b : Bool) : w.getLsbD i = b ↔ w.toNat / 2 ^ i % 2 = b.toNat := by
  rw [BitVec.getLsbD, ← Nat.toNat_testBit]
  exact ⟨congrArg Bool.toNat, fun h => by cases b <;> simpa using h⟩

/-- The number of a word made of a number that fits. -/
theorem toNat_word {n : Nat} (h : n < 65536) : (word n).toNat = n := by
  rw [word, BitVec.toNat_ofNat, Nat.mod_eq_of_lt h]

/-- The number of a byte made of a number. -/
theorem toNat_byte (n : Nat) : (byte n).toNat = n % 256 := BitVec.toNat_ofNat n 8

/-! ## STATUS (R193) -/

/-- The code of a part state takes two bits. -/
theorem PartState.code_lt (p : PartState) : p.code < 4 := by
  cases p <;> decide

/-- The code of a fault code takes two bits. -/
theorem FaultCode.code_lt (f : FaultCode) : f.code < 4 := by
  cases f <;> decide

/-- Each item of STATUS fits its bits. -/
theorem State.statusItems_lt (s : State) :
    s.partState.code < 4 ∧ (decide (s.resetCause = .port)).toNat < 2 ∧ s.faultCode.code < 4 ∧ s.stateChange.toNat < 2 ∧
      s.overflow.toNat < 2 ∧ s.answerEnable.toNat < 2 ∧ s.stateChangeEnable.toNat < 2 ∧ s.overflowEnable.toNat < 2 ∧
      s.interrupt.toNat < 2 ∧ (decide (s.answerQueue.length = 256)).toNat < 2 :=
  ⟨s.partState.code_lt, Bool.toNat_lt _, s.faultCode.code_lt, Bool.toNat_lt _, Bool.toNat_lt _, Bool.toNat_lt _,
    Bool.toNat_lt _, Bool.toNat_lt _, Bool.toNat_lt _, Bool.toNat_lt _⟩

/-- The number of STATUS: nothing of the sum is lost in the word. -/
theorem State.toNat_statusWord (s : State) :
    s.statusWord.toNat =
      s.partState.code + 4 * (decide (s.resetCause = .port)).toNat + 8 * s.faultCode.code + 32 * s.stateChange.toNat +
        64 * s.overflow.toNat + 128 * s.answerEnable.toNat + 256 * s.stateChangeEnable.toNat +
        512 * s.overflowEnable.toNat + 1024 * s.interrupt.toNat + 2048 * (decide (s.answerQueue.length = 256)).toNat := by
  have hitems := s.statusItems_lt
  rw [State.statusWord, toNat_word (by split_ifs <;> omega)]
  simp only [Bool.toNat, Bool.cond_decide]
  rfl

/-- R193: each item of STATUS at its bits, since those below it sum to less than its weight. -/
theorem State.statusWord_items (s : State) :
    s.statusWord.toNat % 4 = s.partState.code ∧ s.statusWord.getLsbD 2 = decide (s.resetCause = .port) ∧
      s.statusWord.toNat / 8 % 4 = s.faultCode.code ∧ s.statusWord.getLsbD 5 = s.stateChange ∧
      s.statusWord.getLsbD 6 = s.overflow ∧ s.statusWord.getLsbD 7 = s.answerEnable ∧
      s.statusWord.getLsbD 8 = s.stateChangeEnable ∧ s.statusWord.getLsbD 9 = s.overflowEnable ∧
      s.statusWord.getLsbD 10 = s.interrupt ∧ s.statusWord.getLsbD 11 = decide (s.answerQueue.length = 256) := by
  have hitems := s.statusItems_lt
  simp only [getLsbD_eq_iff, s.toNat_statusWord]
  refine ⟨?_, ?_, ?_, ?_, ?_, ?_, ?_, ?_, ?_, ?_⟩ <;> omega

/-! ## LEVELS (R193) -/

/-- The low byte of LEVELS is the room of the command queue. -/
theorem State.lowByte_levelsWord (s : State) : (lowByte s.levelsWord).toNat = 128 - s.commandQueue.length := by
  rw [State.levelsWord, lowByte_wordOf, toNat_byte, Config.commandRoom]
  omega

/-- The high byte of LEVELS is the level of the answer queue, modulo 256: a full queue shows 0 there. -/
theorem State.highByte_levelsWord (s : State) : (highByte s.levelsWord).toNat = s.answerQueue.length % 256 := by
  rw [State.levelsWord, highByte_wordOf, toNat_byte]

/-- R193: the level of the answer queue, read from LEVELS and bit 11 of STATUS. -/
theorem State.answerLevel_eq (s : State) (h : s.answerQueue.length ≤ 256) :
    s.answerQueue.length = (highByte s.levelsWord).toNat + if s.statusWord.getLsbD 11 = true then 256 else 0 := by
  obtain ⟨-, -, -, -, -, -, -, -, -, hfull⟩ := s.statusWord_items
  simp only [s.highByte_levelsWord, hfull, decide_eq_true_eq]
  split_ifs <;> omega

/-! ## The interrupt request line and CONTROL (R181) -/

/-- The interrupt request line is asserted just while an enabled condition holds. -/
theorem State.interrupt_iff (s : State) :
    s.interrupt = true ↔
      (s.answerQueue ≠ [] ∧ s.answerEnable = true) ∨ (s.stateChange = true ∧ s.stateChangeEnable = true) ∨
        (s.overflow = true ∧ s.overflowEnable = true) := by
  simp only [State.interrupt, Bool.or_eq_true, Bool.and_eq_true, Bool.not_eq_true', List.isEmpty_eq_false_iff, or_assoc]

/-- A flag and its clear indication: the flag stands where it is not cleared. -/
theorem and_not_eq_ite (flag clear : Bool) : (flag && !clear) = if clear then false else flag := by
  cases clear <;> simp

/-- A word write at offset 2 is a write of CONTROL. -/
theorem State.windowWrite_control (s : State) (c : Word) (answered : Nat) :
    s.windowWrite .word 2 c answered = some (s.writeControl c) := rfl

/-- Settles O9: the items of STATUS do not overlap, so that each stands at its bits; LEVELS and bit 11 give the whole answer level
(R193); the interrupt request line and a write of CONTROL are as R181 gives them. -/
theorem statusAndInterrupt : Obligations.StatusAndInterrupt := by
  refine ⟨⟨rfl, fun s => ?_⟩, State.interrupt_iff, fun s c answered => ?_⟩
  · obtain ⟨hpart, hcause, hfault, hchange, hoverflow, hanswerEnable, hchangeEnable, hoverflowEnable, hinterrupt, hfull⟩ :=
      s.statusWord_items
    refine ⟨?_, ?_, ?_, hchange, hoverflow, hanswerEnable, hchangeEnable, hoverflowEnable, hinterrupt, ?_,
      fun _ => s.lowByte_levelsWord, s.answerLevel_eq⟩
    · rw [hpart]
      cases s.partState <;> rfl
    · rw [hcause, decide_eq_true_eq]
    · rw [hfault]
      cases s.faultCode <;> rfl
    · rw [hfull, decide_eq_true_eq]
  · rw [s.windowWrite_control, State.writeControl, and_not_eq_ite, and_not_eq_ite]

end Sys2Proof.Machine

section
/-! PROOFS. The rotation of R189 and the step: which claim is granted next, that every row is its effect with the grants that
follow in the same happening, and what a step can be. -/

namespace Sys2Proof.Machine

open Sys2Proof.Safety

-- The proofs of the whole text share one memory limit, and each thread takes its part of it.
set_option Elab.async false

/-! ## The order of the search (R189) -/

/-- The search goes round the ring: each claimant stands farther behind the pointer than those searched before it. -/
theorem searchOrder_pairwise (p : Claimant) :
    (searchOrder p).Pairwise fun a b => ringDistance p a < ringDistance p b := by
  cases p with
  | commandUnit => decide
  | line l => revert l; decide

/-- In a list that rises in a measure, the first element with a property is the one of least measure. -/
theorem find?_eq_some_iff_least {α : Type} (q : α → Bool) (d : α → Nat) (xs : List α)
    (hx : xs.Pairwise fun a b => d a < d b) (c : α) :
    xs.find? q = some c ↔ c ∈ xs ∧ q c = true ∧ ∀ a ∈ xs, q a = true → d c ≤ d a := by
  induction xs with
  | nil => simp
  | cons x xs ih =>
    obtain ⟨hlt, hrest⟩ := List.pairwise_cons.1 hx
    rw [List.find?_cons]
    cases hq : q x with
    | true =>
      constructor
      · rintro ⟨⟩
        exact ⟨List.mem_cons_self, hq, fun a ha _ => (List.mem_cons.1 ha).elim (fun e => e ▸ le_rfl)
          fun h => (hlt a h).le⟩
      · rintro ⟨hc, -, hleast⟩
        rcases List.mem_cons.1 hc with rfl | h
        · rfl
        · exact absurd (hleast x List.mem_cons_self hq) (not_le.2 (hlt c h))
    | false =>
      simp only [ih hrest, List.mem_cons]
      constructor
      · rintro ⟨hc, hqc, hleast⟩
        refine ⟨.inr hc, hqc, ?_⟩
        rintro a (rfl | ha) hqa
        · simp [hq] at hqa
        · exact hleast a ha hqa
      · rintro ⟨hc, hqc, hleast⟩
        refine ⟨hc.resolve_left ?_, hqc, fun a ha => hleast a (.inr ha)⟩
        rintro rfl
        simp [hq] at hqc

/-- The first waiting claimant is the one nearest behind the pointer. -/
theorem State.firstWaiting_eq_some_iff (s : State) (c : Claimant) :
    s.firstWaiting = some c ↔
      s.claimOf c ≠ none ∧ ∀ c', s.claimOf c' ≠ none → ringDistance s.pointer c ≤ ringDistance s.pointer c' := by
  rw [State.firstWaiting, find?_eq_some_iff_least _ _ _ (searchOrder_pairwise s.pointer)]
  simp [mem_searchOrder, Option.isSome_iff_ne_none]

/-- Nobody is the first to wait just where nobody waits. -/
theorem State.firstWaiting_eq_none_iff (s : State) : s.firstWaiting = none ↔ ∀ c, s.claimOf c = none := by
  simp [State.firstWaiting, List.find?_eq_none, mem_searchOrder]

/-- R189: the next grant is that of the first waiting claimant, where its claim fits. -/
theorem State.nextGrant_eq_some_iff (s : State) (c : Claimant) (n : Nat) :
    s.nextGrant = some (c, n) ↔ s.firstWaiting = some c ∧ s.claimOf c = some n ∧ n ≤ s.freeRoom := by
  rw [State.nextGrant]
  cases hf : s.firstWaiting with
  | none => simp
  | some a =>
    cases ha : s.claimOf a with
    | none => grind
    | some m =>
      by_cases hm : m ≤ s.freeRoom <;> grind

/-- A state where nobody waits grants nothing. -/
theorem State.nextGrant_of_no_claim {s : State} (h : ∀ c, s.claimOf c = none) : s.nextGrant = none := by
  rw [State.nextGrant, s.firstWaiting_eq_none_iff.2 h]

/-! ## The claims that a row finds waiting -/

/-- A row that is that of the next grant leaves the other claims waiting, and the search goes on behind its claimant. -/
theorem State.leftWaiting_of_granted {s : State} {row : Instr} {c : Claimant} {n : Nat} (hg : s.nextGrant = some (c, n))
    (hr : s.grantHappening = some row) : s.leftWaiting row = { s.without c with pointer := c } := by
  simp [State.leftWaiting, hg, hr]

/-- A line's claim is read from the lines alone. -/
theorem State.claimOf_line_congr {s t : State} {l m : LineId} (h : (s.line l).claim = (t.line m).claim) :
    s.claimOf (.line l) = t.claimOf (.line m) := by simp only [State.claimOf, h]

/-- Without its claim a claimant waits no more, and the others wait as before. -/
theorem State.claimOf_without (s : State) (c c' : Claimant) :
    ({ s.without c with pointer := c } : State).claimOf c' = if c' = c then none else s.claimOf c' := by
  cases c with
  | commandUnit =>
    cases c' with
    | commandUnit => rfl
    | line m => exact State.claimOf_line_congr rfl
  | line l =>
    cases c' with
    | commandUnit => rfl
    | line m =>
      have hm : ({ s.without (.line l) with pointer := .line l } : State).line m =
          (s.modLine l fun x => { x with claim := .absent }).line m := rfl
      by_cases h : m = l
      · subst h
        simp only [State.claimOf, hm, State.modLine_line_self, if_true]
      · rw [if_neg fun e => h (Claimant.line.inj e)]
        exact State.claimOf_line_congr (by rw [hm, State.modLine_line_of_ne _ _ h])

/-- The claim of another claimant than the granted one is the same in what the row finds waiting. -/
theorem sameClaim_without {s t : State} {c c' : Claimant} (h : c' ≠ c) :
    SameClaim ({ s.without c with pointer := c } : State) t c' ↔ SameClaim s t c' := by
  cases c with
  | commandUnit =>
    cases c' with
    | commandUnit => exact absurd rfl h
    | line m => exact Iff.rfl
  | line l =>
    cases c' with
    | commandUnit => exact Iff.rfl
    | line m =>
      have hm : ({ s.without (.line l) with pointer := .line l } : State).line m = s.line m :=
        State.modLine_line_of_ne s (fun x => { x with claim := .absent }) fun e => h (congrArg _ e)
      simp only [SameClaim, hm]

/-- Where a row is that of the next grant, it grants that claimant and no other. -/
theorem grantedBy_iff {s : State} {row : Instr} {c : Claimant} {n : Nat} (hg : s.nextGrant = some (c, n))
    (hr : s.grantHappening = some row) (c' : Claimant) : GrantedBy s row c' ↔ c' = c := by
  simp [GrantedBy, hg, hr, eq_comm]

/-- A row grants nobody, or it is that of the next grant. -/
theorem grantedBy_cases (s : State) (row : Instr) :
    (∃ c n, s.nextGrant = some (c, n) ∧ s.grantHappening = some row) ∨
      (∀ c, ¬ GrantedBy s row c) ∧ s.grantHappening ≠ some row := by
  by_cases hr : s.grantHappening = some row
  · cases hg : s.nextGrant with
    | none => simp [s.grantHappening_none.2 hg] at hr
    | some p => exact .inl ⟨p.1, p.2, rfl, hr⟩
  · exact .inr ⟨fun c h => hr h.1, hr⟩

/-- `FirstFound` is the first claimant in what the row finds waiting. -/
theorem firstFound_iff (s : State) (row : Instr) (c : Claimant) :
    FirstFound s row c ↔ (s.leftWaiting row).firstWaiting = some c := by
  rw [State.firstWaiting_eq_some_iff]
  rcases grantedBy_cases s row with ⟨g, n, hg, hr⟩ | ⟨hno, hr⟩
  · rw [State.leftWaiting_of_granted hg hr]
    simp only [State.claimOf_without, FirstFound, grantedBy_iff hg hr]
    grind
  · rw [State.leftWaiting_of_other hr]
    simp only [FirstFound, hno, false_or, not_false_iff, implies_true, true_and, forall_eq, and_true, forall_const]

/-- The claim of a claimant found waiting is its claim in the state itself. -/
theorem sameClaim_leftWaiting {s t : State} {row : Instr} {c : Claimant} (hc : ¬ GrantedBy s row c) :
    SameClaim (s.leftWaiting row) t c ↔ SameClaim s t c := by
  rcases grantedBy_cases s row with ⟨g, n, hg, hr⟩ | ⟨-, hr⟩
  · rw [State.leftWaiting_of_granted hg hr]
    exact sameClaim_without (by rwa [grantedBy_iff hg hr] at hc)
  · rw [State.leftWaiting_of_other hr]

/-- R189: grants follow a row that finds no claim waiting but for the one that it grants. -/
theorem grantsLead_of_none_found {s t : State} {row : Instr} (h : ∀ c, s.claimOf c ≠ none → GrantedBy s row c) :
    GrantsLead 1024 t (s.prompted row t) := by
  rcases s.prompted_cases row t with ⟨c, hc, -, -⟩ | ⟨-, e⟩
  · obtain ⟨⟨hw, hg⟩, -⟩ := (firstFound_iff s row c).2 hc
    exact absurd (h c hw) hg
  · rw [e]
    exact t.grants_lead _

/-- R189: while the first claim found waiting stays, none follows; once it is withdrawn, grants follow. -/
theorem prompted_of_firstFound {s t : State} {row : Instr} {c : Claimant} (h : FirstFound s row c) :
    (SameClaim s t c → s.prompted row t = t) ∧ (¬ SameClaim s t c → GrantsLead 1024 t (s.prompted row t)) := by
  have hc := (firstFound_iff s row c).1 h
  obtain ⟨⟨-, hg⟩, -⟩ := h
  rcases s.prompted_cases row t with ⟨c', hc', hs, e⟩ | ⟨hs, e⟩
  · obtain rfl : c' = c := Option.some.inj (hc'.symm.trans hc)
    exact ⟨fun _ => e, fun hn => absurd ((sameClaim_leftWaiting hg).1 hs) hn⟩
  · refine ⟨fun hsame => absurd ((sameClaim_leftWaiting hg).2 hsame) (hs c hc), fun _ => ?_⟩
    rw [e]
    exact t.grants_lead _

/-! ## Every row is its effect and the grants that follow -/

/-- The rows that can take a grant: those of the host commands, ASSEMBLY_RESULT_POST, LINE_EVENT and KEY_CLAIM_GRANT. -/
def takesGrant : Instr → Bool
  | .powerOnReset | .portReset _ _ | .selfCheckEnd _ _ _ | .dataWrite _ | .dataRead | .setInterruptEnables _
  | .clearStateChangeFlag _ | .clearOverflow _ | .assemblyTimerExpiry | .transferStart | .formFetchEnd _
  | .profileFetchEnd _ | .presetFetchEnd _ | .deliveryComplete | .busFault _ _ | .characterReceived _ _ | .breakEnd _
  | .readyInputChange _ _ | .settleTimerExpiry _ | .stallTimerExpiry _ | .byteTransmitStart _ | .byteTaken _
  | .gapTimerExpiry _ | .inactivityTimerExpiry _ | .verdictTimerExpiry _ | .unitComposition _
  | .receivedStreamIdleSeen _ => false
  | _ => true

/-- The row of a host command can take a grant. -/
theorem Command.row_takesGrant (c : Command) : takesGrant c.row = true := by
  unfold Command.row
  split <;> (try split) <;> rfl

/-- A row that can take none is never that of the next grant. -/
theorem State.grantHappening_ne {row : Instr} (h : takesGrant row = false) (s : State) : s.grantHappening ≠ some row := by
  have key : ∀ r, s.grantHappening = some r → takesGrant r = true := by
    intro r hr
    unfold State.grantHappening at hr
    split at hr
    · split at hr <;> cases hr
      · exact Command.row_takesGrant _
      · rfl
    · split at hr <;> cases hr <;> rfl
    · cases hr
  exact fun e => by simp [key row e] at h

/-- States with one assembler and the same lines make the same claims. -/
theorem sameClaim_of_frame {s t : State} (ha : t.assembler = s.assembler) (hl : ∀ l, (t.line l).claim = (s.line l).claim)
    (c : Claimant) : SameClaim s t c := by
  cases c with
  | commandUnit => exact ha.symm
  | line l => exact (hl l).symm

/-- A change of one line that leaves its claim leaves every claim. -/
theorem claim_modLine {s : State} {l : LineId} {f : Line → Line} (h : (f (s.line l)).claim = (s.line l).claim) (m : LineId) :
    ((s.modLine l f).line m).claim = (s.line m).claim := by
  by_cases hm : m = l
  · subst hm
    rw [State.modLine_line_self, h]
  · rw [State.modLine_line_of_ne _ _ hm]

/-- After a reset nobody claims. -/
theorem State.resetBy_no_claim (s : State) (cause : ResetCause) (c : Claimant) : (s.resetBy cause).claimOf c = none := by
  cases c with
  | commandUnit => rfl
  | line l => simp [State.claimOf, State.resetBy_line, Line.reset]

/-- The end of a LOAD FORM leaves the assembler and the lines. -/
theorem State.endLoad_claims (s : State) (k : SlotId) (new : SlotState) (st : Status) (d : List Word) :
    (s.endLoad k new st d).assembler = s.assembler ∧ (s.endLoad k new st d).lines = s.lines := by
  unfold State.endLoad
  split <;> exact ⟨rfl, rfl⟩

/-- The end of a SET PROFILE leaves the assembler and the lines. -/
theorem State.endSetProfile_claims (s : State) (p : ProfileId) (new : Profile) (st : Status) (d : List Word) :
    (s.endSetProfile p new st d).assembler = s.assembler ∧ (s.endSetProfile p new st d).lines = s.lines := by
  unfold State.endSetProfile
  split <;> exact ⟨rfl, rfl⟩

/-- The end of a FORM_FETCH leaves every claim. -/
theorem effectFormFetchEnd_claims (bytes : List Byte) (s : State) :
    (effectFormFetchEnd bytes s).assembler = s.assembler ∧ (effectFormFetchEnd bytes s).lines = s.lines := by
  unfold effectFormFetchEnd
  split
  · simp only [State.endRead]
    split
    · simp only [State.formFetched, State.endTransfer_assembler, State.endTransfer_lines]
      split <;> exact State.endLoad_claims (s.fillBuffer _) _ _ _ _
    · exact ⟨rfl, rfl⟩
  · exact ⟨rfl, rfl⟩

/-- The end of a PROFILE_FETCH leaves every claim. -/
theorem effectProfileFetchEnd_claims (bytes : List Byte) (s : State) :
    (effectProfileFetchEnd bytes s).assembler = s.assembler ∧ (effectProfileFetchEnd bytes s).lines = s.lines := by
  unfold effectProfileFetchEnd
  split
  · simp only [State.endRead]
    split
    · simp only [State.profileFetched, State.endTransfer_assembler, State.endTransfer_lines]
      split <;> exact State.endSetProfile_claims (s.fillBuffer _) _ _ _ _
    · exact ⟨rfl, rfl⟩
  · exact ⟨rfl, rfl⟩

/-- A transfer that starts makes no claim. -/
theorem State.startTransfer_claims (s : State) :
    s.startTransfer.assembler = s.assembler ∧ s.startTransfer.lines = s.lines := by
  unfold State.startTransfer
  split <;> exact ⟨rfl, rfl⟩

/-- The end of the self-check makes no claim. -/
theorem effectSelfCheckEnd_claims (v b p : Bool) (s : State) :
    (effectSelfCheckEnd v b p s).assembler = s.assembler ∧ (effectSelfCheckEnd v b p s).lines = s.lines := by
  unfold effectSelfCheckEnd
  split <;> exact ⟨rfl, rfl⟩

/-- A read of DATA makes no claim. -/
theorem effectDataRead_claims (s : State) :
    (effectDataRead s).assembler = s.assembler ∧ (effectDataRead s).lines = s.lines := by
  simp only [effectDataRead, State.readWord, State.readData]
  split <;> exact ⟨rfl, rfl⟩

/-- A row that takes no grant and leaves every claim is its effect alone. -/
theorem exec_of_claims {s t : State} {row : Instr} (hx : exec row s = .next t) (ht : s.effect row = t)
    (hr : takesGrant row = false) (ha : t.assembler = s.assembler) (hl : ∀ l, (t.line l).claim = (s.line l).claim) :
    exec row s = .next (s.prompted row (s.effect row)) := by
  rw [hx, ht, State.prompted_of_same (s.grantHappening_ne hr) (sameClaim_of_frame ha hl)]

/-- The same for a row that leaves the lines as they are. -/
theorem exec_of_lines {s t : State} {row : Instr} (hx : exec row s = .next t) (ht : s.effect row = t)
    (hr : takesGrant row = false) (h : t.assembler = s.assembler ∧ t.lines = s.lines) :
    exec row s = .next (s.prompted row (s.effect row)) :=
  exec_of_claims hx ht hr h.1 fun l => by rw [State.line, State.line, h.2]

/-- The ready input of a line makes no claim. -/
theorem Line.readyInput_claim (x : Line) (present : Bool) :
    (if x.readyLevel = present then x else Line.readyChanged { x with readyLevel := present }).claim = x.claim := by
  unfold Line.readyChanged
  split_ifs <;> rfl

/-- The transmitter makes no claim. -/
theorem Line.transmit_claim (x : Line) : x.transmit.claim = x.claim := by
  unfold Line.transmit
  split
  · split <;> rfl
  · rfl

/-- R189: every row is its own effect, with the grants that follow in the same happening. The rows written without `prompted`
make no claim, so that none follows. -/
theorem exec_eq_prompted (s : State) (row : Instr) : exec row s = .next (s.prompted row (s.effect row)) := by
  cases row
  case powerOnReset =>
    exact congrArg _ (State.prompted_of_none (State.nextGrant_of_no_claim (s.resetBy_no_claim .power)) _ _).symm
  case portReset value answered =>
    exact congrArg _ (State.prompted_of_none (State.nextGrant_of_no_claim (State.resetBy_no_claim _ .port)) _ _).symm
  case selfCheckEnd v b p => exact exec_of_lines rfl rfl rfl (effectSelfCheckEnd_claims v b p s)
  case dataRead => exact exec_of_lines rfl rfl rfl (effectDataRead_claims s)
  case setInterruptEnables c => exact exec_of_lines rfl rfl rfl ⟨rfl, rfl⟩
  case clearStateChangeFlag c => exact exec_of_lines rfl rfl rfl ⟨rfl, rfl⟩
  case clearOverflow c => exact exec_of_lines rfl rfl rfl ⟨rfl, rfl⟩
  case transferStart => exact exec_of_lines rfl rfl rfl s.startTransfer_claims
  case formFetchEnd bytes => exact exec_of_lines rfl rfl rfl (effectFormFetchEnd_claims bytes s)
  case profileFetchEnd bytes => exact exec_of_lines rfl rfl rfl (effectProfileFetchEnd_claims bytes s)
  case breakEnd l => exact exec_of_claims rfl rfl rfl rfl (claim_modLine rfl)
  case readyInputChange l present =>
    exact exec_of_claims rfl rfl rfl rfl (claim_modLine (Line.readyInput_claim _ _))
  case byteTransmitStart l => exact exec_of_claims rfl rfl rfl rfl (claim_modLine (Line.transmit_claim _))
  case receivedStreamIdleSeen l => exact exec_of_claims rfl rfl rfl rfl (claim_modLine (by split <;> rfl))
  all_goals rfl

/-- What a row gives is its effect. -/
theorem gives_effect {row : Instr} {s t : State} (h : s.effect row = t) : Gives row s t := gives_of (exec_eq_prompted s row) h

/-- Settles O11: the rotation by the distance round the ring; the rows by `exec_eq_prompted`; the grants that follow by what a row
finds waiting. -/
theorem grantRotation : Obligations.GrantRotation := by
  refine ⟨fun s c n => ?_, exec_eq_prompted, fun s t row => ⟨grantsLead_of_none_found, fun c => prompted_of_firstFound⟩,
    fun s n => ⟨fun l hg => ⟨fun w hw => ?_, fun he => ?_⟩, fun hg => ⟨fun tag st ha => ?_, fun c hc => ?_⟩⟩⟩
  · rw [s.nextGrant_eq_some_iff, s.firstWaiting_eq_some_iff]
    constructor
    · rintro ⟨⟨-, hleast⟩, hc, hn⟩
      exact ⟨hc, hn, hleast⟩
    · rintro ⟨hc, hn, hleast⟩
      exact ⟨⟨by simp [hc], hleast⟩, hc, hn⟩
  · simp [State.grantHappening, hg, hw]
  · simp [State.grantHappening, hg, he]
  · have : s.headCommand = none := by simp [State.headCommand, ha]
    simp [State.grantHappening, hg, this]
  · simp [State.grantHappening, hg, hc]

/-! ## What a step can be -/

/-- Settles O1: the step's own equation for a queue with a command at its front. -/
theorem stepRunsFrontCommand : Obligations.StepRunsFrontCommand := by
  intro c s rest h
  rw [step, h]

/-- A property that each row's effect keeps is kept by the grants that follow one another. -/
theorem State.grants_keep {P : State → Prop} (heffect : ∀ s row, P s → P (s.effect row)) (n : Nat) :
    ∀ s, P s → P (s.grants n) := by
  induction n with
  | zero => exact fun s h => h
  | succ n ih =>
    intro s h
    unfold State.grants
    split
    · exact ih _ (heffect _ _ h)
    · exact h

/-- A property that each row's effect and a tick keep, and to which the waiting commands are nothing, is kept by every step. -/
theorem step_keeps {P : State → Prop} (hpending : ∀ s p, P s → P { s with pending := p })
    (heffect : ∀ s row, P s → P (s.effect row)) (htick : ∀ s, P s → P s.tick) {s t : State} (hs : P s)
    (h : step s = .next t) : P t := by
  have hexec : ∀ (u : State) (c : Instr), P u → exec c u = .next t → P t := by
    intro u c hu hx
    rw [exec_eq_prompted] at hx
    obtain rfl := Host.Outcome.next.inj hx
    rcases u.prompted_cases c (u.effect c) with ⟨-, -, -, e⟩ | ⟨-, e⟩
    · rw [e]
      exact heffect u c hu
    · rw [e]
      exact State.grants_keep heffect _ _ (heffect u c hu)
  unfold step at h
  split at h
  · exact hexec _ _ (hpending s _ hs) h
  · split at h
    · exact hexec _ _ hs h
    · obtain rfl := Host.Outcome.next.inj h
      exact htick s hs

end Sys2Proof.Machine
end

section
/-! PROOFS. R23: a step of several grants can end a frozen entry and begin another one. -/

namespace Sys2Proof.Tests

open Sys2Proof.Machine Sys2Proof.Safety

-- The proofs of the whole text share one memory limit, and each thread takes its part of it.
set_option Elab.async false

/-- `tidy`, with the preset transfer of line L0 in progress although its instance is in AWAIT_BUFFER (which `Booked` rules out, and
the statement does not assume), and with three commands for L0 in the queue: a CLOSE FORM, an OPEN FORM with a preset, and a CLOSE
FORM. -/
def reopening : State :=
  { tidy with
    transfer := some ⟨.presetFetch 0, 0x100, 10⟩
    assembler := .complete (.command .closeForm)
    commandQueue :=
      [0x0B04, 0x0001, 0, 0] ++ [0x0A06, 0x0002, 0, 0x0100, 0, 10] ++ [0x0B04, 0x0003, 0, 0]
    pending := [.closeForm] }

/-- The one step of `reopening` retires the instance, opens another and defers its close: that line, which was frozen, is frozen
again with no key taken, and the value of field 0 has lost its two bytes. -/
theorem step_reopening :
    ∃ t j, step reopening = .next t ∧ (t.line 0).inst = some j ∧ j.phase = .closing ∧ (j.field 0).valueLength = 0 ∧
      (t.line 0).typeAhead = (reopening.line 0).typeAhead ∧ (t.line 0).releaseDue = (reopening.line 0).releaseDue := by
  have h : (match step reopening with
      | .next t =>
        decide
          ((t.line 0).inst.any (fun j => j.phase = .closing ∧ (j.field 0).valueLength = 0) = true ∧
            (t.line 0).typeAhead = (reopening.line 0).typeAhead ∧ (t.line 0).releaseDue = (reopening.line 0).releaseDue)
      | _ => false) = true := by decide +kernel
  cases hs : step reopening with
  | next t =>
    rw [hs] at h
    obtain ⟨hj, hkeys, hdue⟩ := of_decide_eq_true h
    obtain ⟨j, hj, hp⟩ := (Option.any_eq_true _ _).1 hj
    obtain ⟨hphase, hlength⟩ := of_decide_eq_true hp
    exact ⟨t, j, rfl, hj, hphase, hlength, hkeys, hdue⟩
  | fault r => cases r
  | refused r =>
    rw [hs] at h
    cases h

/-- Refutes O59: its second part speaks of whole steps, which may hold several grants, and assumes nothing of the transfer in
progress. From `reopening` one step closes the frozen instance, opens a second one and leaves that one in CLOSING. -/
theorem not_frozenEntriesKept : ¬ Obligations.FrozenEntriesKept := by
  rintro ⟨-, hstep⟩
  obtain ⟨t, j, hs, hj, hphase, hlength, hkeys, hdue⟩ := step_reopening
  have hi : (reopening.line 0).inst = some (waitingEntry inst) := by decide +kernel
  obtain ⟨-, hkept⟩ := hstep reopening t witness_CountsExact witness_CountsAndRecordsKept
    witness_ValueMemoryStaysDivided.1 hs 0 _ j hi hj (.inl rfl) (.inr (.inr (.inr hphase))) hkeys hdue 0 (by decide)
  rw [hlength] at hkept
  exact absurd hkept (by decide)

end Sys2Proof.Tests
end

section
/-! PROOFS. Resets, the self-check, the window, the assembler and the tick (chapter 11). -/

namespace Sys2Proof.Machine

open Sys2Proof.Safety

-- The proofs of the whole text share one memory limit, and each thread takes its part of it.
set_option Elab.async false

/-! ## Resets (R179) -/

/-- A slot and a profile are read from the slots and the profiles alone. -/
theorem State.resetBy_slot (s : State) (cause : ResetCause) (k : SlotId) : (s.resetBy cause).slot k = ⟨.empty, 0⟩ := by
  simp [State.slot, State.resetBy, State.reset]

theorem State.resetBy_profileSlot (s : State) (cause : ResetCause) (p : ProfileId) :
    (s.resetBy cause).profileSlot p = ⟨.ready Profile.default, 0⟩ := by
  simp [State.profileSlot, State.resetBy, State.reset]

/-- R179: a reset of either cause leaves every block at its reset values. -/
theorem State.resetBy_afterReset (s : State) (cause : ResetCause) : AfterReset cause s (s.resetBy cause) where
  partState := rfl
  resetCause := rfl
  faultCode := rfl
  flags := ⟨rfl, rfl⟩
  enables := ⟨rfl, rfl, rfl⟩
  commandQueue := ⟨rfl, rfl⟩
  answerQueue := ⟨rfl, rfl, rfl⟩
  slots := s.resetBy_slot cause
  profiles := s.resetBy_profileSlot cause
  lines := s.resetBy_line cause
  serial := rfl
  freeList := rfl
  delivery := ⟨rfl, rfl⟩
  bus := ⟨rfl, rfl⟩
  unset := fun _ => ⟨rfl, rfl⟩
  outside := ⟨rfl, rfl⟩

/-- What a reset leaves is the same of any state with the same lines, waiting commands and word last read. -/
theorem afterReset_congr {cause : ResetCause} {s s' t : State} (h : AfterReset cause s' t) (hl : s'.lines = s.lines)
    (hp : s'.pending = s.pending) (hd : s'.dataOut = s.dataOut) : AfterReset cause s t :=
  { h with
    lines := fun l => by rw [h.lines, State.line, State.line, hl]
    outside := by rw [← hp, ← hd]; exact h.outside }

/-- R176: a transfer given up leaves the lines, the waiting commands and the word last read. -/
theorem State.abandonTransfer_frame (s : State) (answered : Nat) :
    (s.abandonTransfer answered).lines = s.lines ∧ (s.abandonTransfer answered).pending = s.pending ∧
      (s.abandonTransfer answered).dataOut = s.dataOut := by
  unfold State.abandonTransfer State.partialTransfer
  split
  · simp only
    split <;> exact ⟨rfl, rfl, rfl⟩
  · exact ⟨rfl, rfl, rfl⟩

/-- Settles O4: both resets are `State.resetBy`, which a write to RESET takes after the transfer in progress is given up. -/
theorem resetsTaken : Obligations.ResetsTaken := by
  refine ⟨fun s => ⟨_, rfl, s.resetBy_afterReset .power, rfl⟩, fun s value answered => ?_⟩
  obtain ⟨hlines, hpending, hdata⟩ := s.abandonTransfer_frame answered
  refine ⟨_, rfl, afterReset_congr (State.resetBy_afterReset _ .port) hlines hpending hdata, ?_⟩
  have hmem : (effectPortReset value answered s).hostMemory = (s.abandonTransfer answered).hostMemory := rfl
  rw [hmem, State.abandonTransfer]
  cases s.transfer with
  | none => rfl
  | some r =>
    obtain ⟨owner, address, length⟩ := r
    cases owner with
    | delivery l => exact wrote_writeBytes _ _ _
    | formFetch k => rfl
    | profileFetch p => rfl
    | presetFetch l => rfl

/-- Each line of the reset state. -/
theorem State.reset_line (l : LineId) : State.reset.line l = Line.reset false none := by
  simp [State.line, State.reset]

/-- Settles O3: the reset state is its own power-on reset, and its lines are those of R152 and R153. -/
theorem resetValues : Obligations.ResetValues := by
  have hself : AfterReset .power State.reset State.reset :=
    { State.resetBy_afterReset State.reset .power with
      slots := fun k => by simp [State.slot, State.reset]
      profiles := fun p => by simp [State.profileSlot, State.reset]
      lines := fun l => by rw [State.reset_line]; rfl }
  refine ⟨hself, fun l => ?_, rfl, rfl⟩
  rw [State.reset_line]
  exact ⟨rfl, rfl, rfl, rfl, rfl, rfl, rfl, rfl, rfl, rfl, rfl⟩

/-! ## The self-check (R180) -/

/-- The self-check that ends in STARTING gives its outcome. -/
theorem exec_selfCheckEnd_of_starting {s : State} (h : s.partState = .starting) (v b p : Bool) :
    exec (.selfCheckEnd v b p) s =
      .next { s with partState := (checkOutcome v b p).1, faultCode := (checkOutcome v b p).2, stateChange := true } := by
  simp only [exec, execSelfCheckEnd, effectSelfCheckEnd, h]

/-- Settles O5: the outcome of the check in each of the four cases. -/
theorem selfCheckEnds : Obligations.SelfCheckEnds := by
  intro s libraryOk profileOk h
  simp only [exec_selfCheckEnd_of_starting h]
  exact ⟨rfl, rfl, rfl, rfl⟩

/-! ## The window (R177, R181) -/

/-- A read of a queue that holds a word takes it. -/
theorem State.readData_cons {s : State} {w : Word} {rest : List Word} (h : s.answerQueue = w :: rest) :
    s.readData = { s with answerQueue := rest, dataOut := w } := by
  simp only [State.readData, h]

/-- A read of an empty queue gives 0. -/
theorem State.readData_nil {s : State} (h : s.answerQueue = []) : s.readData = { s with dataOut := 0 } := by
  simp only [State.readData, h]

/-- R181, R193: a CONTROL write, each flag standing where it is not cleared. -/
theorem State.writeControl_eq (s : State) (c : Word) :
    s.writeControl c =
      { s with
        answerEnable := c.getLsbD 7
        stateChangeEnable := c.getLsbD 8
        overflowEnable := c.getLsbD 9
        stateChange := if c.getLsbD 5 then false else s.stateChange
        overflow := if c.getLsbD 6 then false else s.overflow } := by
  simp only [State.writeControl, and_not_eq_ite]

/-- The bits of a CONTROL word with the clear bit of the state-change flag set. -/
theorem getLsbD_or_stateChange (c : Word) :
    (c ||| 0x0020).getLsbD 5 = true ∧ ∀ i ∈ [6, 7, 8, 9], (c ||| 0x0020).getLsbD i = c.getLsbD i := by
  simp [BitVec.getLsbD_or]

/-- The bits of a CONTROL word with the clear bit of OVERFLOW set. -/
theorem getLsbD_or_overflow (c : Word) :
    (c ||| 0x0040).getLsbD 6 = true ∧ ∀ i ∈ [5, 7, 8, 9], (c ||| 0x0040).getLsbD i = c.getLsbD i := by
  simp [BitVec.getLsbD_or]

/-- Settles O8: a read of DATA by the queue's two cases, the CONTROL rows by the bits they write, and the accesses of the window
offset by offset. -/
theorem windowAccessesTaken : Obligations.WindowAccessesTaken := by
  refine ⟨fun s => ⟨fun w rest h => ?_, fun h => ?_⟩, fun s c => ⟨?_, ?_, ?_⟩, fun s value answered => ?_⟩
  · exact congrArg _ (State.readData_cons h)
  · exact congrArg _ (State.readData_nil h)
  · exact congrArg _ (s.writeControl_eq c)
  · obtain ⟨h5, hrest⟩ := getLsbD_or_stateChange c
    refine congrArg _ ((s.writeControl_eq _).trans ?_)
    rw [h5, hrest 6 (by simp), hrest 7 (by simp), hrest 8 (by simp), hrest 9 (by simp)]
    rfl
  · obtain ⟨h6, hrest⟩ := getLsbD_or_overflow c
    refine congrArg _ ((s.writeControl_eq _).trans ?_)
    rw [h6, hrest 5 (by simp), hrest 7 (by simp), hrest 8 (by simp), hrest 9 (by simp)]
    rfl
  · refine ⟨⟨_, rfl, rfl⟩, ⟨_, rfl, rfl⟩, rfl, ⟨_, rfl, rfl⟩, rfl, rfl, rfl, ⟨_, rfl, rfl⟩, fun offset ho => ?_⟩
    interval_cases offset <;> exact ⟨rfl, rfl⟩

/-! ## Words written at DATA (R182 to R184) -/

/-- A row that takes no grant and changes nothing prompts none. -/
theorem State.prompted_self {s : State} {row : Instr} (h : takesGrant row = false) : s.prompted row s = s :=
  State.prompted_of_same (s.grantHappening_ne h) fun _ => sameClaim_of_frame rfl (fun _ => rfl) _

/-- R182: a word that is discarded. -/
theorem State.writeData_discarded {s : State} (w : Word) (h : s.partState ≠ .ready ∨ s.overflow = true) :
    s.writeData w = s := by
  unfold State.writeData
  split_ifs with h1 h2 h3
  · rfl
  · rfl
  · exact (h.elim h1 h2).elim
  · exact (h.elim h1 h2).elim

/-- R182: a word that joins the queue. -/
theorem State.writeData_queued {s : State} (w : Word) (hp : s.partState = .ready) (ho : s.overflow = false)
    (hq : s.commandQueue.length < 128) :
    s.writeData w = { s with commandQueue := s.commandQueue ++ [w] }.assemble := by
  simp [State.writeData, hp, ho, Config.commandRoom, hq]

/-- R183: a word that overflows the queue. -/
theorem State.writeData_overflow {s : State} (w : Word) (hp : s.partState = .ready) (ho : s.overflow = false)
    (hq : 128 ≤ s.commandQueue.length) : s.writeData w = s.takeOverflow := by
  simp [State.writeData, hp, ho, Config.commandRoom, not_lt.2 hq]

/-- R184: a GATHERING assembler is COMPLETE when its command is whole. -/
theorem State.assemble_gathering {s : State} {timer : Timer} {h : Word} {rest : List Word} (ha : s.assembler = .gathering timer)
    (hq : s.commandQueue = h :: rest) :
    s.assemble.assembler =
        (if (lowByte h).toNat ≤ rest.length + 1 then .complete (decodeHeader (highByte h) (lowByte h).toNat)
          else .gathering timer) ∧
      s.assemble.commandQueue = s.commandQueue := by
  simp only [State.assemble, ha, State.completeIfWhole, State.headCount, hq, List.length_cons]
  split_ifs with hc
  · exact ⟨rfl, rfl⟩
  · exact ⟨ha, hq⟩

/-- R184: a GATHERING assembler takes no word out of the queue. -/
theorem State.assemble_gathering_queue {s : State} {timer : Timer} (ha : s.assembler = .gathering timer) :
    s.assemble.commandQueue = s.commandQueue := by
  cases hq : s.commandQueue with
  | nil => simp only [State.assemble, ha, State.completeIfWhole, hq]
  | cons h rest => rw [(State.assemble_gathering ha hq).2, hq]

/-- R184: a COMPLETE or owing assembler leaves the queue and itself. -/
theorem State.assemble_held {s : State} (hf : s.assembler ≠ .free) (hg : ∀ t, s.assembler ≠ .gathering t) : s.assemble = s := by
  cases ha : s.assembler with
  | free => exact absurd ha hf
  | gathering t => exact absurd ha (hg t)
  | complete d => simp only [State.assemble, ha]
  | owing t st => simp only [State.assemble, ha]

/-- Settles O6: the word is discarded, joins the queue and meets the assembler in each of its states, or overflows. -/
theorem dataWritesTaken : Obligations.DataWritesTaken := by
  refine ⟨fun s w => ⟨fun h => ?_, fun hp ho hq => ?_⟩, fun s w hp ho hq => ?_⟩
  · have he : s.effect (.dataWrite w) = s := State.writeData_discarded w h
    rw [exec_eq_prompted, he, State.prompted_self rfl]
  · refine ⟨_, gives_effect (State.writeData_queued w hp ho hq), State.assemble_frame _, ?_⟩
    generalize hu : ({ s with commandQueue := s.commandQueue ++ [w] } : State) = u
    have hau : u.assembler = s.assembler := by rw [← hu]
    have hqu : u.commandQueue = s.commandQueue ++ [w] := by rw [← hu]
    rw [← hqu]
    cases ha : s.assembler with
    | free => exact (u.assemble_free (hau.trans ha)).1
    | gathering timer =>
      refine ⟨State.assemble_gathering_queue (hau.trans ha), fun h rest hrest => ?_⟩
      have hqueue : u.commandQueue = h :: (rest ++ [w]) := by simp [hqu, hrest]
      simpa using (State.assemble_gathering (hau.trans ha) hqueue).1
    | complete d => simp [State.assemble, hau, ha]
    | owing tag st => simp [State.assemble, hau, ha]
  · refine ⟨_, gives_effect (State.writeData_overflow w hp ho hq), rfl, fun ha => ?_, fun tag st ha => ?_,
      fun h tagWord rest hrest hheld => ?_⟩
    · simp [State.takeOverflow, ha]
    · simp [State.takeOverflow, ha]
    · rcases hheld with ⟨timer, ha⟩ | ⟨d, ha⟩ <;> simp [State.takeOverflow, State.headTag, ha, hrest]

/-! ## Decoding (R185, R194) -/

/-- The command of a code is that of the command table. -/
theorem decodeHeader_of_code {b : Byte} {c : CommandCode} (h : CommandCode.ofByte b = some c) (count : Nat) :
    decodeHeader b count =
      if count < c.counts.1 then .refused .tooShort else if c.counts.2 < count then .refused .tooLong else .command c := by
  simp [decodeHeader, h]

/-- Every entry of the command table is the command of its code, with its counts and its reservation. -/
theorem commandTable_entries :
    ∀ e ∈ commandTable, CommandCode.ofByte (byte e.1) = some e.2.2.2.2 ∧ e.2.2.2.2.counts = (e.2.1, e.2.2.1) ∧
      e.2.2.2.2.reservation = e.2.2.2.1 := by
  decide

/-- The codes outside the table are no command's. -/
theorem CommandCode.ofByte_unknown : ∀ b : Byte, (b.toNat = 0 ∨ 0x19 < b.toNat) → CommandCode.ofByte b = none := by
  decide +kernel

/-- Settles O7: by the entries of the command table, and the codes outside it. -/
theorem commandsDecode : Obligations.CommandsDecode := by
  refine ⟨fun e he count => ?_, fun code count h => ?_⟩
  · obtain ⟨hcode, hcounts, hreservation⟩ := commandTable_entries e he
    rw [decodeHeader_of_code hcode, hcounts]
    exact ⟨rfl, hreservation⟩
  · rw [decodeHeader, CommandCode.ofByte_unknown code h]

/-! ## The assembler (R184, R185) -/

/-- The row posts what the command unit owes and takes up the next header: words leave the queue, and the reservation of two
words is made and used at once. -/
theorem does_postOwed {s : State} {tag : Byte} {st : Status} {n : Nat} {rest : List Word}
    (hg : s.nextGrant = some (.commandUnit, 2)) (ho : s.owedResult = some (tag, st, n)) (hn : s.commandQueue.drop n = rest) :
    Does .assemblyResultPost s rest { s with answerQueue := s.answerQueue ++ result tag st.code [] } := by
  refine ⟨_, gives_effect (show s.postOwed = _ by simp only [State.postOwed, hg, ho]; rfl), took_of_assemble rfl hn rfl ?_⟩
  simp [State.post, State.grant, resultRecord, record, result]

/-- Settles O10: the expiry by the words that stand at the head, the posting by what the command unit owes. -/
theorem assemblerHappenings : Obligations.AssemblerHappenings := by
  refine ⟨fun s n ha => ⟨fun h tagWord rest hq => ?_, fun h hq hc => ?_⟩, fun s st hg => ⟨fun tag ha => ?_, ?_⟩⟩
  · refine gives_effect ?_
    show s.truncateCommand = _
    simp only [State.truncateCommand, ha, State.headTag, State.headCount, hq]
  · refine gives_effect ?_
    show s.truncateCommand = _
    have hdrop : List.drop (lowByte h).toNat [h] = [] := List.drop_eq_nil_of_le (by simpa using by omega)
    simp only [State.truncateCommand, ha, State.headTag, State.headCount, hq, hdrop]
  · exact does_postOwed (n := 0) hg (by simp only [State.owedResult, ha]) rfl
  · intro h tagWord body rest ha hq hc
    refine does_postOwed (n := (lowByte h).toNat) hg (by simp only [State.owedResult, ha, State.headTag, State.headCount, hq]) ?_
    rw [hq, hc]
    simp

/-! ## The step without a command (notes/assumptions/3.md) -/

/-- A list of expiries that holds one just where the timer has run out. -/
theorem mem_expiry {i j : Instr} {t : Timer} : i ∈ expiry t j ↔ t.ranOut = true ∧ i = j := by
  unfold expiry
  split_ifs with h <;> simp [h]

/-- A running timer has run out after a tick just where at most one tick was left. -/
theorem Timer.ranOut_tick_running (n : Nat) : (Timer.running n).tick.ranOut = true ↔ n ≤ 1 := by
  match n with
  | 0 => simp [Timer.tick, Timer.ranOut]
  | 1 => simp [Timer.tick, Timer.ranOut]
  | n + 2 => simp [Timer.tick, Timer.ranOut]

/-- The expiries that wait after a tick with nothing waiting before it. -/
theorem State.tick_pending {s : State} (h : s.pending = []) :
    s.tick.pending = s.tick.assembler.expiries ++ allLines.flatMap fun l => (s.tick.line l).expiries l := by
  have hp : ∀ (t : State) (p : List Instr), ({ t with pending := p } : State).pending = p := fun _ _ => rfl
  have ha : ∀ (t : State) (p : List Instr), ({ t with pending := p } : State).assembler = t.assembler := fun _ _ => rfl
  have hl : ∀ (t : State) (p : List Instr) (l : LineId), ({ t with pending := p } : State).line l = t.line l :=
    fun _ _ _ => rfl
  have hframe := State.foldl_modLine_frame Line.tick allLines { s with assembler := s.assembler.tick }
  unfold State.tick
  simp only [hl]
  rw [hframe]
  simp [h]

/-- An expiry of the assembly timer waits just where the assembler's expiries hold it. -/
theorem assemblyExpiry_mem {a : Assembler} {f : LineId → Line} :
    Instr.assemblyTimerExpiry ∈ a.expiries ++ allLines.flatMap (fun l => (f l).expiries l) ↔
      Instr.assemblyTimerExpiry ∈ a.expiries := by
  have hl : ∀ (x : Line) (l : LineId), Instr.assemblyTimerExpiry ∉ x.expiries l := by
    intro x l
    unfold Line.expiries
    split <;> simp [mem_expiry]
  simp [List.mem_flatMap, hl]

/-- The expiries that a line's timers append. -/
theorem Line.mem_expiries (x : Line) (l : LineId) (i : Instr) :
    i ∈ x.expiries l ↔
      (x.settleTimer.ranOut = true ∧ i = .settleTimerExpiry l) ∨ (x.stallTimer.ranOut = true ∧ i = .stallTimerExpiry l) ∨
        (x.gapTimer.ranOut = true ∧ i = .gapTimerExpiry l) ∨
          ∃ j, x.inst = some j ∧ ((j.inactivity.ranOut = true ∧ i = .inactivityTimerExpiry l) ∨
            (j.verdictTimer.ranOut = true ∧ i = .verdictTimerExpiry l)) := by
  unfold Line.expiries
  cases x.inst <;> simp [mem_expiry]

/-- No expiry of a line is the assembler's. -/
theorem Assembler.mem_expiries {a : Assembler} {i : Instr} (h : i ∈ a.expiries) : i = .assemblyTimerExpiry := by
  cases a with
  | gathering t => exact (mem_expiry.1 h).2
  | free => cases h
  | complete d => cases h
  | owing t st => cases h

/-- Among the expiries of all lines, one that names the line `l` is that line's. -/
theorem mem_allExpiries {a : Assembler} {f : LineId → Line} {l : LineId} {i : Instr} (ha : i ≠ .assemblyTimerExpiry)
    (hl : ∀ m, i ∈ (f m).expiries m → m = l) :
    i ∈ a.expiries ++ allLines.flatMap (fun l => (f l).expiries l) ↔ i ∈ (f l).expiries l := by
  simp only [List.mem_append, List.mem_flatMap, mem_allLines, true_and]
  constructor
  · rintro (h | ⟨m, h⟩)
    · exact absurd (Assembler.mem_expiries h) ha
    · obtain rfl := hl m h
      exact h
  · exact fun h => .inr ⟨l, h⟩

/-- A unit that can be composed is the block's next happening of its own, of that line or of a lower one. -/
theorem State.ownHappening_of_composable {s : State} {l : LineId} {u : UnitKind} (h : s.composable l = some u) :
    ∃ m, s.ownHappening = some (.unitComposition m) := by
  have hsome : (allLines.findSome? s.composeHappening).isSome = true := by
    rw [List.findSome?_isSome_iff]
    exact ⟨l, mem_allLines l, by simp [State.composeHappening, h]⟩
  obtain ⟨i, hi⟩ := Option.isSome_iff_exists.1 hsome
  obtain ⟨m, -, hm⟩ := List.exists_of_findSome?_eq_some hi
  unfold State.composeHappening at hm
  split at hm
  · obtain rfl := Option.some.inj hm
    exact ⟨m, by simp [State.ownHappening, hi]⟩
  · cases hm

/-- Settles O2: the step by its own equations, the tick line by line, and each expiry by the timer that it stands for. -/
theorem stepWithoutCommand : Obligations.StepWithoutCommand := by
  refine ⟨fun s hp => ⟨fun c hc => ?_, fun hn => ⟨s.tick, ?_, s.tick_frame, s.tick_pending hp, ?_, ?_, ?_, ?_, ?_⟩⟩,
    ⟨fun n => rfl, rfl, rfl⟩, fun s l u => s.ownHappening_of_composable⟩
  · simp only [step, hp, hc]
  · simp only [step, hp, hn]
  · intro timer ha
    rw [s.tick_frame]
    simp only [ha, Assembler.tick]
  · intro ha
    rw [s.tick_frame]
    simp only
    cases hs : s.assembler with
    | gathering t => exact absurd hs (ha t)
    | free => rfl
    | complete d => rfl
    | owing t st => rfl
  · exact fun l => s.tick_line l
  · intro n ha
    have ht : s.tick.assembler = .gathering (Timer.running n).tick := by
      rw [s.tick_frame]
      simp only [ha, Assembler.tick]
    rw [s.tick_pending hp, assemblyExpiry_mem, ht, Assembler.expiries, mem_expiry, Timer.ranOut_tick_running]
    simp
  · intro l n
    rw [s.tick_pending hp]
    have hmem : ∀ i : Instr, i ≠ .assemblyTimerExpiry → (∀ m, i ∈ (s.tick.line m).expiries m → m = l) →
        (i ∈ s.tick.assembler.expiries ++ allLines.flatMap (fun m => (s.tick.line m).expiries m) ↔
          i ∈ (s.line l).tick.expiries l) := fun i hi hl => by rw [mem_allExpiries hi hl, s.tick_line]
    refine ⟨fun h => ?_, fun h => ?_, fun h => ?_, fun i hi => ⟨fun h => ?_, fun h => ?_⟩⟩
    · rw [hmem _ (by simp) (by grind [Line.mem_expiries]), Line.mem_expiries]
      simp [Line.tick, h, Timer.ranOut_tick_running]
    · rw [hmem _ (by simp) (by grind [Line.mem_expiries]), Line.mem_expiries]
      simp [Line.tick, h, Timer.ranOut_tick_running]
    · rw [hmem _ (by simp) (by grind [Line.mem_expiries]), Line.mem_expiries]
      simp [Line.tick, h, Timer.ranOut_tick_running]
    · rw [hmem _ (by simp) (by grind [Line.mem_expiries]), Line.mem_expiries]
      simp [Line.tick, hi, Inst.tick, h, Timer.ranOut_tick_running]
    · rw [hmem _ (by simp) (by grind [Line.mem_expiries]), Line.mem_expiries]
      simp [Line.tick, hi, Inst.tick, h, Timer.ranOut_tick_running]

end Sys2Proof.Machine
end

section
/-! PROOFS. The commands of the form library, of the profile store and of the lines, POST BUFFER, WITHDRAW BUFFERS and QUERY PART
(chapters 1, 7, 8, 9 and 11). -/

namespace Sys2Proof.Machine

open Sys2Proof.Safety

-- The proofs of the whole text share one memory limit, and each thread takes its part of it.
set_option Elab.async false

/-! ## The state from which an owning block acts (R186, step 1) -/

/-- The state from which the owning block of an offered command acts. -/
def State.begun (s : State) (code : CommandCode) (rest : List Word) : State :=
  { s with
    pointer := .commandUnit
    reserved := s.reserved + code.reservation
    commandQueue := rest
    assembler := .free }

@[simp] theorem State.begun_line (s : State) (code : CommandCode) (rest : List Word) (l : LineId) :
    (s.begun code rest).line l = s.line l := rfl
@[simp] theorem State.begun_inst (s : State) (code : CommandCode) (rest : List Word) (l : LineId) :
    (s.begun code rest).inst l = s.inst l := rfl
@[simp] theorem State.begun_instOf (s : State) (code : CommandCode) (rest : List Word) (l : LineId) :
    (s.begun code rest).instOf l = s.instOf l := rfl
@[simp] theorem State.begun_slot (s : State) (code : CommandCode) (rest : List Word) (k : SlotId) :
    (s.begun code rest).slot k = s.slot k := rfl
@[simp] theorem State.begun_profileSlot (s : State) (code : CommandCode) (rest : List Word) (p : ProfileId) :
    (s.begun code rest).profileSlot p = s.profileSlot p := rfl
@[simp] theorem State.begun_form (s : State) (code : CommandCode) (rest : List Word) (i : Inst) :
    (s.begun code rest).form i = s.form i := rfl
@[simp] theorem State.begun_bufferList (s : State) (code : CommandCode) (rest : List Word) :
    (s.begun code rest).bufferList = s.bufferList := rfl
@[simp] theorem State.begun_freeList (s : State) (code : CommandCode) (rest : List Word) :
    (s.begun code rest).freeList = s.freeList := rfl

/-- What a command row does, from what its owning block does. -/
theorem does_of_act {s u : State} {code : CommandCode} {tag target : Byte} {args rest : List Word} {row : Instr}
    (h : Offered s code tag target args rest) {accepts : Command → Bool} {act : Command → State → State}
    (hr : s.effect row = s.takeCommand accepts act) (ha : accepts ⟨code, tag, target, args⟩ = true)
    (hu : act ⟨code, tag, target, args⟩ (s.begun code rest) =
      { u with pointer := .commandUnit, commandQueue := rest, assembler := .free }) : Does row s rest u :=
  does_of h (exec_eq_prompted s row) hr ha hu

/-- A command row answers at once where its owning block replies and does nothing else. -/
theorem answers_of_act {s : State} {code : CommandCode} {tag target : Byte} {args rest : List Word} {row : Instr}
    (h : Offered s code tag target args rest) {accepts : Command → Bool} {act : Command → State → State}
    (hr : s.effect row = s.takeCommand accepts act) (ha : accepts ⟨code, tag, target, args⟩ = true) {st : Status}
    {data : List Word}
    (hact : act ⟨code, tag, target, args⟩ (s.begun code rest) = (s.begun code rest).reply ⟨code, tag, target, args⟩ st data) :
    Answers row s rest (result tag st.code data) := by
  refine does_of_act h hr ha (hact.trans ?_)
  rw [State.reply_eq]
  simp [State.begun]

/-! ## Numbers of lines, slots and profiles -/

/-- A byte above 11 names no line. -/
theorem lineOf_of_lt {b : Byte} (h : 11 < b.toNat) : lineOf b = none := by
  simp [lineOf, Nat.not_lt.2 (Nat.succ_le_of_lt h)]

/-- A number above 23 names no slot. -/
theorem slotOf_of_lt {n : Nat} (h : 23 < n) : slotOf n = none := by
  simp [slotOf, Nat.not_lt.2 (Nat.succ_le_of_lt h)]

/-- A number above 3 names no profile. -/
theorem profileOf_of_lt {n : Nat} (h : 3 < n) : profileOf n = none := by
  simp [profileOf, Nat.not_lt.2 (Nat.succ_le_of_lt h)]

/-- A host range that ends by 0x1000000. -/
theorem rangeOk_iff (address length : Nat) :
    rangeOk address length = true ↔ address < 0x1000000 ∧ address + length ≤ 0x1000000 := decide_eq_true_iff

/-- A host range that begins or ends above 0x1000000. -/
theorem rangeOk_eq_false_iff (address length : Nat) :
    rangeOk address length = false ↔ 0x1000000 ≤ address ∨ 0x1000000 < address + length := by
  rw [← Bool.not_eq_true, rangeOk_iff]
  omega

/-! ## Form library (R11, R18, R19) -/

/-- R11: the slot and the argument checks of LOAD FORM, then its effect. -/
theorem loadForm_of_slot {c : Command} {k : SlotId} (hk : c.target.toNat = k.val) (s : State) :
    loadForm c s =
      if (c.arg 2).toNat < 16 ∨ 1808 < (c.arg 2).toNat ∨ 0x1000000 ≤ hostAddress (c.arg 0) (c.arg 1) ∨
          0x1000000 < hostAddress (c.arg 0) (c.arg 1) + (c.arg 2).toNat then s.reply c .badArgument []
      else if (s.slot k).isLoading = true then s.reply c .slotBusy []
      else if 0 < (s.slot k).useCount then s.reply c .inUse []
      else
        (s.setSlot k ⟨.loading c.tag c.code.reservation, 0⟩).placeRequest
          ⟨.formFetch k, BitVec.ofNat 24 (hostAddress (c.arg 0) (c.arg 1)), (c.arg 2).toNat⟩ := by
  have hargs : (decide ((c.arg 2).toNat < 16) || decide (1808 < (c.arg 2).toNat) ||
      !rangeOk (hostAddress (c.arg 0) (c.arg 1)) (c.arg 2).toNat) =
        decide ((c.arg 2).toNat < 16 ∨ 1808 < (c.arg 2).toNat ∨ 0x1000000 ≤ hostAddress (c.arg 0) (c.arg 1) ∨
          0x1000000 < hostAddress (c.arg 0) (c.arg 1) + (c.arg 2).toNat) := by
    rw [Bool.eq_iff_iff]
    simp only [Bool.or_eq_true, Bool.not_eq_true', decide_eq_true_eq, rangeOk_eq_false_iff]
    omega
  simp only [loadForm, slotOf_of_eq hk, hargs, firstOf, decide_eq_true_eq]
  split_ifs <;> rfl

/-- Settles O12: BAD_SLOT, then the checks and the effect by `loadForm_of_slot`. -/
theorem loadFormTaken : Obligations.LoadFormTaken := by
  intro s tag target low high len rest h
  refine ⟨fun ht => answers_of_act (st := .badSlot) h rfl rfl ?_, fun k hk => ?_⟩
  · simp only [loadForm, slotOf_of_lt ht]
  · have hact := loadForm_of_slot (c := ⟨.loadForm, tag, target, [low, high, len]⟩) hk (s.begun .loadForm rest)
    have hnum : hostAddress low high = low.toNat + 0x10000 * high.toNat := rfl
    simp only [Command.arg, List.getD_cons_zero, List.getD_cons_succ, hnum, State.begun_slot] at hact
    split_ifs at hact ⊢ with hargs hbusy huse
    · exact answers_of_act (st := .badArgument) h rfl rfl hact
    · exact answers_of_act (st := .slotBusy) h rfl rfl hact
    · exact answers_of_act (st := .inUse) h rfl rfl hact
    · exact does_of_act h rfl rfl (hact.trans rfl)

/-- R18: the checks of DISCARD FORM and its effect. -/
theorem discardForm_of_slot {c : Command} {k : SlotId} (hk : c.target.toNat = k.val) (s : State) :
    discardForm c s =
      if (s.slot k).isLoading = true then s.reply c .slotBusy []
      else if 0 < (s.slot k).useCount then s.reply c .inUse []
      else if (s.slot k).isEmpty = true then s.reply c .slotEmpty []
      else (s.setSlot k ⟨.empty, 0⟩).reply c .ok [] := by
  simp only [discardForm, slotOf_of_eq hk, firstOf, decide_eq_true_eq]
  split_ifs <;> rfl

/-- R1: a slot is EMPTY where its state is. -/
theorem Slot.isEmpty_iff (k : Slot) : k.isEmpty = true ↔ k.state = .empty := by
  unfold Slot.isEmpty
  cases k.state <;> simp

/-- Settles O13: BAD_SLOT, then the checks and the effect by `discardForm_of_slot`. -/
theorem discardFormTaken : Obligations.DiscardFormTaken := by
  intro s tag target rest h
  refine ⟨fun ht => answers_of_act (st := .badSlot) h rfl rfl ?_, fun k hk => ?_⟩
  · simp only [discardForm, slotOf_of_lt ht]
  · have hact := discardForm_of_slot (c := ⟨.discardForm, tag, target, []⟩) hk (s.begun .discardForm rest)
    simp only [State.begun_slot, Slot.isEmpty_iff] at hact
    split_ifs at hact ⊢ with hbusy huse hempty
    · exact answers_of_act (st := .slotBusy) h rfl rfl hact
    · exact answers_of_act (st := .inUse) h rfl rfl hact
    · exact answers_of_act (st := .slotEmpty) h rfl rfl hact
    · refine does_of_act h rfl rfl (hact.trans ?_)
      rw [State.reply_eq]
      simp [State.begun, State.setSlot, Status.code]

/-- Settles O14: the figures by the slot's state. -/
theorem queryFormTaken : Obligations.QueryFormTaken := by
  intro s tag target rest h
  refine ⟨fun ht => answers_of_act (st := .badSlot) h rfl rfl ?_, fun k hk => ?_⟩
  · simp only [queryForm, slotOf_of_lt ht]
  · have hk' : slotOf target.toNat = some k := slotOf_of_eq hk
    have hall : Answers .queryForm s rest (result tag 0 (s.slot k).figures) :=
      answers_of_act (st := .ok) h rfl rfl (by simp only [queryForm, hk', State.begun_slot])
    cases hs : (s.slot k).state with
    | empty => simpa only [Slot.figures, Slot.code, hs] using hall
    | loading t r => simpa only [Slot.figures, Slot.code, hs] using hall
    | ready d => simpa only [Slot.figures, Slot.code, hs, FormDef.fieldCount] using hall

/-! ## The end of a fetch (R13, R150, R172) -/

/-- R172: the image that the owner takes is what the last cycles brought. -/
theorem State.bufferImage_fillBuffer (s : State) (bytes : List Byte) :
    (s.fillBuffer bytes).bufferImage bytes.length = bytes := Memory.readBytes_writeBytes bytes _ _

/-- R172: a read transfer whose bytes are all brought ends with its owner's act on them. -/
theorem State.endRead_of_length {s : State} {n : Nat} {bytes : List Byte} (h : bytes.length = n)
    (owner : State → List Byte → State) :
    s.endRead n bytes owner = (owner (s.fillBuffer bytes) bytes).endTransfer := by
  subst h
  simp only [State.endRead, le_refl, if_true, List.take_length, s.bufferImage_fillBuffer]

/-- R13, R17: the end of a LOAD FORM of a LOADING slot. -/
theorem State.endLoad_of_loading {s : State} {k : SlotId} {tag : Byte} {r : Nat} (h : (s.slot k).state = .loading tag r)
    (new : SlotState) (st : Status) (data : List Word) :
    s.endLoad k new st data = (s.setSlot k ⟨new, 0⟩).post r (result tag st.code data) := by
  simp only [State.endLoad, h, resultRecord, record, result, List.length_cons]

/-- Settles O15: the fetch ends with the checks of the bytes themselves, which decide the new state and the result. -/
theorem formFetchEnds : Obligations.FormFetchEnds := by
  intro s k address n bytes tag r ht hs hn
  have heff : effectFormFetchEnd bytes s = ((s.fillBuffer bytes).formFetched k bytes n).endTransfer := by
    simp only [effectFormFetchEnd, ht, State.endRead_of_length hn]
  have hs' : ((s.fillBuffer bytes).slot k).state = .loading tag r := by rw [State.fillBuffer_slot, hs]
  have hframe : ∀ st new data, (((s.fillBuffer bytes).endLoad k new st data).endTransfer).transferBuffer =
      s.transferBuffer.writeBytes 0 bytes := by
    intro st new data
    rw [State.endLoad_of_loading hs']
    rfl
  refine ⟨_, rfl, ?_, fun hok => ?_, fun code index hbad => ?_⟩
  · rw [heff, State.formFetched]
    split <;> simpa only [hframe] using wrote_writeBytes _ _ _
  · rw [heff, State.formFetched, hok]
    simp only [State.endLoad_of_loading hs']
    rfl
  · rw [heff, State.formFetched, hbad]
    simp only [State.endLoad_of_loading hs']
    rfl

/-! ## The profile store (R149, R150) -/

/-- R149: the checks of SET PROFILE and its effect. -/
theorem setProfile_of_profile {c : Command} {p : ProfileId} (hp : c.target.toNat = p.val) (s : State) :
    setProfile c s =
      if 0x1000000 < hostAddress (c.arg 0) (c.arg 1) + 171 then s.reply c .badArgument []
      else if (s.profileSlot p).isLoading = true then s.reply c .profileBusy []
      else if 0 < (s.profileSlot p).userCount then s.reply c .inUse []
      else
        (s.setProfile p { s.profileSlot p with state := .loading c.tag c.code.reservation }).placeRequest
          ⟨.profileFetch p, BitVec.ofNat 24 (hostAddress (c.arg 0) (c.arg 1)), 171⟩ := by
  have hargs : (!rangeOk (hostAddress (c.arg 0) (c.arg 1)) Config.profileImageBytes) =
      decide (0x1000000 < hostAddress (c.arg 0) (c.arg 1) + 171) := by
    rw [Bool.eq_iff_iff]
    simp only [Config.profileImageBytes, Bool.not_eq_true', decide_eq_true_eq, rangeOk_eq_false_iff]
    omega
  simp only [setProfile, profileOf_of_eq hp, hargs, firstOf, decide_eq_true_eq]
  split_ifs <;> rfl

/-- R150: the end of a SET PROFILE of a LOADING profile. -/
theorem State.endSetProfile_of_loading {s : State} {p : ProfileId} {tag : Byte} {r : Nat}
    (h : (s.profileSlot p).state = .loading tag r) (new : Profile) (st : Status) (data : List Word) :
    s.endSetProfile p new st data =
      (s.setProfile p ⟨.ready new, (s.profileSlot p).userCount⟩).post r (result tag st.code data) := by
  simp only [State.endSetProfile, h, resultRecord, record, result, List.length_cons]

/-- Settles O17: the command by `setProfile_of_profile`, the end of the fetch by the checks of its bytes. -/
theorem profilesSet : Obligations.ProfilesSet := by
  refine ⟨fun s tag target low high rest h => ⟨fun ht => ?_, fun p hp => ?_⟩, fun s p address bytes tag r ht hs hn => ?_⟩
  · refine answers_of_act (st := .badArgument) h rfl rfl ?_
    simp only [setProfile, profileOf_of_lt ht]
  · have hact := setProfile_of_profile (c := ⟨.setProfile, tag, target, [low, high]⟩) hp (s.begun .setProfile rest)
    have hnum : hostAddress low high = low.toNat + 0x10000 * high.toNat := rfl
    simp only [Command.arg, List.getD_cons_zero, List.getD_cons_succ, hnum, State.begun_profileSlot] at hact
    split_ifs at hact ⊢ with hargs hbusy huse
    · exact answers_of_act (st := .badArgument) h rfl rfl hact
    · exact answers_of_act (st := .profileBusy) h rfl rfl hact
    · exact answers_of_act (st := .inUse) h rfl rfl hact
    · exact does_of_act h rfl rfl (hact.trans rfl)
  · have heff : effectProfileFetchEnd bytes s = ((s.fillBuffer bytes).profileFetched p bytes).endTransfer := by
      simp only [effectProfileFetchEnd, ht, State.endRead_of_length hn]
    have hs' : ((s.fillBuffer bytes).profileSlot p).state = .loading tag r := by rw [State.fillBuffer_profileSlot, hs]
    have hframe : ∀ st new data, (((s.fillBuffer bytes).endSetProfile p new st data).endTransfer).transferBuffer =
        s.transferBuffer.writeBytes 0 bytes := by
      intro st new data
      rw [State.endSetProfile_of_loading hs']
      rfl
    refine ⟨_, rfl, ?_, fun hok => ?_, fun code index hbad => ?_⟩
    · rw [heff, State.profileFetched]
      split <;> simpa only [hframe] using wrote_writeBytes _ _ _
    · rw [heff, State.profileFetched, hok]
      simp only [State.endSetProfile_of_loading hs']
      rfl
    · rw [heff, State.profileFetched, hbad]
      simp only [State.endSetProfile_of_loading hs']
      rfl

/-! ## Line commands (R148, R153 to R156) -/

/-- A configuration block of 14 bytes whose parity byte, 3, is none of the three codes of R194. -/
def strayParityBlock : List Byte := [0, 7, 3, 1, 0, 0, 0, 1, 0, 1, 0, 0, 0, 0]

/-- Refutes O18: in `Parity.ofByte` the `none` of the last arm is the parity NONE, not the absence of one, so that a parity byte
outside 0 to 2 is read as NONE and the block is not the block of the configuration read from it. -/
theorem not_linesConfigured : ¬ Obligations.LinesConfigured := by
  rintro ⟨-, hblock, -⟩
  have hread : LineConfig.ofBytes strayParityBlock =
      some ⟨.r300, .seven, .none, .one, 0, false, false, 1, .ignore, 1, 0, 0, 0⟩ := by decide +kernel
  obtain ⟨hbytes, -⟩ := hblock strayParityBlock _ (by decide) hread
  exact absurd hbytes (by decide +kernel)

/-- R154: the checks of ENABLE LINE and its effect. -/
theorem enableLine_of_line {c : Command} {l : LineId} (hl : c.target.toNat = l.val) (s : State) :
    enableLine c s =
      if (s.line l).on = true then s.reply c .lineOn []
      else if (s.profileSlot (s.line l).config.profile).isLoading = true then s.reply c .badProfile []
      else ((s.countUser (s.line l).config.profile (· + 1)).modLine l Line.enabled).reply c .ok [] := by
  simp only [enableLine, lineOf_of_eq hl]

/-- R155: the checks of DISABLE LINE and its effect. -/
theorem disableLine_of_line {c : Command} {l : LineId} (hl : c.target.toNat = l.val) (s : State) :
    disableLine c s =
      if (s.line l).on = false then s.reply c .lineOff []
      else if (s.line l).inst ≠ none then s.reply c .hasInstance []
      else
        (((s.countUser (s.line l).config.profile (· - 1)).modLine l Line.disabled).discardDisplay l).reply c .ok [] := by
  simp only [disableLine, lineOf_of_eq hl, State.inst, Bool.not_eq_true', Option.isSome_iff_ne_none]

/-- R118: the display work of a line without an instance is discarded. -/
theorem State.discardDisplay_of_none {s : State} {l : LineId} (h : (s.line l).inst = none) :
    s.discardDisplay l =
      s.setLine l { s.line l with clearPending := false, bellPending := false, knownCursor := none } := by
  have hi : s.modInst l Inst.discardDisplay = s := by simp [State.modInst, State.inst, h]
  rw [State.discardDisplay, hi]
  rfl

/-- Settles O19: the refusals in order, and the line, the profile and the result that the taking leaves. -/
theorem linesSwitched : Obligations.LinesSwitched := by
  refine ⟨fun s tag target rest h => ⟨fun ht => ?_, fun l hl => ?_⟩, fun s tag target rest h => ⟨fun ht => ?_, fun l hl => ?_⟩⟩
  · exact answers_of_act (st := .badLine) h rfl rfl (by simp only [enableLine, lineOf_of_lt ht])
  · have hact := enableLine_of_line (c := ⟨.enableLine, tag, target, []⟩) hl (s.begun .enableLine rest)
    simp only [State.begun_line, State.begun_profileSlot] at hact
    by_cases hon : (s.line l).on = true
    · simp only [hon, if_true] at hact
      rw [if_pos hon]
      exact answers_of_act (st := .lineOn) h rfl rfl hact
    by_cases hbusy : (s.profileSlot (s.line l).config.profile).isLoading = true
    · simp only [hon, hbusy, if_true] at hact
      rw [if_neg hon, if_pos hbusy]
      exact answers_of_act (st := .badProfile) h rfl rfl hact
    · simp only [hon, hbusy, Bool.false_eq_true, if_false] at hact
      rw [if_neg hon, if_neg hbusy]
      refine does_of_act h rfl rfl (hact.trans ?_)
      rw [State.reply_eq]
      simp [State.begun, Status.code, State.countUser, State.modLine, State.setLine, State.setProfile, State.line,
        State.profileSlot, Line.enabled, settledOf]
      rfl
  · exact answers_of_act (st := .badLine) h rfl rfl (by simp only [disableLine, lineOf_of_lt ht])
  · have hact := disableLine_of_line (c := ⟨.disableLine, tag, target, []⟩) hl (s.begun .disableLine rest)
    simp only [State.begun_line] at hact
    by_cases hoff : (s.line l).on = false
    · simp only [hoff, if_true] at hact
      rw [if_pos hoff]
      exact answers_of_act (st := .lineOff) h rfl rfl hact
    by_cases hinst : (s.line l).inst = none
    · simp only [hoff, hinst, ne_eq, not_true_eq_false, Bool.true_eq_false, if_false] at hact
      rw [if_neg hoff, if_neg (not_not.2 hinst)]
      refine does_of_act h rfl rfl (hact.trans ?_)
      rw [State.reply_eq, State.discardDisplay_of_none (by simpa [State.countUser, Line.disabled] using hinst)]
      simp [State.begun, Status.code, State.countUser, State.modLine, State.setLine, State.setProfile, State.line,
        State.profileSlot, Line.disabled]
    · simp only [hoff, hinst, ne_eq, not_false_eq_true, if_true] at hact
      rw [if_neg hoff, if_pos hinst]
      exact answers_of_act (st := .hasInstance) h rfl rfl hact

/-- R195: the byte of the flags of a line. -/
theorem lineFlags_byte (detached : Bool) (flow : Flow) :
    flagByte detached ||| (flagByte (flow == .paused) <<< 1) =
      byte ((if detached = true then 1 else 0) + if flow = .paused then 2 else 0) := by
  cases detached <;> cases flow <;> rfl

/-- R195: settled ready as QUERY LINE reports it. -/
theorem Settled.code_eq (x : Settled) : x.code = match x with | .absent => 0 | .present => 1 | .notMonitored => 2 := by
  cases x <;> rfl

/-- R195: the instance's bytes in the report of a line, item by item. -/
theorem Line.report_eq (x : Line) :
    x.report = x.config.bytes ++
      [if x.on = true then 1 else 0, if x.readyLevel = true then 1 else 0,
        match x.settled with | .absent => 0 | .present => 1 | .notMonitored => 2,
        byte ((if x.detached = true then 1 else 0) + if x.flow = .paused then 2 else 0),
        match x.inst with | some i => i.phase.code | none => 0,
        match x.inst with | some i => lowByte i.serial | none => 0,
        match x.inst with | some i => highByte i.serial | none => 0,
        byte x.typeAhead.length, byte (x.output.length % 256), byte (x.output.length / 256)] := by
  unfold Line.report
  rw [lineFlags_byte, Settled.code_eq, flagByte, flagByte]
  cases x.inst <;> simp only [List.append_assoc, List.cons_append, List.nil_append]

/-- Settles O20: the report of the line, item by item. -/
theorem queryLineTaken : Obligations.QueryLineTaken := by
  intro s tag target rest h
  refine ⟨fun ht => ?_, fun l hl => ?_⟩
  · exact answers_of_act (st := .badLine) h rfl rfl (by simp only [queryLine, lineOf_of_lt ht])
  · have hl' : lineOf target = some l := lineOf_of_eq hl
    have hall : Answers .queryLine s rest (result tag 0 (wordsOfBytes (s.line l).report)) :=
      answers_of_act (st := .ok) h rfl rfl (by simp only [queryLine, hl', State.begun_line])
    rw [Line.report_eq] at hall
    exact hall

/-! ## The buffer list and QUERY PART (R125, R126, R190) -/

/-- Settles O37: the list is emptied in the taking, and nothing else changes but the host port. -/
theorem withdrawBuffersTaken : Obligations.WithdrawBuffersTaken := by
  intro s tag target rest h
  refine does_of_act h rfl rfl ?_
  rw [withdrawBuffers, State.reply_eq]
  simp [State.begun, Status.code]

/-- The largest of some numbers and a first one: it bounds them all and is one of them. -/
theorem foldl_max_spec (ns : List Nat) :
    ∀ m, (m ≤ ns.foldl max m ∧ ∀ n ∈ ns, n ≤ ns.foldl max m) ∧ (ns.foldl max m = m ∨ ns.foldl max m ∈ ns) := by
  induction ns with
  | nil => simp
  | cons a ns ih =>
    intro m
    obtain ⟨⟨hm, hall⟩, hin⟩ := ih (max m a)
    simp only [List.foldl_cons, List.mem_cons, forall_eq_or_imp]
    refine ⟨⟨by omega, by omega, hall⟩, ?_⟩
    rcases hin with h | h
    · rcases Nat.le_total m a with hle | hle
      · exact .inr (.inl (by rw [h, Nat.max_eq_right hle]))
      · exact .inl (by rw [h, Nat.max_eq_left hle])
    · exact .inr (.inr h)

/-- Settles O40: the figures, the largest free entry by `foldl_max_spec`. -/
theorem queryPartTaken : Obligations.QueryPartTaken := by
  intro s tag target rest h
  obtain ⟨⟨-, hall⟩, hin⟩ := foldl_max_spec (s.freeList.map Extent.count) 0
  refine ⟨largestFree s.freeList, fun e he => hall _ (List.mem_map_of_mem he), hin.imp id List.mem_map.1, ?_⟩
  have hcode : word s.partState.code = match s.partState with | .starting => 0 | .ready => 1 | .fault => 2 := by
    cases s.partState <;> rfl
  have hall : Answers .queryPart s rest (result tag 0 s.figures) := answers_of_act (st := .ok) h rfl rfl rfl
  rw [State.figures, hcode] at hall
  exact hall

/-- R129: what an offer does, as `Offers` says it. -/
theorem State.offer_offers (s : State) (d : Descriptor) (join : List Descriptor → List Descriptor) :
    Offers s d (join s.bufferList) (s.offer d join) := by
  constructor
  · intro m hm
    simp only [State.offer, State.takerOf, hm, State.startDelivery, State.modInst_eq]
    rfl
  · intro hm
    simp only [State.offer, State.takerOf, hm]

/-- R125: the checks of POST BUFFER and its effect. -/
theorem postBuffer_eq (c : Command) (s : State) {d : Descriptor}
    (hd : d = ⟨BitVec.ofNat 24 (hostAddress (c.arg 0) (c.arg 1)), c.arg 2⟩) :
    postBuffer c s =
      if 16 ≤ s.bufferList.length then s.reply c .listFull []
      else if (c.arg 2).toNat < 16 then s.reply c .badBuffer []
      else if 0x1000000 < hostAddress (c.arg 0) (c.arg 1) + (c.arg 2).toNat then s.reply c .badArgument []
      else
        (s.offer d fun ds => ds ++ [d]).reply c .ok
          [wordOf (byte (s.offer d fun ds => ds ++ [d]).bufferList.length) (numberOr255 ((s.takerOf d).map Fin.val))] := by
  subst hd
  have hroom : Config.bufferRoom = 16 := rfl
  by_cases hlen : (c.arg 2).toNat < 16
  · simp only [postBuffer, firstOf, hroom, decide_eq_true_eq, hlen, if_true]
    split_ifs <;> rfl
  · have hargs : (!rangeOk (hostAddress (c.arg 0) (c.arg 1)) (c.arg 2).toNat) =
        decide (0x1000000 < hostAddress (c.arg 0) (c.arg 1) + (c.arg 2).toNat) := by
      rw [Bool.eq_iff_iff]
      simp only [Bool.not_eq_true', decide_eq_true_eq, rangeOk_eq_false_iff]
      omega
    simp only [postBuffer, firstOf, hroom, decide_eq_true_eq, hlen, hargs, if_false]
    split_ifs <;> rfl

/-- An offer made from the state of a taken command is the offer made before it, with the host port as it stands. -/
theorem State.begun_offer (s : State) (code : CommandCode) (rest : List Word) (d : Descriptor)
    (join : List Descriptor → List Descriptor) :
    (s.begun code rest).offer d join = (s.offer d join).begun code rest := by
  have htaker : (s.begun code rest).takerOf d = s.takerOf d := rfl
  simp only [State.offer, htaker]
  cases s.takerOf d with
  | none => rfl
  | some m =>
    simp only [State.startDelivery, State.modInst_eq]
    rfl

/-- An offer leaves the words of the answer queue and those reserved. -/
theorem State.offer_answers (s : State) (d : Descriptor) (join : List Descriptor → List Descriptor) :
    (s.offer d join).answerQueue = s.answerQueue ∧ (s.offer d join).reserved = s.reserved := by
  unfold State.offer
  split
  · simp
  · exact ⟨rfl, rfl⟩

/-- Settles O36: the checks by `postBuffer_eq`, the listing by `State.offer_offers`. -/
theorem postBufferTaken : Obligations.PostBufferTaken := by
  intro s tag target low high len rest h
  let d : Descriptor := ⟨BitVec.ofNat 24 (low.toNat + 0x10000 * high.toNat), len⟩
  have hact := postBuffer_eq ⟨.postBuffer, tag, target, [low, high, len]⟩ (s.begun .postBuffer rest) (d := d) rfl
  have hnum : hostAddress low high = low.toNat + 0x10000 * high.toNat := rfl
  simp only [Command.arg, List.getD_cons_zero, List.getD_cons_succ, hnum, State.begun_bufferList, State.begun_offer] at hact
  split_ifs at hact ⊢ with hfull hshort hargs
  · exact answers_of_act (st := .listFull) h rfl rfl hact
  · exact answers_of_act (st := .badBuffer) h rfl rfl hact
  · exact answers_of_act (st := .badArgument) h rfl rfl hact
  · refine ⟨s.offer d fun ds => ds ++ [d], s.offer_offers d _, does_of_act h rfl rfl (hact.trans ?_)⟩
    obtain ⟨hanswer, -⟩ := s.offer_answers d fun ds => ds ++ [d]
    have htaker : (s.begun .postBuffer rest).takerOf d =
        s.waiting.find? fun m => decide ((s.instOf m).imageSize ≤ len.toNat) := rfl
    rw [State.reply_eq, htaker]
    cases s.waiting.find? fun m => decide ((s.instOf m).imageSize ≤ len.toNat) <;>
      simp [State.begun, Status.code, numberOr255, hanswer]

end Sys2Proof.Machine
end

section
/-! PROOFS. The happenings of the serial lines (chapter 9), the timers of a line (R102, R133, R161), and the invariants at reset. -/

namespace Sys2Proof.Machine

open Sys2Proof.Safety

-- The proofs of the whole text share one memory limit, and each thread takes its part of it.
set_option Elab.async false

/-! ## Each operation on a line, as the record it sets -/

/-- R109: a bell, as the line it leaves. -/
theorem State.bell_eq (s : State) (l : LineId) :
    s.bell l = s.setLine l { s.line l with bellPending := (s.line l).bellPending || !(s.line l).detached } := by
  have key : ∀ x : Line, (if x.detached = true then x else { x with bellPending := true }) =
      { x with bellPending := x.bellPending || !x.detached } := by
    intro x
    split_ifs with h
    · have : (x.bellPending || !x.detached) = x.bellPending := by simp [h]
      rw [this]
    · simp only [h, Bool.not_false, Bool.or_true]
  exact congrArg (s.setLine l) (key _)

/-- R166: an event flag, as the line it leaves. -/
theorem State.setFlag_eq (s : State) (l : LineId) (f : EventFlags → EventFlags) :
    s.setFlag l f = s.setLine l (flagged (s.line l) f) := rfl

/-- R42: a clear queued, as the line it leaves. -/
theorem State.queueClear_eq (s : State) (l : LineId) (wanted : Bool) :
    s.queueClear l wanted =
      s.setLine l { s.line l with
        clearPending := (s.line l).clearPending || wanted && (s.line l).on && !(s.line l).detached } := by
  have key : ∀ x : Line, (if (wanted && x.on && !x.detached) = true then { x with clearPending := true } else x) =
      { x with clearPending := x.clearPending || wanted && x.on && !x.detached } := by
    intro x
    split_ifs with h
    · simp only [h, Bool.or_true]
    · simp only [Bool.eq_false_iff.2 h, Bool.or_false]
  exact congrArg (s.setLine l) (key _)

/-- R43, R115, R118: the display work discarded, as the line it leaves. -/
theorem State.discardDisplay_eq (s : State) (l : LineId) :
    s.discardDisplay l =
      s.setLine l { s.line l with
        clearPending := false
        bellPending := false
        knownCursor := none
        inst := (s.line l).inst.map Inst.discardDisplay } := by
  simp [State.discardDisplay, State.modInst_eq, State.modLine]

/-- R104: a full repaint, as the line it leaves. -/
theorem State.fullRepaint_eq {s : State} {l : LineId} {i : Inst} (h : (s.line l).inst = some i) :
    s.fullRepaint l =
      s.setLine l { s.line l with
        clearPending := (s.line l).clearPending || !(s.line l).detached
        inst := some (repainted i) } := by
  simp only [State.fullRepaint, State.modInst_eq, State.modLine, h, State.setLine_line_self, State.setLine_setLine,
    Option.map_some]
  congr 1
  cases (s.line l).detached <;> simp [repainted, Inst.markAll]

/-- R104, R117: a REFRESH, as the line it leaves. -/
theorem State.refresh_eq {s : State} {l : LineId} {i : Inst} (h : (s.line l).inst = some i) :
    s.refresh l = s.setLine l (repaintedLine (s.line l) i) := by
  have hphase : (repainted i).phase = i.phase := rfl
  simp only [State.refresh, State.fullRepaint_eq h, State.modInst_eq, State.setLine_line_self, State.setLine_setLine,
    Option.map_some, repaintedLine, hphase]
  congr 3
  split_ifs <;> rfl

/-! ## What follows on a line whose Key Interpreter was cleared -/

/-- What follows on a line leaves the row of R30. -/
theorem editable_of_becomes {x y : Line} (h : Becomes x y) (c : LineClaim) : Editable { x with claim := c } = Editable y := by
  rw [h.line]
  unfold Editable
  cases y.inst <;> rfl

/-- R68: what follows on a line whose Key Interpreter was cleared is what follows on it with the gap timer and the key claim as they
stood, since nothing is pending and no byte is taken there. -/
theorem becomes_of_clearKeys {x y : Line} (h : Becomes x y.clearKeys) (hp : y.pendingKeys = []) (hd : y.releaseDue = false)
    (he : Editable y = false) : Becomes x y := by
  have he' : Editable y.clearKeys = false := he
  have hgap : gapAfter y.clearKeys = gapAfter y := by simp [gapAfter, Line.clearKeys, hp]
  have hinact : ∀ i, inactivityAfter y.clearKeys i = inactivityAfter y i := fun i => by simp [inactivityAfter, he, he']
  refine ⟨?_, fun n _ h' => ?_, fun _ hf => ?_, fun _ hf => ?_⟩
  · have := h.line
    rw [hgap] at this
    simp only [hinact] at this
    rw [this]
    simp [Line.clearKeys, ← hp, ← hd]
  · rw [he] at h'; cases h'
  · exact h.eventClaim (fun e => by rw [he'] at e; cases e) hf
  · rcases h.otherClaim (fun e => by rw [he'] at e; cases e) hf with h' | ⟨h', -⟩
    · exact .inl h'
    · rw [he'] at h'; cases h'

/-- A line on which no byte is taken in EDITING makes no key claim. -/
theorem claimMade_of_not_editable {v : State} {l : LineId} {c : LineClaim} (h : Editable (v.line l) = false) :
    ClaimMade v l c := fun he => by rw [h] at he; cases he

/-- A row that clears the Key Interpreter of its line and settles it leaves what `Leaves` says. -/
theorem leaves_of_clearKeys {row : Instr} {s u v : State} {l : LineId} {y : Line} (hr : s.effect row = v.settle l)
    (hl : v.line l = y.clearKeys) (hp : y.pendingKeys = []) (hd : y.releaseDue = false) (he : Editable y = false)
    (hu : ∀ x, v.setLine l x = u.setLine l x) : Leaves row s u l y := by
  obtain ⟨x, e, hb, -⟩ := v.settle_becomes l
  rw [hl] at hb
  have hb' := becomes_of_clearKeys hb hp hd he
  refine ⟨x, gives_effect (by rw [hr, e, hu]), hb', claimMade_of_not_editable ?_⟩
  rw [State.setLine_line_self, editable_of_becomes hb', he]

/-! ## Receiving (R157 to R160) -/

/-- R157: a count that rises. -/
theorem countUp_eq (c : Byte) : countUp c = raised c := by
  unfold countUp raised
  by_cases h : c = 255
  · subst h; rfl
  · rw [if_neg h, if_pos]
    have : c.toNat ≠ 255 := fun e => h (BitVec.eq_of_toNat_eq e)
    have := c.isLt
    omega

/-- R30, R158, R159: a byte or a break marker meets the line. -/
theorem Line.deliver_eq (x : Line) (e : Entry) : x.deliver e = meets x e := by
  simp only [Line.deliver, meets, Option.isNone_iff_eq_none, Line.placeEntry, Config.typeAheadRoom, countUp_eq]
  rfl

/-- R157, step 3: the parity bit disagrees. -/
theorem parityAgrees_eq_false_iff (x : Line) (c : RxChar) :
    parityAgrees x.config.parity (receivedByte x.config.dataBits c) c.parityBit = false ↔ parityBad x c := by
  have hbyte : receivedByte x.config.dataBits c = dataByte x c := rfl
  have hones : ∀ b, onesOf b = ((List.range 8).filter fun k => b.getLsbD k).length := fun b => rfl
  have hbit : c.parityBit.toNat = if c.parityBit then 1 else 0 := by cases c.parityBit <;> rfl
  simp only [parityBad, hbyte, ← hones, ← hbit]
  cases hp : x.config.parity <;> simp [parityAgrees]

/-- R160, R161: XOFF. -/
theorem Line.flowByte_xoff (x : Line) :
    x.flowByte true =
      if x.flow = .paused then x
      else { x with
        flow := .paused
        stallTimer := if x.config.stallCeiling = 0 then .stopped else .running (100 * x.config.stallCeiling) } := by
  unfold Line.flowByte
  cases h : x.flow <;> simp [Timer.start, Config.ticksPerSecond, Nat.mul_comm]

/-- R160, R161: XON. -/
theorem Line.flowByte_xon (x : Line) :
    x.flowByte false = if x.flow = .flowing then x else { x with flow := .flowing, stallTimer := .stopped } := by
  unfold Line.flowByte
  cases h : x.flow <;> simp

/-- R157: the five steps, as `Received` says them. -/
theorem Line.receive_received (x : Line) (p : Profile) (c : RxChar) : Received x p c (x.receive p c) := by
  have hbyte : receivedByte x.config.dataBits c = dataByte x c := rfl
  have hparity := parityAgrees_eq_false_iff x c
  rw [hbyte] at hparity
  refine ⟨fun hb hs => ?_, fun hb hs => ?_, fun hs hp => ?_, fun hs hp hf hx => ?_, fun hs hp hf hx hn => ?_,
    fun hs hp hf => ?_⟩
  · simp [Line.receive, hbyte, hb, hs, Line.deliver_eq]
  · rw [Line.receive, if_neg (by rw [hbyte]; exact fun e => hb e.1), if_pos (by simp [hs]), countUp_eq]
    rfl
  · simp [Line.receive, hbyte, hs, hparity.2 hp, Line.receiveFault, countUp_eq]
  · rw [← hparity, Bool.not_eq_false] at hp
    rw [Line.receive, if_neg (by simp [hs]), if_neg (by simp [hs]), if_neg (by simp [hbyte, hp]),
      if_pos ⟨hf, hbyte.trans hx⟩, Line.flowByte_xoff]
  · rw [← hparity, Bool.not_eq_false] at hp
    rw [Line.receive, if_neg (by simp [hs]), if_neg (by simp [hs]), if_neg (by simp [hbyte, hp]),
      if_neg (by simp [hbyte, hx]), if_pos ⟨hf, hbyte.trans hn⟩, Line.flowByte_xon]
  · rw [← hparity, Bool.not_eq_false] at hp
    rcases hf with hf | ⟨hx, hn⟩
    · simp [Line.receive, hbyte, hs, hp, hf, Line.deliver_eq]
    · simp [Line.receive, hbyte, hs, hp, hx, hn, Line.deliver_eq]

/-- Settles O45: the five steps by `Line.receive_received`. -/
theorem characterTaken : Obligations.CharacterTaken := by
  intro s l c
  refine ⟨fun hon hidle hbreak => ⟨_, Line.receive_received _ _ c, ?_⟩, fun h => ?_⟩
  · have hreceives : (s.line l).receives = true := by simp [Line.receives, hon, hidle, hbreak]
    refine leaves_of (v := s.modLine l fun x => x.receive (s.lineProfile l) c) (exec_eq_prompted s _)
      (if_pos hreceives) (State.modLine_line_self _ _ _) fun x => State.setLine_setLine _ _ _ _
  · have hreceives : ¬ (s.line l).receives = true := by
      rcases h with h | h | h <;> simp [Line.receives, h]
    have heff : s.effect (.characterReceived l c) = s := if_neg hreceives
    rw [exec_eq_prompted, heff, State.prompted_self rfl]

/-! ## The receiver and the transmitter (R154, R158, R162) -/

/-- Settles O46: each row is a change of its line alone. -/
theorem receiverAndTransmitter : Obligations.ReceiverAndTransmitter := by
  intro s l
  refine ⟨rfl, ?_, fun b rest ho hon hf => ?_, fun h => ?_⟩
  · have key : ∀ x : Line, (if x.on = true then { x with idleSeen := true } else x) =
        { x with idleSeen := x.idleSeen || x.on } := by
      intro x
      split_ifs with h
      · simp only [h, Bool.or_true]
      · have : (x.idleSeen || x.on) = x.idleSeen := by simp [h]
        rw [this]
    exact congrArg (fun x => Host.Outcome.next (s.setLine l x)) (key _)
  · have hflows : ((s.line l).on && ((s.line l).flow == .flowing || !(s.line l).config.flowControl)) = true := by
      rcases hf with hf | hf <;> simp [hon, hf]
    show Host.Outcome.next (s.setLine l (s.line l).transmit) = _
    simp only [Line.transmit, ho, hflows, if_true]
    rfl
  · have hidle : (s.line l).transmit = s.line l := by
      unfold Line.transmit
      split
      · rename_i b rest ho
        rcases h with h | h | ⟨h, hc⟩
        · rw [h] at ho; cases ho
        · simp [h]
        · simp [h, hc]
      · rfl
    show Host.Outcome.next (s.setLine l (s.line l).transmit) = _
    rw [hidle, State.setLine_line]

/-! ## Ready monitoring (R163 to R165) -/

/-- R163: the settle timer after a change of the ready input. -/
theorem Line.readyInput_eq (x : Line) (present : Bool) :
    (if x.readyLevel = present then x else Line.readyChanged { x with readyLevel := present }) =
      { x with
        readyLevel := present
        settleTimer :=
          if x.on = false ∨ x.config.readyMonitoring = false ∨ x.readyLevel = present then x.settleTimer
          else if x.settled = (if present = true then .present else .absent) then .stopped
          else
            match x.settleTimer with
            | .running n => .running n
            | _ => .running x.config.settle } := by
  by_cases hp : x.readyLevel = present
  · rw [if_pos hp, if_pos (.inr (.inr hp)), ← hp]
  rw [if_neg hp, Line.readyChanged]
  by_cases hmonitored : x.on = true ∧ x.config.readyMonitoring = true
  · obtain ⟨hon, hm⟩ := hmonitored
    have hmonitors : (x.on && x.config.readyMonitoring) = true := by simp [hon, hm]
    have hacts : ¬ (x.on = false ∨ x.config.readyMonitoring = false ∨ x.readyLevel = present) := by simp [hon, hm, hp]
    rw [if_pos hmonitors, if_neg hacts]
    have hsettled : settledOf present = x.settled ↔ x.settled = (if present = true then .present else .absent) := eq_comm
    by_cases hs : x.settled = (if present = true then .present else .absent)
    · rw [if_pos hs, if_pos (hsettled.2 hs)]
    · rw [if_neg hs, if_neg (mt hsettled.1 hs)]
      cases ht : x.settleTimer <;> simp only [Timer.isRunning, if_true, if_false, Bool.false_eq_true, ← ht]
  · rw [if_neg (by simpa using hmonitored), if_pos (by by_cases hon : x.on = true <;> simp_all)]

/-- R163: what the loss of ready leaves of a line, its Key Interpreter as it stood. -/
def detachedLine (x : Line) : Line :=
  { x with
    settled := .absent
    settleTimer := .stopped
    detached := true
    typeAhead := []
    output := []
    pendingKeys := []
    releaseDue := false
    flow := .flowing
    stallTimer := .stopped
    flags := { x.flags with readyChanged := true }
    clearPending := false
    bellPending := false
    knownCursor := none
    inst := (flushedLine x).inst }

/-- On a detached line no byte is taken. -/
theorem editable_of_detached {y : Line} (h : y.detached = true) : Editable y = false := by
  unfold Editable
  cases y.inst <;> simp [h]

/-- R165: what the return of ready leaves of a line, its instance apart. -/
theorem Line.attach_eq (x : Line) :
    x.attach =
      { x with
        settled := .present
        settleTimer := .stopped
        detached := false
        flags := { x.flags with readyChanged := true } } := rfl

/-- R163: the settle timer of a line runs out. -/
theorem effect_settleTimerExpiry {s : State} {l : LineId} {n : Nat} (h : (s.line l).settleTimer = .running n) :
    s.effect (.settleTimerExpiry l) = s.settleExpired l := by
  show (if (s.line l).settleTimer.isRunning = true then s.settleExpired l else s) = _
  rw [h]
  rfl

/-- Settles O47: the ready input by `Line.readyInput_eq`, the end of the settle timer by its two branches. -/
theorem readyMonitored : Obligations.ReadyMonitored := by
  refine fun s l => ⟨fun present => ?_, fun n hn => ⟨fun hlevel => ?_, fun hlevel => ⟨fun i hi hp => ?_, fun hp => ?_⟩⟩⟩
  · exact congrArg (fun x => Host.Outcome.next (s.setLine l x)) (Line.readyInput_eq _ _)
  · have heff : s.effect (.settleTimerExpiry l) = ((s.modLine l Line.detach).discardDisplay l).settle l := by
      rw [effect_settleTimerExpiry hn, State.settleExpired, if_neg (by simp [hlevel])]
    refine leaves_of_clearKeys (y := detachedLine (s.line l)) heff ?_ rfl rfl (editable_of_detached rfl) ?_
    · rw [State.discardDisplay_eq, State.setLine_line_self, State.modLine_line_self]
      rfl
    · intro x
      simp only [State.discardDisplay_eq, State.modLine, State.setLine_setLine]
  · have heff : s.effect (.settleTimerExpiry l) = ((s.modLine l Line.attach).refresh l).settle l := by
      rw [effect_settleTimerExpiry hn, State.settleExpired, if_pos hlevel, State.attachInst]
      simp [State.inst, Line.attach, hi, hp]
    have hi' : ((s.modLine l Line.attach).line l).inst = some i := by simpa [Line.attach] using hi
    refine leaves_of (exec_eq_prompted s _) heff ?_ ?_
    · rw [State.refresh_eq hi', State.setLine_line_self, State.modLine_line_self]
      rfl
    · intro x
      rw [State.refresh_eq hi', State.setLine_setLine, State.modLine, State.setLine_setLine]
  · have heff : s.effect (.settleTimerExpiry l) = (s.modLine l Line.attach).settle l := by
      rw [effect_settleTimerExpiry hn, State.settleExpired, if_pos hlevel, State.attachInst]
      cases hi : (s.line l).inst with
      | none => simp [State.inst, Line.attach, hi]
      | some i => simp [State.inst, Line.attach, hi, hp i hi]
    exact leaves_of (exec_eq_prompted s _) heff (State.modLine_line_self _ _ _) fun x => State.setLine_setLine _ _ _ _

/-! ## The timers of a line (R102, R133, R161) -/

/-- A row that sets the line and settles it leaves what `Leaves` says. -/
theorem leaves_of_setLine {row : Instr} {s u : State} {l : LineId} {y z : Line} (hr : s.effect row = (u.setLine l z).settle l)
    (hz : z = y) : Leaves row s u l y :=
  leaves_of (exec_eq_prompted s row) hr (by rw [State.setLine_line_self, hz]) fun x => State.setLine_setLine _ _ _ _

/-- Settles O48: each row by its branch for a running timer. -/
theorem lineTimersRunOut : Obligations.LineTimersRunOut := by
  refine fun s l => ⟨fun n hn => ?_, fun i hi => ⟨fun n hn => ?_, fun n hn hp => ?_⟩⟩
  · have heff : s.effect (.stallTimerExpiry l) =
        ((s.modLine l fun x => { x with stallTimer := .spent }).setFlag l fun f => { f with stalled := true }).settle l := by
      show (if (s.line l).stallTimer.isRunning = true then _ else s) = _
      rw [hn]
      rfl
    refine leaves_of_setLine (heff.trans ?_) rfl
    rw [State.setFlag_eq, State.modLine_line_self, State.modLine, State.setLine_setLine]
  · have hinst : s.instOf l = i := by simp [State.instOf, State.inst, hi]
    have heff : s.effect (.inactivityTimerExpiry l) =
        ((s.modInst l fun i => { i with inactivity := .spent }).setFlag l fun f => { f with inactive := true }).settle l := by
      show (if (s.instOf l).inactivity.isRunning = true then _ else s) = _
      rw [hinst, hn]
      rfl
    refine leaves_of_setLine (heff.trans ?_) rfl
    rw [State.modInst_eq, State.setFlag_eq, State.setLine_line_self, State.setLine_setLine, hi]
    rfl
  · have hinst : s.instOf l = i := by simp [State.instOf, State.inst, hi]
    have heff : s.effect (.verdictTimerExpiry l) = s.verdictExpired l := by
      show (if (s.instOf l).verdictTimer.isRunning = true ∧ (s.instOf l).phase = .awaitVerdict then _ else s) = _
      rw [hinst, hn, hp]
      rfl
    simp only [State.verdictExpired, State.modInst_eq, State.bell_eq, State.setFlag_eq, State.modLine,
      State.setLine_line_self, State.setLine_setLine, hinst, hi, Option.map_some] at heff
    refine leaves_of_setLine heff ?_
    unfold flagged lineWith
    split_ifs <;> rfl

/-! ## The LINE_EVENT record (R167) -/

/-- R195: the byte of a set of event flags. -/
theorem EventFlags.toByte_eq (f : EventFlags) :
    f.toByte =
      byte (f.readyChanged.toNat + 2 * f.inactive.toNat + 4 * f.stalled.toNat + 8 * f.verdictTimeout.toNat +
        16 * f.receiveFault.toNat + 32 * f.idleKey.toNat) := by
  obtain ⟨a, b, c, d, e, g⟩ := f
  revert a b c d e g
  decide

/-- R167, R195: the record of a line, item by item. -/
theorem lineEventRecord_eq (l : LineId) (x : Line) :
    lineEventRecord l x =
      [0x0704,
        wordOf (byte l.val)
          (byte
            (x.flags.readyChanged.toNat + 2 * x.flags.inactive.toNat + 4 * x.flags.stalled.toNat +
              8 * (x.flags.verdictTimeout && !x.flags.receiveFault).toNat + 16 * x.flags.receiveFault.toNat +
              32 * x.flags.idleKey.toNat)),
        wordOf (match x.settled with | .absent => 0 | .present => 1 | .notMonitored => 2)
          (if x.flags.receiveFault = true then x.framing else 0),
        if x.flags.receiveFault = true then wordOf x.parityCount x.overrun
        else if x.flags.verdictTimeout = true then x.timeoutSerial.getD 0
        else 0] := by
  have hhead : (0x0704 : Word) = wordOf (byte 4) 0x07 := by decide
  rw [lineEventRecord, EventFlags.toByte_eq, Settled.code_eq, hhead]
  split_ifs <;> rfl

/-- Settles O49: the record by `lineEventRecord_eq`; the flags and counts by what was reported. -/
theorem lineEventPosted : Obligations.LineEventPosted := by
  intro s l hg hc
  have heff : s.effect (.lineEvent l) =
      (((s.grant (.line l) 4).post 4 (lineEventRecord l (s.line l))).modLine l Line.afterEvent).settle l := by
    show (match s.nextGrant, (s.line l).claim with | some (.line l', words), .event => _ | _, _ => s) = _
    rw [hg, hc]
    exact if_pos rfl
  obtain ⟨x, e, hb, -⟩ :=
    (((s.grant (.line l) 4).post 4 (lineEventRecord l (s.line l))).modLine l Line.afterEvent).settle_becomes l
  refine ⟨x, ?_, gives_effect ?_⟩
  · rw [State.modLine_line_self] at hb
    convert hb using 1
    show _ = (s.line l).afterEvent
    unfold Line.afterEvent
    cases hr : (s.line l).flags.receiveFault <;> cases hv : (s.line l).flags.verdictTimeout <;>
      simp [EventFlags.remaining, hr, hv]
  · rw [heff, e, State.modLine, State.setLine_setLine, lineEventRecord_eq]
    simp only [State.grant, State.post, State.setLine, Nat.add_sub_cancel] <;> rfl

/-! ## The invariants at reset -/

/-- R20: after a reset every slot is EMPTY. -/
theorem State.reset_slot (k : SlotId) : State.reset.slot k = ⟨.empty, 0⟩ := by simp [State.slot, State.reset]

/-- R139: after a reset every profile is READY with the defaults. -/
theorem State.reset_profileSlot (p : ProfileId) : State.reset.profileSlot p = ⟨.ready Profile.default, 0⟩ := by
  simp [State.profileSlot, State.reset]

/-- R45: after a reset no line has an instance. -/
theorem State.reset_inst (l : LineId) : State.reset.inst l = none := by rw [State.inst, State.reset_line]; rfl

/-- After a reset no owner asks for the bus. -/
theorem not_asked_reset (o : Owner) : ¬ Asked State.reset o := by simp [Asked, State.reset]

/-- Nothing is reserved after a reset. -/
theorem owed_reset : owed State.reset = 0 := by
  simp [owed, State.reset_slot, State.reset_profileSlot, State.reset_inst]

/-- The books are in order after a reset. -/
theorem booked_reset : Booked State.reset where
  waiting := ⟨List.nodup_nil, fun l => by
    have hnone : State.reset.waiting = [] := rfl
    simp [hnone, State.reset_inst]⟩
  once := List.nodup_nil
  forms := fun k => by simp [not_asked_reset, State.reset_slot]
  profiles := fun p => by simp [not_asked_reset, State.reset_profileSlot]
  presets := fun l => by simp [not_asked_reset, State.reset_inst]
  deliveries := fun l => by simp [not_asked_reset, State.reset_inst]
  loading := ⟨fun k tag r h => by simp [State.reset_slot] at h, fun p tag r h => by simp [State.reset_profileSlot] at h⟩
  instances := fun l i h => by simp [State.reset_inst] at h
  closing := fun l i h => by simp [State.reset_inst] at h
  reserved := by rw [owed_reset]; rfl
  room := by decide

/-- Value memory is one free entry after a reset. -/
theorem divided_reset : Divided State.reset := by
  refine ⟨?_, fun l i h => by simp [State.reset_inst] at h, fun g => ?_⟩
  · show 0 < Config.granules
    decide
  · have hnone : (allLines.filterMap fun l => (State.reset.inst l).map Inst.extent) = [] := by
      simp [State.reset_inst]
    have hlist : State.reset.freeList = [⟨0, 1536⟩] := rfl
    rw [hnone, hlist, List.append_nil]
    by_cases hg : g < 1536 <;> simp [hg]

/-- Settles O60: each invariant of the reset state. -/
theorem invariantsAtReset : Obligations.InvariantsAtReset := by
  refine ⟨⟨rfl, rfl, rfl⟩, ⟨by decide, by decide, fun l => ?_⟩, fun _ => ⟨rfl, rfl, rfl, rfl, rfl, fun l => ⟨_, _, State.reset_line l⟩⟩,
    ⟨fun k => ?_, fun p => ?_⟩, ⟨fun k d h => ?_, fun l i h => ?_⟩, divided_reset, booked_reset, fun l i n h => ?_⟩
  · rw [State.reset_line]
    exact ⟨by decide, by decide⟩
  · simp [State.reset_slot, State.reset_inst]
  · simp [State.reset_profileSlot, State.reset_line, Line.reset]
  · simp [State.reset_slot] at h
  · rw [State.reset_inst] at h; cases h
  · rw [State.reset_inst] at h; cases h

end Sys2Proof.Machine
end

section
/-! PROOFS. The instance commands: the checks of R28, opening, retirement and the closing of an instance (chapter 2). -/

namespace Sys2Proof.Machine

open Sys2Proof.Safety

-- The proofs of the whole text share one memory limit, and each thread takes its part of it.
set_option Elab.async false

/-! ## The instance of a line -/

/-- The instance of a line that has one. -/
theorem State.instOf_of_inst {s : State} {l : LineId} {i : Inst} (h : (s.line l).inst = some i) : s.instOf l = i := by
  simp [State.instOf, State.inst, h]

/-- The form of a line that has an instance. -/
theorem State.formOf_of_inst {s : State} {l : LineId} {i : Inst} (h : (s.line l).inst = some i) : s.formOf l = s.form i := by
  rw [State.formOf, State.instOf_of_inst h]

/-! ## What a command row does on a line -/

/-- What a command row does with the offered command on a line that it sets and settles. -/
theorem doesOn_of_act {s u v : State} {code : CommandCode} {tag target : Byte} {args rest : List Word} {row : Instr}
    {l : LineId} {y : Line} (h : Offered s code tag target args rest) {accepts : Command → Bool}
    {act : Command → State → State} (hr : s.effect row = s.takeCommand accepts act)
    (ha : accepts ⟨code, tag, target, args⟩ = true)
    (hv : act ⟨code, tag, target, args⟩ (s.begun code rest) = (v.setLine l y).settle l)
    (hu : v = { u with pointer := .commandUnit, commandQueue := rest, assembler := .free }) : DoesOn row s rest u l y := by
  subst hu
  exact doesOn_of h (exec_eq_prompted s row) hr ha hv (State.setLine_line_self _ _ _) fun x => State.setLine_setLine _ _ _ _

/-- The same for a line whose Key Interpreter is cleared. -/
theorem doesOn_of_clearKeys {s u v : State} {code : CommandCode} {tag target : Byte} {args rest : List Word} {row : Instr}
    {l : LineId} {y : Line} (h : Offered s code tag target args rest) {accepts : Command → Bool}
    {act : Command → State → State} (hr : s.effect row = s.takeCommand accepts act)
    (ha : accepts ⟨code, tag, target, args⟩ = true)
    (hv : act ⟨code, tag, target, args⟩ (s.begun code rest) = (v.setLine l y.clearKeys).settle l)
    (hp : y.pendingKeys = []) (hd : y.releaseDue = false) (he : Editable y = false)
    (hu : v = { u with pointer := .commandUnit, commandQueue := rest, assembler := .free }) : DoesOn row s rest u l y := by
  obtain ⟨t, hg, htook, hb, -⟩ := doesOn_of_act h hr ha hv hu
  have hb' := becomes_of_clearKeys hb hp hd he
  refine ⟨t, hg, htook, hb', claimMade_of_not_editable ?_⟩
  rw [State.setLine_line_self, editable_of_becomes hb', he]

/-- The result of a command, as the statements write it. -/
theorem resultRecord_eq (tag : Byte) (st : Status) (data : List Word) : resultRecord tag st data = result tag st.code data := by
  simp only [resultRecord, record, result, List.length_cons]

/-! ## The checks of a command that names an instance (R28) -/

/-- R28: a command for a line without an instance is refused. -/
theorem State.instCheck_of_none {s : State} {c : Command} {l : LineId} (hl : c.target.toNat = l.val)
    (hi : (s.line l).inst = none) : s.instCheck c = .error .noInstance := by
  simp only [State.instCheck, lineOf_of_eq hl, State.inst, hi]

/-- R28: a command that carries the serial of another instance is refused. -/
theorem State.instCheck_of_stale {s : State} {c : Command} {l : LineId} {i : Inst} (hl : c.target.toNat = l.val)
    (hi : (s.line l).inst = some i) (hs : c.serial ≠ 0 ∧ c.serial ≠ i.serial) : s.instCheck c = .error .stale := by
  simp only [State.instCheck, lineOf_of_eq hl, State.inst, hi, if_pos hs]

/-- R28: a command that names its instance is refused where its phase check fails. -/
theorem State.instCheck_of_phase {s : State} {c : Command} {l : LineId} {i : Inst} {st : Status} (hl : c.target.toNat = l.val)
    (hi : (s.line l).inst = some i) (hs : ¬ (c.serial ≠ 0 ∧ c.serial ≠ i.serial)) (hp : phaseCheck c.code i = some st) :
    s.instCheck c = .error st := by
  simp only [State.instCheck, lineOf_of_eq hl, State.inst, hi, if_neg hs, hp]

/-- R28: a command that names its instance passes where its phase check does. -/
theorem State.instCheck_of_ok {s : State} {c : Command} {l : LineId} {i : Inst} (hl : c.target.toNat = l.val)
    (hi : (s.line l).inst = some i) (hs : ¬ (c.serial ≠ 0 ∧ c.serial ≠ i.serial)) (hp : phaseCheck c.code i = none) :
    s.instCheck c = .ok (l, i) := by
  simp only [State.instCheck, lineOf_of_eq hl, State.inst, hi, if_neg hs, hp]

/-- R28: a command refused by its checks is answered and changes nothing. -/
theorem State.onInst_of_error {s : State} {c : Command} {st : Status} (h : s.instCheck c = .error st)
    (act : LineId → Inst → State → State) : s.onInst c act = s.reply c st [] := by
  simp only [State.onInst, h]

/-- R28: a command that names its instance and passes its phase check acts on it. -/
theorem State.onInst_of_ok {s : State} {c : Command} {l : LineId} {i : Inst} (hl : c.target.toNat = l.val)
    (hi : (s.line l).inst = some i) (hs : c.serial = 0 ∨ c.serial = i.serial) (hp : phaseCheck c.code i = none)
    (act : LineId → Inst → State → State) : s.onInst c act = (act l i s).settle l := by
  simp only [State.onInst, State.instCheck_of_ok hl hi (by tauto) hp]

/-- The twelve commands that name an instance: each row takes its command by the checks of R28. -/
theorem instanceCommand_of_mem {code : CommandCode}
    (h : code ∈ [CommandCode.closeForm, .clearEntry, .holdInput, .resumeInput, .readField, .writeField, .setFieldState,
      .placeCursor, .showMessage, .repaint, .acceptEntry, .returnEntry]) (s : State) (tag target : Byte) (args : List Word) :
    ∃ accepts act f, s.effect (Command.row ⟨code, tag, target, args⟩) = s.takeCommand accepts f ∧
      accepts ⟨code, tag, target, args⟩ = true ∧
        ∀ t : State, f ⟨code, tag, target, args⟩ t = t.onInst ⟨code, tag, target, args⟩ act := by
  simp only [List.mem_cons, List.not_mem_nil, or_false] at h
  rcases h with rfl | rfl | rfl | rfl | rfl | rfl | rfl | rfl | rfl | rfl | rfl | rfl
  case inr.inr.inr.inr.inr.inr.inl =>
    simp only [Command.row]
    split
    · exact ⟨_, _, _, rfl, by simp [*], fun t => rfl⟩
    · exact ⟨_, _, _, rfl, by simp [*], fun t => rfl⟩
    · exact ⟨_, _, _, rfl, by simp [*], fun t => rfl⟩
    · exact ⟨_, _, _, rfl, by simp [*], fun t => rfl⟩
    · exact ⟨_, _, _, rfl, by simp_all, fun t => rfl⟩
  case inr.inr.inr.inr.inr.inr.inr.inr.inr.inr.inl =>
    simp only [Command.row]
    split
    · exact ⟨_, _, _, rfl, by simp [*], fun t => rfl⟩
    · exact ⟨_, _, _, rfl, by simp_all, fun t => rfl⟩
  all_goals exact ⟨_, _, _, rfl, rfl, fun t => rfl⟩

/-- R192: the serial that a command names its instance by. -/
theorem Command.serial_check (code : CommandCode) (tag target : Byte) (args : List Word) (v : Word) :
    ((⟨code, tag, target, args⟩ : Command).serial ≠ 0 ∧ (⟨code, tag, target, args⟩ : Command).serial ≠ v) ↔
      (code ≠ .holdInput ∧ code ≠ .resumeInput ∧ args.getD 0 0 ≠ 0 ∧ args.getD 0 0 ≠ v) := by
  cases code <;> simp [Command.serial, Command.arg]

/-- Settles O21: the checks one after the other, and the phase check phase by phase. -/
theorem instanceCommandsRefused : Obligations.InstanceCommandsRefused := by
  refine ⟨fun s code tag target args rest hcode h => ?_, fun i => ?_⟩
  · obtain ⟨accepts, act, f, hr, ha, hf⟩ := instanceCommand_of_mem hcode s tag target args
    have hrefused : ∀ st, (s.begun code rest).instCheck ⟨code, tag, target, args⟩ = .error st →
        Answers (Command.row ⟨code, tag, target, args⟩) s rest (result tag st.code []) := fun st he =>
      answers_of_act h hr ha (by rw [hf, State.onInst_of_error he])
    refine ⟨fun ht => hrefused .badLine ?_, fun l hl => ⟨fun hi => hrefused .noInstance ?_, fun i hi => ?_⟩⟩
    · simp only [State.instCheck, lineOf_of_lt ht]
    · exact State.instCheck_of_none hl hi
    · split_ifs with hserial
      · exact hrefused .stale (State.instCheck_of_stale hl hi ((Command.serial_check ..).2 hserial))
      · exact fun st hst => hrefused st (State.instCheck_of_phase hl hi (mt (Command.serial_check ..).1 hserial) hst)
  · cases hp : i.phase <;> cases hlate : i.late <;> simp [phaseCheck, hp, hlate]

/-! ## Serials (R27) -/

/-- R27: the value after a serial, as a number. -/
theorem toNat_nextSerialAfter {v : Word} (h : v ≠ 0) : (nextSerialAfter v).toNat = v.toNat % 65535 + 1 := by
  have hpos : v.toNat ≠ 0 := fun e => h (BitVec.eq_of_toNat_eq e)
  have hlt := v.isLt
  unfold nextSerialAfter
  split_ifs with hv
  · rw [hv]; rfl
  · rw [BitVec.toNat_add]
    have : (1 : Word).toNat = 1 := rfl
    omega

/-- R27: no value after a serial is 0. -/
theorem nextSerialAfter_ne_zero {v : Word} (h : v ≠ 0) : nextSerialAfter v ≠ 0 := by
  intro e
  have := toNat_nextSerialAfter h
  rw [e] at this
  simp at this

/-- R27: the values tried after a serial, as numbers. -/
theorem toNat_iterate_nextSerialAfter {v : Word} (h : v ≠ 0) (j : Nat) :
    nextSerialAfter^[j] v ≠ 0 ∧ (nextSerialAfter^[j] v).toNat = (v.toNat - 1 + j) % 65535 + 1 := by
  have hpos : v.toNat ≠ 0 := fun e => h (BitVec.eq_of_toNat_eq e)
  have hlt := v.isLt
  induction j with
  | zero => exact ⟨h, by simp only [Function.iterate_zero, id]; omega⟩
  | succ j ih =>
    rw [Function.iterate_succ_apply']
    exact ⟨nextSerialAfter_ne_zero ih.1, by rw [toNat_nextSerialAfter ih.1, ih.2]; omega⟩

/-- R27: the serial picked is not held, unless every value tried is. -/
theorem pickSerial_fresh (held : List Word) (n : Nat) :
    ∀ v, pickSerial held n v ∉ held ∨ ∀ j < n, nextSerialAfter^[j] v ∈ held := by
  induction n with
  | zero => exact fun v => .inr fun j hj => absurd hj (Nat.not_lt_zero j)
  | succ n ih =>
    intro v
    rw [pickSerial]
    split_ifs with hv
    · refine (ih _).imp id fun hall j hj => ?_
      cases j with
      | zero => exact List.contains_iff_mem.1 hv
      | succ j => exact hall j (by omega)
    · exact .inl fun hm => hv (List.contains_iff_mem.2 hm)

/-- R27: the serial picked is not 0. -/
theorem pickSerial_ne_zero (held : List Word) (n : Nat) : ∀ v, v ≠ 0 → pickSerial held n v ≠ 0 := by
  induction n with
  | zero => exact fun v h => h
  | succ n ih =>
    intro v h
    rw [pickSerial]
    split_ifs
    · exact ih _ (nextSerialAfter_ne_zero h)
    · exact h

/-- R27: twelve held serials leave one of thirteen values free. -/
theorem State.takenSerial_fresh {s : State} (h : s.nextSerial ≠ 0) : s.takenSerial ∉ s.heldSerials := by
  refine (pickSerial_fresh s.heldSerials 13 s.nextSerial).resolve_right fun hall => ?_
  have hnodup : ((List.range 13).map fun j => nextSerialAfter^[j] s.nextSerial).Nodup := by
    refine List.Nodup.map_on (fun a ha b hb e => ?_) List.nodup_range
    have e' := congrArg BitVec.toNat e
    rw [(toNat_iterate_nextSerialAfter h a).2, (toNat_iterate_nextSerialAfter h b).2] at e'
    simp only [List.mem_range] at ha hb
    omega
  have hsubset : ((List.range 13).map fun j => nextSerialAfter^[j] s.nextSerial) ⊆ s.heldSerials := by
    intro v hv
    obtain ⟨j, hj, rfl⟩ := List.mem_map.1 hv
    exact hall j (List.mem_range.1 hj)
  have hlong := (hnodup.subperm hsubset).length_le
  have hshort : s.heldSerials.length ≤ 12 := List.length_filterMap_le _ allLines
  simp at hlong
  omega

/-- A serial is held where an instance has it. -/
theorem State.mem_heldSerials {s : State} {v : Word} :
    v ∈ s.heldSerials ↔ ∃ l i, (s.line l).inst = some i ∧ i.serial = v := by
  simp only [State.heldSerials, State.inst, List.mem_filterMap, mem_allLines, true_and, Option.map_eq_some_iff]

/-- Settles O24: fresh by `State.takenSerial_fresh`, and upward from next serial. -/
theorem serialTakenIsFresh : Obligations.SerialTakenIsFresh := by
  intro s h
  have hfresh := State.takenSerial_fresh h
  have hzero : s.takenSerial ≠ 0 := pickSerial_ne_zero _ _ _ h
  refine ⟨fun l i hi e => hfresh (State.mem_heldSerials.2 ⟨l, i, hi, e⟩), hzero, nextSerialAfter_ne_zero hzero, ?_,
    fun hfree => ?_⟩
  · unfold nextSerialAfter
    exact if_congr ⟨fun e => BitVec.eq_of_toNat_eq e, fun e => by rw [e]; rfl⟩ rfl rfl
  · have hnot : ¬ s.heldSerials.contains s.nextSerial = true := by
      rw [List.contains_iff_mem, State.mem_heldSerials]
      rintro ⟨l, i, hi, e⟩
      exact hfree l i hi e
    rw [State.takenSerial, pickSerial, if_neg hnot]

/-! ## Opening values (R47, R60) -/

/-- R10: the next field begins where a field ends. -/
theorem FormDef.offset_succ {d : FormDef} {n : Nat} (h : n < d.fields.length) :
    d.offset (n + 1) = d.offset n + (d.field n).length := by
  have hfield : d.field n = d.fields[n] := List.getD_eq_getElem _ _ h
  rw [FormDef.offset, FormDef.offset, List.take_add_one, List.getElem?_eq_getElem h, hfield]
  simp only [Option.toList_some, List.map_append, List.map_cons, List.map_nil, List.sum_append, List.sum_cons,
    List.sum_nil, Nat.add_zero]

/-- R10: the fields of a form end at the sum of their lengths. -/
theorem FormDef.offset_length (d : FormDef) : d.offset d.fields.length = (d.fields.map FieldDef.length).sum := by
  simp [FormDef.offset]

/-- R10: fields stand in field order. -/
theorem FormDef.offset_mono (d : FormDef) {m n : Nat} (h : m ≤ n) : d.offset m ≤ d.offset n := by
  induction n with
  | zero => rw [Nat.le_zero.1 h]
  | succ n ih =>
    rcases Nat.lt_or_ge n d.fields.length with hn | hn
    · rcases Nat.le_succ_iff.1 h with h' | rfl
      · rw [FormDef.offset_succ hn]
        have := ih h'
        omega
      · rfl
    · have hend : ∀ k, d.fields.length ≤ k → d.offset k = d.offset d.fields.length := fun k hk => by
        simp [FormDef.offset, List.take_of_length_le hk]
      rcases Nat.le_succ_iff.1 h with h' | rfl
      · rw [hend (n + 1) (by omega), ← hend n hn]
        exact ih h'
      · rfl

/-- R60: the defaults of the first `k` fields. -/
def openingWrites (d : FormDef) (base : Nat) (m : Memory) (k : Nat) : Memory :=
  (List.range k).foldl (fun m n => m.writeBytes (base * Config.granuleBytes + d.offset n) (d.default n)) m

/-- R60: the opening values are the defaults of all the fields. -/
theorem openingMemory_eq (d : FormDef) (base : Nat) (m : Memory) : openingMemory d base m = openingWrites d base m d.fields.length :=
  rfl

/-- R60: the default of one field more. -/
theorem openingWrites_succ (d : FormDef) (base : Nat) (m : Memory) (k : Nat) :
    openingWrites d base m (k + 1) = (openingWrites d base m k).writeBytes (8 * base + d.offset k) (d.default k) := by
  simp [openingWrites, List.range_succ, Config.granuleBytes, Nat.mul_comm]

/-- R47, R60: the defaults of the first fields stand at their places, and no byte outside those places changes. -/
theorem openingWrites_spec {d : FormDef} (hd : ∀ n, n < d.fields.length → (d.default n).length ≤ (d.field n).length)
    (base : Nat) (m : Memory) (k : Nat) (hk : k ≤ d.fields.length) :
    (∀ n j, n < k → j < (d.default n).length →
      (openingWrites d base m k).read (8 * base + d.offset n + j) = (d.default n)[j]?) ∧
    ∀ x, (x < 8 * base ∨ 8 * base + d.offset k ≤ x) → (openingWrites d base m k).read x = m.read x := by
  induction k with
  | zero => exact ⟨fun n j hn => absurd hn (Nat.not_lt_zero n), fun x _ => rfl⟩
  | succ k ih =>
    obtain ⟨hbytes, hrest⟩ := ih (by omega)
    have hlast := hd k (by omega)
    have hend := FormDef.offset_succ (d := d) (n := k) (by omega)
    rw [openingWrites_succ]
    refine ⟨fun n j hn hj => ?_, fun x hx => ?_⟩
    · rcases Nat.lt_succ_iff_lt_or_eq.1 hn with hn' | rfl
      · have hplace : d.offset (n + 1) ≤ d.offset k := d.offset_mono hn'
        have hnext := FormDef.offset_succ (d := d) (n := n) (by omega)
        have hfits := hd n (by omega)
        rw [Memory.read_writeBytes_of_outside _ _ _ _ (.inl (by omega))]
        exact hbytes n j hn' hj
      · exact Memory.read_writeBytes_inside _ _ _ _ hj
    · rw [Memory.read_writeBytes_of_outside _ _ _ _ (by omega)]
      exact hrest x (by omega)

/-- Settles O25: `openingWrites_spec` at all the fields. -/
theorem openingValuesWritten : Obligations.OpeningValuesWritten := by
  intro d base m hd
  rw [openingMemory_eq, ← FormDef.offset_length]
  exact openingWrites_spec hd base m _ le_rfl

end Sys2Proof.Machine
end

section
/-! PROOFS. OPEN FORM, CLEAR ENTRY, HOLD INPUT and RESUME INPUT (R31 to R33, R37, R38). -/

namespace Sys2Proof.Machine

open Sys2Proof.Safety

-- The proofs of the whole text share one memory limit, and each thread takes its part of it.
set_option Elab.async false

/-! ## The refusals of OPEN FORM (R31) -/

/-- R48: no free entry is large enough. -/
theorem allocate_eq_none_iff (size : Nat) (fs : List Extent) : allocate size fs = none ↔ ∀ e ∈ fs, e.count < size := by
  induction fs with
  | nil => simp [allocate]
  | cons e rest ih =>
    rw [allocate]
    rcases Nat.lt_trichotomy e.count size with h | h | h
    · rw [if_neg (by omega), if_neg (by omega)]
      cases ha : allocate size rest with
      | none => simpa [h] using ih.1 ha
      | some p =>
        have : ¬ ∀ e ∈ rest, e.count < size := fun hall => by rw [ih.2 hall] at ha; cases ha
        simpa [h] using this
    · simp [h]
    · rw [if_neg (by omega), if_pos h]
      simp only [reduceCtorEq, List.mem_cons, forall_eq_or_imp, false_iff, not_and]
      omega

/-- R31, check 7: a preset out of bounds. -/
theorem badPreset_iff (address : Nat) (len : Word) :
    badPreset address len.toNat = true ↔
      len ≠ 0 ∧ (len.toNat < 4 ∨ 4040 < len.toNat ∨ 0x1000000 < address + len.toNat) := by
  have hzero : len.toNat ≠ 0 ↔ len ≠ 0 := not_congr ⟨fun e => BitVec.eq_of_toNat_eq e, fun e => by rw [e]; rfl⟩
  simp only [badPreset, Bool.and_eq_true, Bool.or_eq_true, decide_eq_true_eq, Bool.not_eq_true', rangeOk_eq_false_iff, hzero,
    or_assoc]
  refine and_congr_right fun _ => ?_
  omega

/-- R31: an OPEN FORM for a line that is ON and without an instance is checked against its slot, its preset and the free
entries. -/
theorem openForm_of_slot {c : Command} {l : LineId} {k : SlotId} (hl : c.target.toNat = l.val) (hk : (c.arg 0).toNat = k.val)
    {s : State} (hon : (s.line l).on = true) (hi : (s.line l).inst = none) :
    openForm c s =
      if (s.slot k).isEmpty = true then s.reply c .slotEmpty []
      else if (s.slot k).isLoading = true then s.reply c .slotBusy []
      else if badPreset (hostAddress (c.arg 1) (c.arg 2)) (c.arg 3).toNat = true then s.reply c .badArgument []
      else
        match allocate (s.slot k).form.extentSize s.freeList with
        | none => s.reply c .noRoom []
        | some (base, free) =>
          ((s.open_ l k base free (if (c.arg 3).toNat = 0 then .painting else .presetting)).beginOpen c l
            (hostAddress (c.arg 1) (c.arg 2)) (c.arg 3).toNat).settle l := by
  have hnone : (s.inst l).isSome = false := by simp [State.inst, hi]
  simp only [openForm, lineOf_of_eq hl, slotOf_of_eq hk, hon, hnone, firstOf, Bool.not_true, Bool.false_eq_true, if_false]
  split_ifs <;> rfl

/-- Settles O22: the checks one after the other. -/
theorem openFormRefused : Obligations.OpenFormRefused := by
  intro s tag target slot low high len rest h
  have hrefused : ∀ st, openForm ⟨.openForm, tag, target, [slot, low, high, len]⟩ (s.begun .openForm rest) =
      (s.begun .openForm rest).reply ⟨.openForm, tag, target, [slot, low, high, len]⟩ st [] →
        Answers .openForm s rest (result tag st.code []) := fun st => answers_of_act h rfl rfl
  refine ⟨fun ht => hrefused .badLine (by simp only [openForm, lineOf_of_lt ht]), fun l hl => ?_⟩
  have hline : lineOf target = some l := lineOf_of_eq hl
  by_cases hoff : (s.line l).on = false
  · rw [if_pos hoff]
    exact hrefused .lineOff (by simp [openForm, hline, hoff])
  by_cases hinst : (s.line l).inst = none
  swap
  · rw [if_neg hoff, if_pos hinst]
    have hsome : (s.inst l).isSome = true := Option.isSome_iff_ne_none.2 hinst
    exact hrefused .hasInstance (by simp [openForm, hline, hoff, hsome])
  rw [if_neg hoff, if_neg (not_not.2 hinst)]
  by_cases hslot : 23 < slot.toNat
  · rw [if_pos hslot]
    have hnone : (s.inst l).isSome = false := by simpa [State.inst] using hinst
    exact hrefused .badSlot (by simp [openForm, hline, hoff, hnone, Command.arg, slotOf_of_lt hslot])
  rw [if_neg hslot]
  intro k hk
  have hact := openForm_of_slot (c := ⟨.openForm, tag, target, [slot, low, high, len]⟩) (s := s.begun .openForm rest) hl hk
    (by simpa using hoff) (by simpa using hinst)
  have hnum : hostAddress low high = low.toNat + 0x10000 * high.toNat := rfl
  simp only [Command.arg, List.getD_cons_zero, List.getD_cons_succ, State.begun_slot, Slot.isEmpty_iff,
    badPreset_iff, hnum] at hact
  generalize (if len.toNat = 0 then Phase.painting else Phase.presetting) = phase at hact
  split_ifs at hact ⊢ with hempty hbusy hbad
  · exact hrefused .slotEmpty hact
  · exact hrefused .slotBusy hact
  · exact hrefused .badArgument hact
  · intro hroom
    have hnone : allocate (s.slot k).form.extentSize (s.begun .openForm rest).freeList = none :=
      (allocate_eq_none_iff _ _).2 hroom
    simp only [hnone] at hact
    exact hrefused .noRoom hact

/-! ## The instance an OPEN FORM makes (R31 to R33, R60) -/

/-- R55: the records of opening values leave each field's protection to its definition. -/
theorem Inst.fieldProtected_opening {i : Inst} {d : FormDef} (h : i.fields = d.fieldNumbers.map (openingRec d)) (n : Nat) :
    i.fieldProtected d n = (d.field n).attrs.isProtected := by
  have hrec : (i.field n).override = .none := by
    rw [Inst.field, h, List.getD_eq_getElem?_getD, List.getElem?_map]
    cases d.fieldNumbers[n]? <;> rfl
  simp [Inst.fieldProtected, FieldRec.protection, hrec]

/-- The first effectively unprotected field. -/
theorem Inst.openFields_head? (i : Inst) (d : FormDef) :
    (i.openFields d).head? = (List.range d.fields.length).find? fun n => !i.fieldProtected d n := by
  simp [Inst.openFields, FormDef.fieldNumbers]

/-- R31, R37, R135: the cursor enters the first effectively unprotected field, or is NONE. -/
theorem Inst.enterFirst_eq (i : Inst) (d : FormDef) : i.enterFirst d = atCursor i (i.openFields d).head? 0 := by
  unfold Inst.enterFirst
  cases i.openFields d <;> rfl

/-- R31, R37, R135: from opening values the cursor enters the first field that the definition leaves unprotected. -/
theorem Inst.enterFirst_opening {i : Inst} {d : FormDef} (h : i.fields = d.fieldNumbers.map (openingRec d)) :
    i.enterFirst d = atCursor i (firstOpenField d) 0 := by
  rw [Inst.enterFirst_eq, Inst.openFields_head?, firstOpenField]
  simp only [Inst.fieldProtected_opening h]

/-- R60: the opening values, as the state they leave. -/
theorem State.openingValues_eq {s : State} {l : LineId} {i : Inst} (h : (s.line l).inst = some i) :
    s.openingValues l =
      State.setLine { s with valueMemory := openingMemory (s.form i) i.extent.base s.valueMemory } l
        (lineWith s l { i with fields := (s.form i).fieldNumbers.map (openingRec (s.form i)) }) := by
  have hi : s.instOf l = i := by simp [State.instOf, State.inst, h]
  have hd : s.formOf l = s.form i := by rw [State.formOf, hi]
  have hline : ({ s with valueMemory := openingMemory (s.form i) i.extent.base s.valueMemory } : State).line l = s.line l := rfl
  simp only [State.openingValues, State.modInst_eq, hi, hd, hline, h, Option.map_some]
  rfl

/-- The definition of a READY slot. -/
theorem Slot.form_of_ready {k : Slot} {d : FormDef} (h : k.state = .ready d) : k.form = d := by
  simp only [Slot.form, h]

/-- R31: an instance as an OPEN FORM leaves it, up to what its preset asks for. -/
def openedRecord (d : FormDef) (k : SlotId) (serial : Word) (base : Nat) (phase : Phase) : Inst :=
  { openedInst k serial ⟨base, d.extentSize⟩ phase with
    fields := freshFields d none
    cursorField := firstOpenField d }

/-- R31: the effects of an OPEN FORM that is taken. -/
theorem State.open_eq {s : State} {l : LineId} {k : SlotId} {d : FormDef} (hd : (s.slot k).state = .ready d) (base : Nat)
    (free : List Extent) (phase : Phase) :
    s.open_ l k base free phase =
      State.setLine
        (State.setSlot
          { s with
            freeList := free
            nextSerial := nextSerialAfter s.takenSerial
            valueMemory := openingMemory d base s.valueMemory }
          k { s.slot k with useCount := (s.slot k).useCount + 1 })
        l (lineWith s l (openedRecord d k s.takenSerial base phase)) := by
  have hform := Slot.form_of_ready hd
  let i := openedInst k s.takenSerial ⟨base, d.extentSize⟩ phase
  let t : State := State.setSlot { s with freeList := free, nextSerial := nextSerialAfter s.takenSerial } k
    { s.slot k with useCount := (s.slot k).useCount + 1 }
  have hopen : s.open_ l k base free phase =
      ((t.setInst l (some i)).openingValues l).modInst l fun i => { i.enterFirst d with cursorStale := false } := by
    simp only [State.open_, hform, t, i]
    rfl
  have hi : ((t.setInst l (some i)).line l).inst = some i := by simp [State.setInst]
  have hd' : (t.setInst l (some i)).form i = d := by
    have : (t.setInst l (some i)).slot k = { s.slot k with useCount := (s.slot k).useCount + 1 } := by
      simp [State.setInst, t]
    rw [State.form, show i.slot = k from rfl, this]
    exact hform
  rw [hopen, State.openingValues_eq hi, hd', State.modInst_eq]
  simp only [State.setLine_line_self, lineWith, Option.map_some]
  rw [Inst.enterFirst_opening rfl]
  simp only [State.setInst, State.modLine, State.setLine_line_self]
  simp [State.setLine, t, State.setSlot, State.line, openedRecord, atCursor, i, freshFields, FormDef.fieldNumbers]
  exact ⟨rfl, rfl⟩

/-- R60: the opening records with their stale marks set. -/
theorem freshFields_stale (d : FormDef) (stale : Option Nat) :
    ((freshFields d none).map fun r => { r with staleFrom := stale }) = freshFields d stale := by
  simp [freshFields]

/-- R31, R32: an instance just opened without a preset, with its full repaint. -/
theorem repainted_openedRecord (d : FormDef) (k : SlotId) (serial : Word) (base : Nat) :
    repainted (openedRecord d k serial base .painting) = opened d k serial base none := by
  simp only [repainted, openedRecord, freshFields_stale]
  rfl

/-- R31, R33: an instance just opened with a preset. -/
theorem openedRecord_preset (d : FormDef) (k : SlotId) (serial : Word) (base : Nat) (tag : Byte) :
    { openedRecord d k serial base .presetting with reservation := 4, pendingOpen := some tag } =
      opened d k serial base (some tag) := rfl

/-- R31: an OPEN FORM whose checks all pass opens its instance. -/
theorem openForm_of_room {c : Command} {l : LineId} {k : SlotId} {d : FormDef} {s : State} {base : Nat} {free : List Extent}
    (hl : c.target.toNat = l.val) (hk : (c.arg 0).toNat = k.val) (hon : (s.line l).on = true)
    (hi : (s.line l).inst = none) (hd : (s.slot k).state = .ready d)
    (hp : badPreset (hostAddress (c.arg 1) (c.arg 2)) (c.arg 3).toNat = false)
    (ha : allocate ((d.valueTotal + 7) / 8) s.freeList = some (base, free)) :
    openForm c s =
      ((s.open_ l k base free (if (c.arg 3).toNat = 0 then .painting else .presetting)).beginOpen c l
        (hostAddress (c.arg 1) (c.arg 2)) (c.arg 3).toNat).settle l := by
  have hempty : ¬ (s.slot k).isEmpty = true := by simp [Slot.isEmpty, hd]
  have hbusy : ¬ (s.slot k).isLoading = true := by simp [Slot.isLoading, hd]
  have ha' : allocate (s.slot k).form.extentSize s.freeList = some (base, free) := by rw [Slot.form_of_ready hd]; exact ha
  rw [openForm_of_slot hl hk hon hi, if_neg hempty, if_neg hbusy, if_neg (by simp [hp]), ha']

/-- R32: an OPEN FORM without a preset sets a full repaint and answers with the serial. -/
theorem State.beginOpen_repaint {s : State} {l : LineId} {i : Inst} (h : (s.line l).inst = some i) (c : Command) (address : Nat) :
    s.beginOpen c l address 0 =
      (s.setLine l { s.line l with
        clearPending := (s.line l).clearPending || !(s.line l).detached
        inst := some (repainted i) }).reply c .ok [i.serial] := by
  have hi : s.instOf l = i := by simp [State.instOf, State.inst, h]
  rw [State.beginOpen, if_pos rfl, State.fullRepaint_eq h, hi]

/-- R33: an OPEN FORM with a preset keeps its tag and its reserved room and asks for the preset. -/
theorem State.beginOpen_preset {s : State} {l : LineId} {i : Inst} (h : (s.line l).inst = some i) (c : Command) (address : Nat)
    {length : Nat} (hn : length ≠ 0) :
    s.beginOpen c l address length =
      (s.setLine l (lineWith s l { i with reservation := c.code.reservation, pendingOpen := some c.tag })).placeRequest
        ⟨.presetFetch l, BitVec.ofNat 24 address, length⟩ := by
  rw [State.beginOpen, if_neg hn, State.modInst_eq, h]
  rfl

/-- Settles O23: the instance by `State.open_eq`, then the repaint and the result, or the request of the preset. -/
theorem openFormTaken : Obligations.OpenFormTaken := by
  refine ⟨fun s tag target slot low high rest l k d base free h hl hk hon hi hd ha => ?_,
    fun s tag target slot low high len rest l k d base free h hl hk hon hi hd hmin hmax htop ha => ?_⟩
  · have hact := openForm_of_room (c := ⟨.openForm, tag, target, [slot, low, high, 0]⟩) (s := s.begun .openForm rest) hl hk hon
      hi hd rfl ha
    refine doesOn_of_act h rfl rfl (hact.trans (congrArg (State.settle · l) ?_)) rfl
    show ((s.begun .openForm rest).open_ l k base free .painting).beginOpen _ l _ 0 = _
    rw [State.open_eq (s := s.begun .openForm rest) hd, State.beginOpen_repaint (by rw [State.setLine_line_self]; rfl),
      State.reply_eq, State.setLine_line_self, State.setLine_setLine, ← repainted_openedRecord]
    simp [State.setLine, State.setSlot, State.begun, lineWith, Status.code, State.line, State.slot, openedRecord, openedInst]
    exact ⟨rfl, rfl, rfl⟩
  · have hlen : len.toNat ≠ 0 := by omega
    have hpreset : badPreset (low.toNat + 0x10000 * high.toNat) len.toNat = false := by
      rw [Bool.eq_false_iff, Ne, badPreset_iff]
      omega
    have hact := openForm_of_room (c := ⟨.openForm, tag, target, [slot, low, high, len]⟩) (s := s.begun .openForm rest) hl hk hon
      hi hd hpreset ha
    refine doesOn_of_act h rfl rfl (hact.trans (congrArg (State.settle · l) ?_)) rfl
    show ((s.begun .openForm rest).open_ l k base free (if len.toNat = 0 then .painting else .presetting)).beginOpen _ l
      (low.toNat + 0x10000 * high.toNat) len.toNat = _
    rw [if_neg hlen, State.open_eq (s := s.begun .openForm rest) hd,
      State.beginOpen_preset (by rw [State.setLine_line_self]; rfl) _ _ hlen, State.setLine_setLine, ← openedRecord_preset]
    simp [State.setLine, State.setSlot, State.begun, lineWith, State.placeRequest, State.line, State.slot, openedRecord, openedInst]
    exact ⟨rfl, rfl, rfl⟩

/-! ## A command that passes the checks of R28 -/

/-- What a command row does with a command that names its instance and passes its phase check, from what its owning block does. -/
theorem doesOn_of_named {s u v : State} {code : CommandCode} {tag target : Byte} {args rest : List Word} {row : Instr}
    {l : LineId} {i : Inst} {y : Line} (h : Offered s code tag target args rest) {accepts : Command → Bool}
    {f : Command → State → State} {act : LineId → Inst → State → State} (hr : s.effect row = s.takeCommand accepts f)
    (ha : accepts ⟨code, tag, target, args⟩ = true)
    (hf : ∀ t : State, f ⟨code, tag, target, args⟩ t = t.onInst ⟨code, tag, target, args⟩ act)
    (hn : Named s target (⟨code, tag, target, args⟩ : Command).serial l i) (hp : phaseCheck code i = none)
    (hv : act l i (s.begun code rest) = v.setLine l y)
    (hu : v = { u with pointer := .commandUnit, commandQueue := rest, assembler := .free }) : DoesOn row s rest u l y := by
  obtain ⟨hl, hi, hs⟩ := hn
  exact doesOn_of_act h hr ha (by rw [hf, State.onInst_of_ok (s := s.begun code rest) hl hi hs hp, hv]) hu

/-- The same for a command that is answered and does nothing else. -/
theorem answersOn_of_named {s : State} {code : CommandCode} {tag target : Byte} {args rest : List Word} {row : Instr}
    {l : LineId} {i : Inst} (h : Offered s code tag target args rest) {accepts : Command → Bool}
    {f : Command → State → State} {act : LineId → Inst → State → State} (hr : s.effect row = s.takeCommand accepts f)
    (ha : accepts ⟨code, tag, target, args⟩ = true)
    (hf : ∀ t : State, f ⟨code, tag, target, args⟩ t = t.onInst ⟨code, tag, target, args⟩ act)
    (hn : Named s target (⟨code, tag, target, args⟩ : Command).serial l i) (hp : phaseCheck code i = none) {st : Status}
    {data : List Word}
    (hact : act l i (s.begun code rest) = (s.begun code rest).reply ⟨code, tag, target, args⟩ st data) :
    AnswersOn row s rest (result tag st.code data) l := by
  refine doesOn_of_named h hr ha hf hn hp (v := (s.begun code rest).reply ⟨code, tag, target, args⟩ st data) ?_ ?_
  · rw [hact]
    exact (State.setLine_line _ _).symm
  · rw [State.reply_eq]
    simp [State.begun]

/-! ## CLEAR ENTRY, HOLD INPUT, RESUME INPUT (R37, R38) -/

/-- R37: an instance whose entry starts again. -/
theorem Inst.cleared_opening (i : Inst) (d : FormDef) :
    Inst.cleared { i with fields := d.fieldNumbers.map (openingRec d) } d = restarted d i := by
  rw [Inst.cleared, Inst.enterFirst_opening rfl, restarted, ← freshFields_stale]
  rfl

/-- R37, R38: the phase checks of the three commands. -/
theorem phaseCheck_clearEntry {i : Inst} (h : i.phase = .painting ∨ i.phase = .editing) : phaseCheck .clearEntry i = none := by
  rcases h with h | h <;> simp [phaseCheck, h]

/-- R38: HOLD INPUT and RESUME INPUT act in every phase but CLOSING. -/
theorem phaseCheck_holdInput {i : Inst} (h : i.phase ≠ .closing) :
    phaseCheck .holdInput i = none ∧ phaseCheck .resumeInput i = none := by
  cases hp : i.phase <;> simp_all [phaseCheck]

/-- Settles O30: each command by its owning block's effect on the line. -/
theorem entryCommandsTaken : Obligations.EntryCommandsTaken := by
  refine ⟨fun s tag target serial rest l i h hn hp => ?_, fun s tag target rest l i hn hp => ⟨fun h => ?_, fun h => ?_⟩⟩
  · refine doesOn_of_named h rfl rfl (fun t => rfl) hn (phaseCheck_clearEntry hp)
      (v := ({ s.begun .clearEntry rest with valueMemory := openingMemory (s.form i) i.extent.base s.valueMemory } : State).reply
        ⟨.clearEntry, tag, target, [serial]⟩ .ok []) ?_ ?_
    · have hd : (s.begun .clearEntry rest).formOf l = s.form i := State.formOf_of_inst (s := s.begun .clearEntry rest) hn.inst
      rw [State.openingValues_eq (s := s.begun .clearEntry rest) hn.inst, State.modInst_eq, hd]
      simp only [State.setLine_line_self, State.setLine_setLine, lineWith, Option.map_some, State.begun_form,
        Inst.cleared_opening]
      rfl
    · rw [State.reply_eq]
      simp [State.begun, Status.code]
  · refine doesOn_of_named h rfl rfl (fun t => rfl) hn (phaseCheck_holdInput hp).1
      (v := (s.begun .holdInput rest).reply ⟨.holdInput, tag, target, []⟩ .ok []) ?_ ?_
    · rw [State.modInst_eq, State.begun_line, hn.inst]
      rfl
    · rw [State.reply_eq]
      simp [State.begun, Status.code]
  · refine doesOn_of_named h rfl rfl (fun t => rfl) hn (phaseCheck_holdInput hp).2
      (v := (s.begun .resumeInput rest).reply ⟨.resumeInput, tag, target, []⟩ .ok []) ?_ ?_
    · rw [State.modInst_eq, State.begun_line, hn.inst]
      rfl
    · rw [State.reply_eq]
      simp [State.begun, Status.code]

end Sys2Proof.Machine
end

section
/-! PROOFS. Retirement and the closing of an instance: CLOSE FORM, RESET LINE and ACCEPT ENTRY (R29, R39, R42 to R44, R134, R135). -/

namespace Sys2Proof.Machine

open Sys2Proof.Safety

-- The proofs of the whole text share one memory limit, and each thread takes its part of it.
set_option Elab.async false

/-! ## Retirement (R29) -/

/-- R29: the retirement of an instance, as `retired` and the line it leaves. -/
theorem State.retire_eq {s : State} {l : LineId} {i : Inst} (h : (s.line l).inst = some i) :
    s.retire l = (retired s l i).setLine l { (s.line l).clearKeys with typeAhead := [], inst := none } := by
  have hi : s.inst l = some i := h
  have hqueue : (s.busQueue.filter fun r => r.owner != .presetFetch l).filter (fun r => r.owner != .delivery l) =
      s.busQueue.filter fun r => r.owner != .presetFetch l && r.owner != .delivery l := by
    rw [List.filter_filter]
    simp only [Bool.and_comm]
  simp only [State.retire, hi, retired, State.dropUse, State.leaveWaiting, State.withdraw, State.release, State.modLine,
    State.setLine, State.setSlot, State.slot, State.line, hqueue]

/-- R29, R42: the line after a retirement and a clear queued where one is asked for. -/
theorem clearKeys_retiredLine (x : Line) (clear : Bool) :
    (retiredLine x clear).clearKeys =
      { { x.clearKeys with typeAhead := [], inst := none } with
        clearPending := x.clearPending || clear && x.on && !x.detached } := rfl

/-- R29: a retirement withdraws the request of a delivery, whether it still stands or not. -/
theorem retired_withdraw (s : State) (l : LineId) (i : Inst) : retired (s.withdraw (.delivery l)) l i = retired s l i := by
  have hbus : (s.busQueue.filter fun r => r.owner != .delivery l).filter
      (fun r => r.owner != .presetFetch l && r.owner != .delivery l) =
        s.busQueue.filter fun r => r.owner != .presetFetch l && r.owner != .delivery l := by
    rw [List.filter_filter]
    exact List.filter_congr fun r _ => by cases (r.owner != .delivery l) <;> simp
  simp only [retired, State.withdraw, hbus, State.setSlot, State.slot]

/-- R39: an instance retired at once, with the result of its close. -/
theorem State.closeNow_eq {s : State} {l : LineId} {i : Inst} (h : (s.line l).inst = some i) (c : Closer) (data : List Word) :
    s.closeNow l c data =
      State.setLine
        { retired s l i with
          reserved := s.reserved - i.reservation - c.reservation
          answerQueue := s.answerQueue ++ result c.tag 0 data }
        l (retiredLine (s.line l) c.clear).clearKeys := by
  rw [State.closeNow, State.retire_eq h, State.queueClear_eq, State.setLine_line_self, State.setLine_setLine,
    State.closeResult, resultRecord_eq, clearKeys_retiredLine]
  rfl

/-! ## An instance ended by phase (R39) -/

/-- Is the transfer in progress that of the owner? -/
theorem State.inProgress_iff (s : State) (o : Owner) : s.inProgress o = true ↔ ∃ r, s.transfer = some r ∧ r.owner = o := by
  unfold State.inProgress
  cases s.transfer <;> simp

/-- R39: the transfer that the instance waits for is in progress. -/
theorem waitsFor_presetting {s : State} {l : LineId} {i : Inst} (h : i.phase = .presetting) :
    waitsFor s l i ↔ s.inProgress (.presetFetch l) = true := by
  simp [waitsFor, h, State.inProgress_iff]

/-- R39: the transfer that the instance waits for is in progress. -/
theorem waitsFor_delivering {s : State} {l : LineId} {i : Inst} (h : i.phase = .delivering) :
    waitsFor s l i ↔ s.inProgress (.delivery l) = true := by
  simp [waitsFor, h, State.inProgress_iff]

/-- R39: an instance that waits for no transfer is ended at once. -/
theorem State.closeInst_now {s : State} {l : LineId} {i : Inst}
    (h : i.phase = .painting ∨ i.phase = .editing ∨ i.phase = .awaitBuffer ∨ i.phase = .awaitVerdict) (c : Closer) :
    s.closeInst l i c = s.closeNow l c [] := by
  rcases h with h | h | h | h <;> simp only [State.closeInst, h]

/-- R39, R44: an instance in CLOSING, or one whose transfer is in progress, keeps the close for later. -/
theorem State.closeInst_later {s : State} {l : LineId} {i : Inst} (hi : (s.line l).inst = some i)
    (h : i.phase = .closing ∨ waitsFor s l i) (c : Closer) :
    s.closeInst l i c =
      s.setLine l (lineWith s l
        { i with phase := .closing, pendingClose := i.pendingClose ++ [⟨c.tag, c.clear, c.reservation⟩] }) := by
  have hdefer : s.closeInst l i c = s.deferClose l c := by
    rcases h with h | h
    · simp only [State.closeInst, h]
    · rcases h with ⟨r, ht, ⟨hp, ho⟩ | ⟨hp, ho⟩⟩
      · have := (s.inProgress_iff (.presetFetch l)).2 ⟨r, ht, ho⟩
        simp only [State.closeInst, hp, this, if_true]
      · have := (s.inProgress_iff (.delivery l)).2 ⟨r, ht, ho⟩
        simp only [State.closeInst, hp, this, if_true]
  rw [hdefer, State.deferClose, State.modInst_eq, hi]
  rfl

/-- R39: an instance in PRESETTING whose request is still queued is ended, and its OPEN answered CLOSED_EARLY. -/
theorem State.closeInst_presetting {s : State} {l : LineId} {i : Inst} {openTag : Byte} (hi : (s.line l).inst = some i)
    (hp : i.phase = .presetting) (ho : i.pendingOpen = some openTag) (hw : ¬ waitsFor s l i) (c : Closer) :
    s.closeInst l i c =
      State.setLine
        { retired s l i with
          reserved := s.reserved - i.reservation - c.reservation
          answerQueue := s.answerQueue ++ result openTag 29 [] ++ result c.tag 0 [] }
        l (retiredLine (s.line l) c.clear).clearKeys := by
  have hidle : ¬ s.inProgress (.presetFetch l) = true := mt (waitsFor_presetting hp).2 hw
  let j : Inst := { i with reservation := 0, pendingOpen := none }
  let t : State := State.setLine
    { s.withdraw (.presetFetch l) with
      answerQueue := s.answerQueue ++ result openTag 29 []
      reserved := s.reserved - i.reservation }
    l (lineWith s l j)
  have hopen : (s.withdraw (.presetFetch l)).postOpen l .closedEarly [] = t := by
    have hw : (s.withdraw (.presetFetch l)).instOf l = i := State.instOf_of_inst hi
    simp only [State.postOpen, hw, ho, Option.getD_some, resultRecord_eq, State.modInst_eq, State.post_line,
      State.withdraw_line, hi, Option.map_some]
    rfl
  have hj : (t.line l).inst = some j := by simp [t, lineWith]
  have hbus : t.busQueue.filter (fun r => r.owner != .presetFetch l && r.owner != .delivery l) =
      s.busQueue.filter fun r => r.owner != .presetFetch l && r.owner != .delivery l := by
    show (s.busQueue.filter fun r => r.owner != .presetFetch l).filter _ = _
    rw [List.filter_filter]
    refine List.filter_congr fun r _ => ?_
    cases (r.owner != .presetFetch l) <;> simp
  have hline : retiredLine (t.line l) c.clear = retiredLine (s.line l) c.clear := by simp [t, lineWith, retiredLine]
  have hclose : s.closeInst l i c = t.closeNow l c [] := by
    rw [← hopen]
    simp only [State.closeInst, hp, hidle, Bool.false_eq_true, if_false]
  rw [hclose, State.closeNow_eq hj, hline]
  simp only [retired, State.setSlot, State.setLine, hbus]
  simp [t, j, State.setLine, State.slot, State.withdraw]

/-- R129: an offer's taker waits. -/
theorem State.takerOf_mem {s : State} {d : Descriptor} {m : LineId} (h : s.takerOf d = some m) : m ∈ s.waiting :=
  List.mem_of_find?_eq_some h

/-- R39: what an offer leaves of the line that gives the descriptor back. -/
theorem State.offer_line_of_not_waiting {s : State} {l : LineId} (h : l ∉ s.waiting) (d : Descriptor)
    (join : List Descriptor → List Descriptor) : (s.offer d join).line l = s.line l := by
  unfold State.offer
  split
  · rename_i m hm
    have hne : l ≠ m := fun e => h (e ▸ State.takerOf_mem hm)
    rw [State.startDelivery, State.placeRequest_line, State.modInst_line_of_ne _ _ hne, State.leaveWaiting_line]
  · rfl

/-- Changes of two lines can be made in either order. -/
theorem State.setLine_comm (s : State) {l m : LineId} (h : l ≠ m) (x y : Line) :
    (s.setLine l x).setLine m y = (s.setLine m y).setLine l x := by
  have : l.val ≠ m.val := fun e => h (Fin.ext e)
  simp only [State.setLine]
  rw [Vector.set_comm _ _ this]

/-- R39: a descriptor given back by an instance whose request is still queued is offered before the instance is retired, or, from a
list of 16, given up. -/
theorem State.closeInst_delivering {s : State} {l : LineId} {i : Inst} {d : Descriptor} (hp : i.phase = .delivering)
    (hd : i.heldBuffer = some d) (hw : ¬ waitsFor s l i) (c : Closer) :
    s.closeInst l i c =
      if s.bufferList.length < 16 then ((s.withdraw (.delivery l)).offer d fun ds => d :: ds).closeNow l c []
      else (s.withdraw (.delivery l)).closeNow l c (descriptorWords d) := by
  have hidle : s.inProgress (.delivery l) = false := Bool.eq_false_iff.2 (mt (waitsFor_delivering hp).2 hw)
  have hbuffer : i.buffer = d := by rw [Inst.buffer, hd]; rfl
  simp only [State.closeInst, hp, hidle, hbuffer, Bool.false_eq_true, if_false]
  rfl

/-- R39: a descriptor given up. -/
theorem descriptorWords_eq (d : Descriptor) :
    descriptorWords d = [d.address.setWidth 16, (d.address >>> 16).setWidth 16, d.length] := by
  have : wordOf (addressHigh d.address) 0 = (d.address >>> 16).setWidth 16 := by
    have := d.address.isLt
    refine BitVec.eq_of_toNat_eq ?_
    simp only [toNat_wordOf, addressHigh, BitVec.toNat_setWidth, BitVec.toNat_ushiftRight, Nat.shiftRight_eq_div_pow]
    have hzero : (0 : Byte).toNat = 0 := rfl
    omega
  rw [descriptorWords, this]
  rfl

/-- R129: whom an offer reaches depends on the waiting lines and their images alone. -/
theorem State.takerOf_congr {s t : State} (hw : t.waiting = s.waiting) (hl : ∀ l, t.inst l = s.inst l) (d : Descriptor) :
    t.takerOf d = s.takerOf d := by
  have hinst : t.instOf = s.instOf := funext fun l => by rw [State.instOf, State.instOf, hl]
  rw [State.takerOf, State.takerOf, hw, hinst]

/-- R39: the offer of a descriptor given back and the retirement of the instance that held it, in either order. -/
theorem State.closeNow_offer {s : State} {l : LineId} {i : Inst} (hi : (s.line l).inst = some i) (hl : l ∉ s.waiting)
    (d : Descriptor) (c : Closer) (data : List Word) (join : List Descriptor → List Descriptor) :
    ((s.withdraw (.delivery l)).offer d join).closeNow l c data =
      State.setLine
        { ({ retired s l i with answerQueue := s.answerQueue ++ result c.tag 0 data } : State).offer d join with
          reserved := s.reserved - i.reservation - c.reservation }
        l (retiredLine (s.line l) c.clear).clearKeys := by
  have hline : ((s.withdraw (.delivery l)).offer d join).line l = s.line l :=
    (State.offer_line_of_not_waiting (s := s.withdraw (.delivery l)) hl d join).trans (s.withdraw_line _ _)
  have hwaiting : s.waiting.filter (fun m => m != l) = s.waiting :=
    List.filter_eq_self.2 fun m hm => by simpa using fun e : m = l => hl (e ▸ hm)
  have hbus : ∀ o : List Request, ((s.busQueue.filter fun r => r.owner != .delivery l) ++ o).filter
      (fun r => r.owner != .presetFetch l && r.owner != .delivery l) =
        (s.busQueue.filter fun r => r.owner != .presetFetch l && r.owner != .delivery l) ++
          o.filter fun r => r.owner != .presetFetch l && r.owner != .delivery l := by
    intro o
    rw [List.filter_append, List.filter_filter]
    congr 1
    exact List.filter_congr fun r _ => by cases (r.owner != .delivery l) <;> simp
  rw [State.closeNow_eq (hline.symm ▸ hi), hline]
  have htaker : (s.withdraw (.delivery l)).takerOf d = s.takerOf d := State.takerOf_congr rfl (fun _ => rfl) d
  have htaker' : ({ retired s l i with answerQueue := s.answerQueue ++ result c.tag 0 data } : State).takerOf d = s.takerOf d := by
    refine State.takerOf_congr ?_ (fun _ => ?_) d
    · exact hwaiting
    · rfl
  simp only [State.offer, htaker, htaker']
  cases hm : s.takerOf d with
  | none =>
    have := hbus []
    simp only [List.append_nil, List.filter_nil] at this
    simp [retired, State.setSlot, State.setLine, this, State.withdraw, State.slot]
  | some m =>
    have hne : m ≠ l := fun e => hl (e ▸ State.takerOf_mem hm)
    have := hbus [⟨.delivery m, d.address, (s.instOf m).imageSize⟩]
    have hsingle : [(⟨.delivery m, d.address, (s.instOf m).imageSize⟩ : Request)].filter
        (fun r => r.owner != .presetFetch l && r.owner != .delivery l) =
          [⟨.delivery m, d.address, (s.instOf m).imageSize⟩] := by simp [hne]
    rw [hsingle] at this
    have hboth : (s.waiting.filter fun x => x != m).filter (fun x => x != l) = s.waiting.filter fun x => x != m := by
      rw [List.filter_filter, List.filter_congr fun x hx => ?_]
      have : x ≠ l := fun e => hl (e ▸ hx)
      simp [this]
    simp only [State.startDelivery, State.modInst_eq, State.leaveWaiting, State.withdraw, State.placeRequest, retired,
      State.setSlot, State.slot, State.instOf, State.inst, State.line, State.setLine] at this ⊢
    simp only [this, hboth, hwaiting]

/-- An offer leaves the host port as it stands. -/
theorem State.offer_port (s : State) (d : Descriptor) (join : List Descriptor → List Descriptor) (p : Claimant) (r : Nat)
    (q : List Word) (a : Assembler) :
    ({ s with pointer := p, reserved := r, commandQueue := q, assembler := a } : State).offer d join =
      { s.offer d join with pointer := p, reserved := r, commandQueue := q, assembler := a } := by
  have htaker : ({ s with pointer := p, reserved := r, commandQueue := q, assembler := a } : State).takerOf d = s.takerOf d := rfl
  simp only [State.offer, htaker]
  cases s.takerOf d with
  | none => rfl
  | some m =>
    simp only [State.startDelivery, State.modInst_eq]
    rfl

/-- A close gives back the room it reserved. -/
theorem closed_begun (s : State) (l : LineId) (i : Inst) (code : CommandCode) (rest answers : List Word) :
    { retired (s.begun code rest) l i with
      reserved := (s.begun code rest).reserved - i.reservation - code.reservation
      answerQueue := answers } =
    { ({ retired s l i with answerQueue := answers } : State) with
      pointer := .commandUnit
      commandQueue := rest
      assembler := .free } := by
  have hroom : s.reserved + code.reservation - i.reservation - code.reservation = s.reserved - i.reservation := by omega
  simp [retired, State.begun, State.setSlot, State.slot, hroom]

/-- A close without an instance gives back the room it reserved. -/
theorem closed_flush (s : State) (code : CommandCode) (rest answers : List Word) :
    { s.begun code rest with reserved := (s.begun code rest).reserved - code.reservation, answerQueue := answers } =
    { ({ s with answerQueue := answers } : State) with
      pointer := .commandUnit
      commandQueue := rest
      assembler := .free } := by
  simp [State.begun]

/-- A close that offers a descriptor gives back the room it reserved. -/
theorem closed_begun_offer (s : State) (l : LineId) (i : Inst) (d : Descriptor) (join : List Descriptor → List Descriptor)
    (code : CommandCode) (rest answers : List Word) :
    { ({ retired (s.begun code rest) l i with answerQueue := answers } : State).offer d join with
      reserved := (s.begun code rest).reserved - i.reservation - code.reservation } =
    { ({ retired s l i with answerQueue := answers } : State).offer d join with
      pointer := .commandUnit
      commandQueue := rest
      assembler := .free } := by
  have hroom : s.reserved + code.reservation - i.reservation - code.reservation = s.reserved - i.reservation := by omega
  have hbegun : ({ retired (s.begun code rest) l i with answerQueue := answers } : State) =
      { ({ retired s l i with answerQueue := answers } : State) with
        pointer := .commandUnit
        reserved := s.reserved + code.reservation - i.reservation
        commandQueue := rest
        assembler := .free } := by
    simp [retired, State.begun, State.setSlot, State.slot]
  have hreserved : (({ retired s l i with answerQueue := answers } : State).offer d join).reserved = s.reserved - i.reservation :=
    (State.offer_answers _ d join).2
  have hport : (s.begun code rest).reserved - i.reservation - code.reservation =
      (({ retired s l i with answerQueue := answers } : State).offer d join).reserved := hroom.trans hreserved.symm
  rw [hbegun, State.offer_port, hport]

/-! ## CLOSE FORM (R39, R42) -/

/-- R28: CLOSE FORM acts in every phase but CLOSING. -/
theorem phaseCheck_closeForm {i : Inst} (h : i.phase ≠ .closing) : phaseCheck .closeForm i = none := by
  cases hp : i.phase <;> simp_all [phaseCheck]

/-- A line without an instance takes no byte in EDITING. -/
theorem editable_retiredLine (x : Line) (clear : Bool) : Editable (retiredLine x clear) = false := rfl

/-- R39: a CLOSE FORM that retires its instance at once does what its owning block says of the state it leaves. -/
theorem closeForm_doesOn {s u v : State} {tag target : Byte} {serial flag : Word} {rest : List Word} {l : LineId} {i : Inst}
    (h : Offered s .closeForm tag target [serial, flag] rest) (hl : target.toNat = l.val) (hi : (s.line l).inst = some i)
    (hs : serial = 0 ∨ serial = i.serial) (hp : i.phase ≠ .closing)
    (hv : (s.begun .closeForm rest).closeInst l i ⟨tag, decide (lowByte flag ≠ 0), 5⟩ =
      v.setLine l (retiredLine (s.line l) (decide (lowByte flag ≠ 0))).clearKeys)
    (hu : v = { u with pointer := .commandUnit, commandQueue := rest, assembler := .free }) :
    DoesOn .closeForm s rest u l (retiredLine (s.line l) (decide (lowByte flag ≠ 0))) := by
  refine doesOn_of_clearKeys h rfl rfl ?_ rfl rfl (editable_retiredLine _ _) hu
  rw [← hv]
  exact State.onInst_of_ok (s := s.begun .closeForm rest) (c := ⟨.closeForm, tag, target, [serial, flag]⟩) hl hi hs
    (phaseCheck_closeForm hp) _

/-- R39: an instance that waits for its transfer is in no other phase than PRESETTING or DELIVERING. -/
theorem waitsFor_ne_closing {s : State} {l : LineId} {i : Inst} (h : waitsFor s l i) : i.phase ≠ .closing := by
  obtain ⟨r, -, ⟨hp, -⟩ | ⟨hp, -⟩⟩ := h <;> simp [hp]

/-- Settles O27: at once by `State.closeNow_eq`, later by `State.closeInst_later`. -/
theorem closeFormTaken : Obligations.CloseFormTaken := by
  refine ⟨fun s tag target serial flag rest l i h hl hi hs => ⟨fun hp => ?_, fun openTag hp ho hw => ?_⟩,
    fun s tag target serial flag rest l i h hl hi hs hw => ?_⟩
  · have hne : i.phase ≠ .closing := by rcases hp with hp | hp | hp | hp <;> simp [hp]
    refine closeForm_doesOn h hl hi hs hne ?_ (closed_begun s l i .closeForm rest _)
    rw [State.closeInst_now hp]
    exact State.closeNow_eq (s := s.begun .closeForm rest) hi _ []
  · refine closeForm_doesOn h hl hi hs (by simp [hp]) ?_ (closed_begun s l i .closeForm rest _)
    exact State.closeInst_presetting (s := s.begun .closeForm rest) hi hp ho hw _
  · have hne := waitsFor_ne_closing hw
    refine doesOn_of_named h rfl rfl (fun t => rfl) ⟨hl, hi, hs⟩ (phaseCheck_closeForm hne)
      (State.closeInst_later (s := s.begun .closeForm rest) hi (.inr hw) _) rfl

/-- Settles O28: the offer by `State.closeNow_offer`, the descriptor given up by `State.closeNow_eq`. -/
theorem closeFormInDelivering : Obligations.CloseFormInDelivering := by
  intro s tag target serial flag rest l i d h hl hi hs hp hd hw hwait
  have hclose := State.closeInst_delivering (s := s.begun .closeForm rest) hp hd hw ⟨tag, decide (lowByte flag ≠ 0), 5⟩
  refine ⟨fun hroom => ⟨_, State.offer_offers _ d fun ds => d :: ds, ?_⟩, fun hfull => ?_⟩
  · refine closeForm_doesOn h hl hi hs (by simp [hp]) ?_ (closed_begun_offer s l i d (fun ds => d :: ds) .closeForm rest _)
    rw [hclose, if_pos (by exact hroom)]
    exact State.closeNow_offer (s := s.begun .closeForm rest) hi hwait d _ [] _
  · refine closeForm_doesOn h hl hi hs (by simp [hp]) ?_ (closed_begun s l i .closeForm rest _)
    rw [hclose, if_neg (by simpa using hfull), State.closeNow_eq (s := (s.begun .closeForm rest).withdraw (.delivery l)) hi,
      descriptorWords_eq, retired_withdraw]
    rfl

/-! ## RESET LINE (R43, R44) -/

/-- R43: the line-level effects of a RESET LINE. -/
theorem State.flushed_eq (s : State) (l : LineId) :
    (s.modLine l Line.flushed).discardDisplay l = s.setLine l (flushedLine (s.line l)).clearKeys := by
  rw [State.discardDisplay_eq, State.modLine_line_self, State.modLine, State.setLine_setLine]
  rfl

/-- R43: an instance after the line-level effects of a RESET LINE. -/
theorem flushedLine_inst {x : Line} {i : Inst} (h : x.inst = some i) :
    (flushedLine x).clearKeys.inst = some i.discardDisplay := by
  show x.inst.map _ = _
  rw [h]
  rfl

/-- R43, R44: a RESET LINE that clears its line's Key Interpreter does what follows its line-level effects. -/
theorem resetLine_doesOn {s u v : State} {tag target : Byte} {flag : Word} {rest : List Word} {l : LineId} {y : Line}
    (h : Offered s .resetLine tag target [flag] rest) (hl : target.toNat = l.val)
    (hv : ((s.begun .resetLine rest).setLine l (flushedLine (s.line l)).clearKeys).resetInst l
      ⟨tag, decide (lowByte flag ≠ 0), 5⟩ = v.setLine l y.clearKeys)
    (hp : y.pendingKeys = []) (hd : y.releaseDue = false) (he : Editable y = false)
    (hu : v = { u with pointer := .commandUnit, commandQueue := rest, assembler := .free }) :
    DoesOn .resetLine s rest u l y := by
  refine doesOn_of_clearKeys h rfl rfl ?_ hp hd he hu
  rw [← hv]
  simp only [resetLine, lineOf_of_eq hl, State.flushed_eq]
  rfl

/-- R29: the retirement of an instance whose line was changed before. -/
theorem retired_setLine (s : State) (l : LineId) (x : Line) (i : Inst) :
    retired (s.setLine l x) l i.discardDisplay = (retired s l i).setLine l x := by
  simp only [retired, State.setLine, State.setSlot, State.slot]
  rfl

/-- R129: an offer and a change of a line that does not wait can be made in either order. -/
theorem State.offer_setLine {s : State} {l : LineId} (h : l ∉ s.waiting) (x : Line) (d : Descriptor)
    (join : List Descriptor → List Descriptor) : (s.setLine l x).offer d join = (s.offer d join).setLine l x := by
  have htaker : (s.setLine l x).takerOf d = s.takerOf d := by
    refine List.find?_congr fun m hm => ?_
    have hne : m ≠ l := fun e => h (e ▸ hm)
    rw [State.instOf, State.instOf, State.inst, State.inst, State.setLine_line_of_ne _ _ hne]
  simp only [State.offer, htaker]
  cases hm : s.takerOf d with
  | none => rfl
  | some m =>
    have hne : m ≠ l := fun e => h (e ▸ State.takerOf_mem hm)
    have hline : ((s.setLine l x).leaveWaiting m).line m = s.line m := by
      rw [State.leaveWaiting_line, State.setLine_line_of_ne _ _ hne]
    simp only [State.startDelivery, State.modInst_eq, State.instOf, State.inst, hline, State.leaveWaiting_line]
    rw [show (s.setLine l x).leaveWaiting m = (s.leaveWaiting m).setLine l x from rfl, State.setLine_comm _ hne.symm]
    rfl

/-- The last record set on a line stands, whatever the answers between. -/
theorem State.setLine_answers_setLine (s : State) (l : LineId) (x y : Line) (r : Nat) (q : List Word) :
    State.setLine { s.setLine l x with reserved := r, answerQueue := q } l y =
      State.setLine { s with reserved := r, answerQueue := q } l y := by
  simp [State.setLine]

/-- The last record set on a line stands, whatever is offered to other lines between. -/
theorem State.offer_answers_setLine {s : State} {l : LineId} (h : l ∉ s.waiting) (x y : Line) (d : Descriptor)
    (join : List Descriptor → List Descriptor) (r : Nat) (q : List Word) :
    State.setLine { ({ s.setLine l x with answerQueue := q } : State).offer d join with reserved := r } l y =
      State.setLine { ({ s with answerQueue := q } : State).offer d join with reserved := r } l y := by
  have hset : ({ s.setLine l x with answerQueue := q } : State) = State.setLine { s with answerQueue := q } l x := rfl
  rw [hset, State.offer_setLine (s := { s with answerQueue := q }) h]
  simp [State.setLine]

/-- Settles O29: the line-level effects by `State.flushed_eq`, then each end by the lemma of CLOSE FORM. -/
theorem resetLineTaken : Obligations.ResetLineTaken := by
  intro s tag target flag rest h
  refine ⟨fun ht => ?_, fun l hl => ⟨fun hi => ?_, fun i hi => ⟨fun hp => ?_, fun openTag hp ho hw => ?_,
    fun d hp hd hw hwait => ?_, fun hlater => ?_⟩⟩⟩
  · exact answers_of_act (st := .badLine) h rfl rfl (by simp only [resetLine, lineOf_of_lt ht])
  · refine resetLine_doesOn h hl (y := { flushedLine (s.line l) with
        clearPending := decide (lowByte flag ≠ 0) && (s.line l).on && !(s.line l).detached }) ?_ rfl rfl ?_
        (closed_flush s .resetLine rest _)
    · have hnone : (flushedLine (s.line l)).clearKeys.inst = none := by
        show (s.line l).inst.map _ = none
        rw [hi]
        rfl
      simp only [State.resetInst, State.inst, hnone, State.queueClear_eq, State.setLine_line_self, State.setLine_setLine,
        State.closeResult, resultRecord_eq]
      simp [State.post, State.setLine, State.begun, Line.clearKeys, flushedLine, hi]
      exact ⟨rfl, Nat.add_sub_cancel _ _⟩
    · simp [Editable, flushedLine, hi]
  all_goals
    have hi' : (((s.begun .resetLine rest).setLine l (flushedLine (s.line l)).clearKeys).line l).inst =
        some i.discardDisplay := by
      rw [State.setLine_line_self]
      exact flushedLine_inst hi
    have hreset : ∀ c, ((s.begun .resetLine rest).setLine l (flushedLine (s.line l)).clearKeys).resetInst l c =
        ((s.begun .resetLine rest).setLine l (flushedLine (s.line l)).clearKeys).closeInst l i.discardDisplay c := by
      intro c
      simp only [State.resetInst, State.inst, hi']
  · refine resetLine_doesOn h hl ?_ rfl rfl (editable_retiredLine _ _) (closed_begun s l i .resetLine rest _)
    rw [hreset, State.closeInst_now (i := i.discardDisplay) hp, State.closeNow_eq hi', retired_setLine,
      State.setLine_answers_setLine, State.setLine_line_self]
    rfl
  · refine resetLine_doesOn h hl ?_ rfl rfl (editable_retiredLine _ _) (closed_begun s l i .resetLine rest _)
    rw [hreset, State.closeInst_presetting hi' hp ho hw, retired_setLine, State.setLine_answers_setLine,
      State.setLine_line_self]
    rfl
  · have hclose := State.closeInst_delivering (i := i.discardDisplay) (l := l)
      (s := (s.begun .resetLine rest).setLine l (flushedLine (s.line l)).clearKeys) hp hd hw
      ⟨tag, decide (lowByte flag ≠ 0), 5⟩
    refine ⟨fun hroom => ⟨_, State.offer_offers _ d fun ds => d :: ds, ?_⟩, fun hfull => ?_⟩
    · refine resetLine_doesOn h hl ?_ rfl rfl (editable_retiredLine _ _)
        (closed_begun_offer s l i d (fun ds => d :: ds) .resetLine rest _)
      rw [hreset, hclose, if_pos (by exact hroom), State.closeNow_offer hi' hwait, retired_setLine,
        State.offer_answers_setLine (fun hm => hwait (List.mem_filter.1 hm).1), State.setLine_line_self]
      rfl
    · refine resetLine_doesOn h hl ?_ rfl rfl (editable_retiredLine _ _) (closed_begun s l i .resetLine rest _)
      rw [hreset, hclose, if_neg (by simpa using hfull),
        State.closeNow_eq (s := State.withdraw ((s.begun .resetLine rest).setLine l (flushedLine (s.line l)).clearKeys) (.delivery l)) hi',
        descriptorWords_eq, retired_withdraw, retired_setLine, State.setLine_answers_setLine, State.withdraw_line, State.setLine_line_self]
      rfl
  · have hinst : (flushedLine (s.line l)).inst = some i.discardDisplay := flushedLine_inst hi
    refine resetLine_doesOn h hl (v := s.begun .resetLine rest) ?_ rfl rfl ?_ rfl
    · rw [hreset, State.closeInst_later hi' hlater, State.setLine_setLine, lineWith, State.setLine_line_self, hinst]
      rfl
    · rw [hinst]
      rfl

/-! ## ACCEPT ENTRY (R134, R135) -/

/-- R28: ACCEPT ENTRY acts in AWAIT_VERDICT. -/
theorem phaseCheck_acceptEntry {i : Inst} (h : i.phase = .awaitVerdict) : phaseCheck .acceptEntry i = none := by
  simp [phaseCheck, h]

/-- R135: an instance whose entry is renewed. -/
theorem Inst.renewed_opening (i : Inst) (d : FormDef) (serial : Word) :
    Inst.renewed { i with fields := d.fieldNumbers.map (openingRec d) } d serial =
      { restarted d i with
        verdictTimer := .stopped
        serial := serial
        imageSize := 0
        resubmit := false
        insertMode := .overwrite } := by
  rw [Inst.renewed, Inst.enterFirst_opening rfl, restarted, ← freshFields_stale]
  rfl

/-- R194: the verdict of an ACCEPT ENTRY. -/
@[simp] theorem Command.verdict_wordOf (code : CommandCode) (tag target : Byte) (serial : Word) (verdict flag : Byte) :
    (⟨code, tag, target, [serial, wordOf verdict flag]⟩ : Command).verdict = verdict.toNat := by
  simp [Command.verdict, Command.fieldByte, Command.arg]

/-- Settles O38: CLOSE as a close, RENEW at the opening values with a new serial, and any other verdict refused. -/
theorem acceptEntryTaken : Obligations.AcceptEntryTaken := by
  intro s tag target flag serial rest l i hn hp
  have hcheck := phaseCheck_acceptEntry hp
  refine ⟨fun h => ?_, fun h => ?_, fun verdict h1 h2 h => ?_⟩
  · refine doesOn_of_clearKeys h rfl (by simp) ?_ rfl rfl (editable_retiredLine _ _) (closed_begun s l i .acceptEntry rest _)
    have hact := State.onInst_of_ok (s := s.begun .acceptEntry rest) (c := ⟨.acceptEntry, tag, target, [serial, wordOf 1 flag]⟩)
      hn.line hn.inst hn.serial hcheck
    have hflag : flagSet (highByte ((⟨.acceptEntry, tag, target, [serial, wordOf 1 flag]⟩ : Command).arg 1)) =
        decide (flag ≠ 0) := by simp [Command.arg, flagSet]
    rw [acceptEntry, hact]
    have hverdict := Command.verdict_wordOf .acceptEntry tag target serial 1 flag
    simp only [hverdict, State.acceptClose, hflag]
    exact congrArg (State.settle · l)
      (State.closeNow_eq (s := s.begun .acceptEntry rest) hn.inst ⟨tag, decide (flag ≠ 0), 3⟩ [0])
  · refine doesOn_of_named h rfl (by simp) (fun t => rfl) hn hcheck (v := ({ s.begun .acceptEntry rest with
        nextSerial := nextSerialAfter s.takenSerial
        valueMemory := openingMemory (s.form i) i.extent.base s.valueMemory } : State).reply
          ⟨.acceptEntry, tag, target, [serial, wordOf 2 flag]⟩ .ok [s.takenSerial]) ?_ ?_
    · have hd : (s.begun .acceptEntry rest).formOf l = s.form i := State.formOf_of_inst (s := s.begun .acceptEntry rest) hn.inst
      have hserial : (s.begun .acceptEntry rest).takenSerial = s.takenSerial := rfl
      have hopen := State.openingValues_eq (l := l) (i := i)
        (s := { s.begun .acceptEntry rest with nextSerial := nextSerialAfter s.takenSerial }) hn.inst
      have hverdict := Command.verdict_wordOf .acceptEntry tag target serial 2 flag
      simp only [hverdict, State.acceptRenew, hd, hserial]
      show ((State.openingValues _ l).modInst l _).reply _ _ _ = _
      rw [hopen, State.modInst_eq, State.setLine_line_self, State.setLine_setLine]
      simp only [lineWith, Option.map_some]
      erw [Inst.renewed_opening]
      rfl
    · rw [State.reply_eq]
      simp [State.begun, Status.code]
  · have hv1 : verdict.toNat ≠ 1 := fun e => h1 (BitVec.eq_of_toNat_eq e)
    have hv2 : verdict.toNat ≠ 2 := fun e => h2 (BitVec.eq_of_toNat_eq e)
    refine answersOn_of_named (st := .badArgument) h rfl (by simp [hv2]) (fun t => rfl) hn hcheck ?_
    simp only [Command.verdict_wordOf]

end Sys2Proof.Machine
end

section
/-! PROOFS. The commands on fields and on the screen: READ FIELD, WRITE FIELD, SET FIELD STATE, PLACE CURSOR, SHOW MESSAGE, REPAINT
and RETURN ENTRY (R61 to R66, R99, R116, R117, R136). -/

namespace Sys2Proof.Machine

open Sys2Proof.Safety

-- The proofs of the whole text share one memory limit, and each thread takes its part of it.
set_option Elab.async false

theorem State.reply_setLine (u : State) (l : LineId) (y : Line) (c : Command) (st : Status) (data : List Word) :
    (u.setLine l y).reply c st data = (u.reply c st data).setLine l y := by
  rw [State.reply_eq, State.reply_eq]
  rfl

/-- R46, R47: a granule is 8 bytes. -/
theorem State.valueAddress_eq (s : State) (i : Inst) (n : Nat) :
    s.valueAddress i n = 8 * i.extent.base + (s.form i).offset n := by
  rw [State.valueAddress, Nat.mul_comm]
  rfl

/-- What a command row does with a command that is answered and changes its line alone. -/
theorem doesOn_of_reply {s : State} {code : CommandCode} {tag target : Byte} {args rest : List Word} {row : Instr} {l : LineId}
    {i : Inst} {y : Line} (h : Offered s code tag target args rest) {accepts : Command → Bool} {f : Command → State → State}
    {act : LineId → Inst → State → State} (hr : s.effect row = s.takeCommand accepts f)
    (ha : accepts ⟨code, tag, target, args⟩ = true)
    (hf : ∀ t : State, f ⟨code, tag, target, args⟩ t = t.onInst ⟨code, tag, target, args⟩ act)
    (hn : Named s target (⟨code, tag, target, args⟩ : Command).serial l i) (hp : phaseCheck code i = none) {st : Status}
    {data : List Word}
    (hact : act l i (s.begun code rest) = ((s.begun code rest).setLine l y).reply ⟨code, tag, target, args⟩ st data) :
    DoesOn row s rest { s with answerQueue := s.answerQueue ++ result tag st.code data } l y := by
  refine doesOn_of_named h hr ha hf hn hp (v := (s.begun code rest).reply ⟨code, tag, target, args⟩ st data) ?_ ?_
  · rw [hact, State.reply_setLine]
  · rw [State.reply_eq]
    simp [State.begun]

/-! ## The record of a field -/

/-- R51: a field's record replaced. -/
theorem Inst.modField_eq (i : Inst) (n : Nat) (f : FieldRec → FieldRec) : i.modField n f = withField i n (f (i.field n)) := rfl

theorem field_withField {i : Inst} {n : Nat} (h : n < i.fields.length) (r : FieldRec) : (withField i n r).field n = r := by
  simp [withField, Inst.field, h]

theorem field_withField_of_ne {i : Inst} {n m : Nat} (h : m ≠ n) (r : FieldRec) : (withField i n r).field m = i.field m := by
  simp [withField, Inst.field, List.getD_eq_getElem?_getD, List.getElem?_set_ne (Ne.symm h)]

theorem withField_withField (i : Inst) (n : Nat) (r q : FieldRec) : withField (withField i n r) n q = withField i n q := by
  simp [withField]

/-- R55: the protection of a field whose record is replaced. -/
theorem fieldProtected_withField {i : Inst} {n : Nat} (h : n < i.fields.length) (r : FieldRec) (d : FormDef) :
    (withField i n r).fieldProtected d n = r.protection (d.field n) := by
  rw [Inst.fieldProtected, field_withField h]

/-- R53: a check sets the invalid flag and at most the stale mark. -/
theorem FieldRec.setInvalid_stale (r : FieldRec) (b : Bool) :
    { r.setInvalid b with staleFrom := some 0 } = { r with invalid := b, staleFrom := some 0 } := by
  unfold FieldRec.setInvalid FieldRec.afterHighlight
  split <;> rfl

/-- R195: the field state byte, its flags at their bits. -/
theorem FieldRec.stateByte_eq (r : FieldRec) (f : FieldDef) :
    r.stateByte f = byte (r.touched.toNat + 2 * r.invalid.toNat + 4 * r.errorMark.toNat + 8 * (r.protection f).toNat +
      16 * match r.override with | .none => 0 | .isProtected => 1 | .unprotected => 2) := by
  have hbits : ∀ (a b c d : Bool) (o : Override),
      flagByte a ||| (flagByte b <<< 1) ||| (flagByte c <<< 2) ||| (flagByte d <<< 3) ||| (o.code <<< 4) =
        byte (a.toNat + 2 * b.toNat + 4 * c.toNat + 8 * d.toNat +
          16 * match o with | .none => 0 | .isProtected => 1 | .unprotected => 2) := by
    intro a b c d o
    revert a b c d
    cases o <;> decide
  exact hbits _ _ _ _ _

/-! ## READ FIELD (R61) -/

/-- R61: READ FIELD acts in every phase but PRESETTING. -/
theorem phaseCheck_readField {i : Inst} (h : i.phase ≠ .presetting) : phaseCheck .readField i = none := by
  cases hp : i.phase <;> simp_all [phaseCheck]

/-- Settles O31: BAD_FIELD, or the figures of the field. -/
theorem readFieldTaken : Obligations.ReadFieldTaken := by
  intro s tag target serial field rest l i h hn hp
  have hcheck := phaseCheck_readField hp
  have hi := State.instOf_of_inst (s := s.begun .readField rest) hn.inst
  split_ifs with hfield
  · exact answersOn_of_named (st := .badField) h rfl rfl (fun t => rfl) hn hcheck (if_pos hfield)
  · refine answersOn_of_named (st := .ok) h rfl rfl (fun t => rfl) hn hcheck ((if_neg hfield).trans ?_)
    show (s.begun .readField rest).reply _ .ok (wordOf _ (FieldRec.stateByte _ _) :: _) = _
    rw [FieldRec.stateByte_eq]
    rfl

/-! ## WRITE FIELD (R62, R63) -/

/-- R63: WRITE FIELD acts in PAINTING and EDITING. -/
theorem phaseCheck_writeField {i : Inst} (h : i.phase = .painting ∨ i.phase = .editing) : phaseCheck .writeField i = none := by
  rcases h with h | h <;> simp [phaseCheck, h]

/-- R63: an instance after a host write of a field. -/
def hostWritten (d : FormDef) (i : Inst) (n : Nat) (v : List Byte) : Inst :=
  let j := withField i n
    { i.field n with
      valueLength := v.length
      touched := false
      errorMark := false
      invalid := !fieldCheck (d.field n) v
      staleFrom := some 0 }
  if i.cursorField = some n then atCursor j (some n) 0 else j

/-- An operation on the instance of a line whose instance is known. -/
theorem State.modInst_setLine (u : State) (l : LineId) (x : Line) (i : Inst) (f : Inst → Inst) :
    (u.setLine l { x with inst := some i }).modInst l f = u.setLine l { x with inst := some (f i) } := by
  rw [State.modInst_eq, State.setLine_line_self, State.setLine_setLine]
  rfl

theorem State.instOf_setLine (u : State) (l : LineId) (x : Line) (i : Inst) :
    (u.setLine l { x with inst := some i }).instOf l = i :=
  State.instOf_of_inst (by rw [State.setLine_line_self])

/-- R53: a check of a value as it stands, on a line whose instance is known. -/
theorem State.recheck_setLine (u : State) (l : LineId) (x : Line) (i : Inst) (n : Nat) {v : List Byte}
    (hv : Memory.readBytes u.valueMemory (u.valueAddress i n) (i.field n).valueLength = v) :
    (u.setLine l { x with inst := some i }).recheck l n =
      u.setLine l { x with inst := some (i.modField n fun r => r.setInvalid !(fieldCheck ((u.form i).field n) v)) } := by
  have hi := State.instOf_setLine u l x i
  have hvalue : (u.setLine l { x with inst := some i }).value l n = v := by
    rw [State.value, hi]
    exact hv
  have hform : (u.setLine l { x with inst := some i }).formOf l = u.form i := by
    rw [State.formOf, hi]
    rfl
  rw [State.recheck, State.modField, hvalue, hform, State.modInst_setLine]

/-- R63: a host write: the bytes in value memory and the instance after it. -/
theorem State.hostWrite_eq {s : State} {l : LineId} {i : Inst} (h : (s.line l).inst = some i) {n : Nat}
    (hn : n < i.fields.length) (v : List Byte) :
    s.hostWrite l n v =
      ({ s with valueMemory := Memory.writeBytes s.valueMemory (s.valueAddress i n) v } : State).setLine l
        (lineWith s l (hostWritten (s.form i) i n v)) := by
  have hput : s.putValue l n v =
      ({ s with valueMemory := Memory.writeBytes s.valueMemory (s.valueAddress i n) v } : State).setLine l
        { s.line l with inst := some (withField i n { i.field n with valueLength := v.length }) } := by
    rw [State.putValue, State.modField, State.modInst_eq, State.instOf_of_inst h]
    show State.setLine _ l { s.line l with inst := (s.line l).inst.map _ } = _
    rw [h]
    rfl
  have hclear (r : FieldRec) (f : FieldRec → FieldRec) : (withField i n r).modField n f = withField i n (f r) := by
    rw [Inst.modField_eq, withField_withField, field_withField hn]
  have hvalue : Memory.readBytes (Memory.writeBytes s.valueMemory (s.valueAddress i n) v) (s.valueAddress i n) v.length = v :=
    Memory.readBytes_writeBytes v _ _
  rw [State.hostWrite, hput, State.modField, State.modInst_setLine, hclear, State.recheck_setLine (v := v), hclear,
    State.modInst_setLine]
  · simp only [hclear, FieldRec.setInvalid_stale]
    by_cases hc : i.cursorField = some n
    · simp only [hostWritten, lineWith, withField, atCursor, hc, if_true]
      rfl
    · simp only [hostWritten, lineWith, withField, hc, if_false]
      rfl
  · rw [field_withField hn]
    exact hvalue

/-- R62: the bytes a command carries are all printable. -/
theorem all_printable_eq_false_iff (bs : List Byte) : bs.all printable = false ↔ ∃ b ∈ bs, printable b = false := by
  simp

theorem length_bytesOfWords (ws : List Word) : (bytesOfWords ws).length = 2 * ws.length := by
  induction ws with
  | nil => rfl
  | cons w ws ih =>
    rw [bytesOfWords, List.length_cons, List.length_cons, ih, List.length_cons]
    omega

/-- R62: as many bytes as the length says. -/
theorem length_carried {length : Nat} {ws : List Word} (h : ws.length = (length + 1) / 2) :
    ((bytesOfWords ws).take length).length = length := by
  rw [List.length_take, length_bytesOfWords]
  omega

/-- R63: the record of the field after a host write. -/
theorem hostWritten_field {d : FormDef} {i : Inst} {n : Nat} (h : n < i.fields.length) (v : List Byte) :
    (hostWritten d i n v).field n =
      { i.field n with
        valueLength := v.length
        touched := false
        errorMark := false
        invalid := !fieldCheck (d.field n) v
        staleFrom := some 0 } := by
  rw [hostWritten]
  split
  · exact field_withField h _
  · exact field_withField h _

/-- Settles O32: the refusals one after the other, or the value by `State.hostWrite_eq`. -/
theorem writeFieldTaken : Obligations.WriteFieldTaken := by
  intro s tag target n len serial tail rest l i h hn hp hfields
  have hcheck := phaseCheck_writeField hp
  have hrefused (st : Status) (hact : firstOf
      [(decide ((s.form i).fields.length ≤ n.toNat), Status.badField),
       (decide (((s.form i).field n.toNat).length < len.toNat), .badValue),
       (!decide (tail.length = (len.toNat + 1) / 2), .badArgument),
       (!((bytesOfWords tail).take len.toNat).all printable, .badValue)] = some st) :
      AnswersOn .writeField s rest (result tag st.code []) l := by
    refine answersOn_of_named h rfl rfl (fun t => rfl) hn hcheck ?_
    simp only [Command.fieldByte, Command.highArg, Command.tailWords, Command.arg, List.getD_cons_succ, List.getD_cons_zero,
      lowByte_wordOf, highByte_wordOf, List.drop_succ_cons, List.drop_zero, carriedWordsOk, carriedBytes, FormDef.fieldCount,
      State.begun_form, hact]
  by_cases h1 : i.fields.length ≤ n.toNat
  · rw [if_pos h1]
    rw [hfields] at h1
    exact hrefused .badField (by simp [firstOf, h1])
  rw [if_neg h1]
  have h1' : ¬(s.form i).fields.length ≤ n.toNat := by rwa [← hfields]
  by_cases h2 : ((s.form i).field n.toNat).length < len.toNat
  · rw [if_pos h2]
    exact hrefused .badValue (by simp [firstOf, h1', h2])
  rw [if_neg h2]
  by_cases h3 : tail.length = (len.toNat + 1) / 2
  swap
  · rw [if_pos h3]
    exact hrefused .badArgument (by simp [firstOf, h1', h2, h3])
  rw [if_neg (not_not.2 h3)]
  by_cases h4 : ((bytesOfWords tail).take len.toNat).all printable = false
  · rw [if_pos ((all_printable_eq_false_iff _).1 h4)]
    exact hrefused .badValue (by simp only [firstOf, h1', h2, h3, h4]; rfl)
  rw [if_neg (mt (all_printable_eq_false_iff _).2 h4)]
  rw [Bool.not_eq_false] at h4
  have hwrite := State.hostWrite_eq (s := s.begun .writeField rest) hn.inst (not_le.1 h1) ((bytesOfWords tail).take len.toNat)
  refine ⟨_, wrote_writeBytes _ _ _, ?_⟩
  refine doesOn_of_named h rfl rfl (fun t => rfl) hn hcheck (v := ({ s.begun .writeField rest with
      valueMemory := Memory.writeBytes s.valueMemory (8 * i.extent.base + (s.form i).offset n.toNat)
        ((bytesOfWords tail).take len.toNat) } : State).reply ⟨.writeField, tag, target, serial :: wordOf n len :: tail⟩ .ok
        [if fieldCheck ((s.form i).field n.toNat) ((bytesOfWords tail).take len.toNat) = true then 0 else 1]) ?_ ?_
  · have hnone : firstOf
      [(decide ((s.form i).fields.length ≤ n.toNat), Status.badField),
       (decide (((s.form i).field n.toNat).length < len.toNat), .badValue),
       (!decide (tail.length = (len.toNat + 1) / 2), .badArgument),
       (!((bytesOfWords tail).take len.toNat).all printable, .badValue)] = none := by
      simp only [firstOf, h1', h2, h3, h4]
      rfl
    simp only [Command.fieldByte, Command.highArg, Command.tailWords, Command.arg, List.getD_cons_succ, List.getD_cons_zero,
      lowByte_wordOf, highByte_wordOf, List.drop_succ_cons, List.drop_zero, carriedWordsOk, carriedBytes, FormDef.fieldCount,
      State.begun_form, hnone, hwrite]
    rw [lineWith, State.instOf_setLine, hostWritten_field (not_le.1 h1), hostWritten, length_carried h3, State.reply_setLine,
      State.valueAddress_eq]
    simp only [State.begun_form]
    cases fieldCheck ((s.form i).field n.toNat) ((bytesOfWords tail).take len.toNat) <;> rfl
  · rw [State.reply_eq]
    simp [State.begun, Status.code]

/-! ## SET FIELD STATE (R54, R65, R66) -/

/-- R65: SET FIELD STATE acts in PAINTING, EDITING, AWAIT_BUFFER and AWAIT_VERDICT. -/
theorem phaseCheck_setFieldState {i : Inst}
    (h : i.phase = .painting ∨ i.phase = .editing ∨ i.phase = .awaitBuffer ∨ i.phase = .awaitVerdict) :
    phaseCheck .setFieldState i = none := by
  rcases h with h | h | h | h <;> simp [phaseCheck, h]

/-- The entries of a list of field numbers from one on, and those before it. -/
theorem lt_of_mem_drop_range {N k m : Nat} (h : m ∈ (List.range N).drop k) : k ≤ m := by
  rw [List.range_eq_range', List.drop_range'] at h
  simpa using (List.mem_range'_1.1 h).1

theorem lt_of_mem_take_range {N k m : Nat} (h : m ∈ (List.range N).take k) : m < k := by
  obtain ⟨a, ha, rfl⟩ := List.mem_take_iff_getElem.1 h
  simp at ha ⊢
  omega

/-- R66: the next unprotected field in field order, wrapping. -/
theorem Inst.nextOpenWrapping_eq (i : Inst) {d : FormDef} {n : Nat} (h : n < d.fields.length) :
    i.nextOpenWrapping d n = ((List.range d.fields.length).rotate (n + 1)).find? fun m => !i.fieldProtected d m := by
  have hsplit := List.take_append_drop (n + 1) (List.range d.fields.length)
  have hlater : (i.openFields d).find? (fun m => decide (n < m)) =
      ((List.range d.fields.length).drop (n + 1)).find? fun m => !i.fieldProtected d m := by
    rw [Inst.openFields, FormDef.fieldNumbers, List.find?_filter]
    conv_lhs => rw [← hsplit]
    rw [List.find?_append, List.find?_eq_none.2, Option.none_or]
    · refine List.find?_congr fun m hm => ?_
      have := lt_of_mem_drop_range hm
      simp
      omega
    · intro m hm
      have := lt_of_mem_take_range hm
      simp
      omega
  rw [List.rotate_eq_drop_append_take (by simp; omega), List.find?_append, Inst.nextOpenWrapping, hlater]
  cases hd : ((List.range d.fields.length).drop (n + 1)).find? fun m => !i.fieldProtected d m with
  | some m => rfl
  | none =>
    rw [Inst.openFields_head?, Option.none_or]
    conv_lhs => rw [← hsplit]
    rw [List.find?_append, hd, Option.or_none]

/-- R65, R66: the override changes and the cursor is settled. -/
theorem Inst.overrideField_eq (i : Inst) {d : FormDef} {n : Nat} (h : n < d.fields.length) (o : Override) :
    i.overrideField d n o = overridden d i n o := by
  unfold Inst.overrideField Inst.settleCursor overridden
  rw [Inst.modField_eq, Inst.enterFirst_eq, Inst.openFields_head?, Inst.nextOpenWrapping_eq _ h]
  have hcursor : (withField i n { i.field n with override := o }).cursorField = i.cursorField := rfl
  rw [hcursor]
  dsimp only
  cases ((List.range d.fields.length).rotate (n + 1)).find? fun m =>
    !(withField i n { i.field n with override := o }).fieldProtected d m <;> rfl

/-- R65: what a row of SET FIELD STATE does whose operation is one of the five. -/
theorem setFieldState_taken {s : State} {tag target n op : Byte} {serial : Word} {rest : List Word} {l : LineId} {i j : Inst}
    {row : Instr} {f : Inst → FormDef → Nat → Inst}
    (h : Offered s .setFieldState tag target [serial, wordOf n op] rest) (hn : Named s target serial l i)
    (hp : i.phase = .painting ∨ i.phase = .editing ∨ i.phase = .awaitBuffer ∨ i.phase = .awaitVerdict)
    (hfield : n.toNat < (s.form i).fields.length) (hop : fieldOperation op.toNat = some f)
    {accepts : Command → Bool} (hr : s.effect row = s.takeCommand accepts setFieldState)
    (ha : accepts ⟨.setFieldState, tag, target, [serial, wordOf n op]⟩ = true) (hj : f i (s.form i) n.toNat = j)
    (hslot : j.slot = i.slot) :
    DoesOn row s rest
      { s with
        answerQueue := s.answerQueue ++
          result tag 0
            [wordOf (match j.cursorField with | some m => byte m | none => 255)
              (if j.fieldProtected (s.form i) n.toNat = true then 1 else 0)] }
      l (lineWith s l j) := by
  refine doesOn_of_reply (st := .ok) h hr ha (fun t => rfl) hn (phaseCheck_setFieldState hp) ?_
  simp only [Command.fieldByte, Command.highArg, Command.arg, List.getD_cons_succ, List.getD_cons_zero, lowByte_wordOf,
    highByte_wordOf, FormDef.fieldCount, State.begun_form, hop, if_neg (not_le.2 hfield)]
  have hset : (s.begun .setFieldState rest).modInst l (fun i => f i (s.form i) n.toNat) =
      (s.begun .setFieldState rest).setLine l (lineWith s l j) := by
    rw [State.modInst_eq, State.begun_line, hn.inst, Option.map_some, hj]
    rfl
  have hform : ((s.begun .setFieldState rest).setLine l (lineWith s l j)).formOf l = s.form i := by
    rw [State.formOf, lineWith, State.instOf_setLine, State.form, hslot]
    rfl
  rw [hset, hform, lineWith, State.instOf_setLine]
  rfl

theorem overridden_slot (d : FormDef) (i : Inst) (n : Nat) (o : Override) : (overridden d i n o).slot = i.slot := by
  unfold overridden
  dsimp only
  split_ifs <;> rfl

/-- Settles O33: the three operations, each by `Inst.overrideField_eq`. -/
theorem fieldProtectionSet : Obligations.FieldProtectionSet := by
  intro s tag target n serial rest l i row op o hrow h hn hp hfields hfield
  have hfield' : n.toNat < (s.form i).fields.length := hfields ▸ hfield
  have hset := Inst.overrideField_eq i hfield' o
  simp only [List.mem_cons, Prod.mk.injEq, List.not_mem_nil, or_false] at hrow
  rcases hrow with ⟨rfl, rfl, rfl⟩ | ⟨rfl, rfl, rfl⟩ | ⟨rfl, rfl, rfl⟩
  · exact setFieldState_taken h hn hp hfield' (op := 1) rfl rfl (by simp [Command.highArg, Command.arg]) hset
      (overridden_slot _ _ _ _)
  · exact setFieldState_taken h hn hp hfield' (op := 2) rfl rfl (by simp [Command.highArg, Command.arg]) hset
      (overridden_slot _ _ _ _)
  · exact setFieldState_taken h hn hp hfield' (op := 3) rfl rfl (by simp [Command.highArg, Command.arg]) hset
      (overridden_slot _ _ _ _)

/-- R65: an operation that is none of the five. -/
theorem fieldOperation_of_undefined {op : Byte} (h : op = 0 ∨ 5 < op.toNat) : fieldOperation op.toNat = none := by
  rcases h with rfl | h
  · rfl
  · obtain ⟨k, hk⟩ : ∃ k, op.toNat = k + 6 := ⟨op.toNat - 6, by omega⟩
    rw [hk]
    rfl

/-- R65: the row of a SET FIELD STATE command takes it. -/
theorem setFieldState_row (s : State) (tag target n op : Byte) (serial : Word) :
    ∃ accepts : Command → Bool,
      s.effect (Command.row ⟨.setFieldState, tag, target, [serial, wordOf n op]⟩) = s.takeCommand accepts setFieldState ∧
        accepts ⟨.setFieldState, tag, target, [serial, wordOf n op]⟩ = true := by
  have hop : Command.highArg ⟨.setFieldState, tag, target, [serial, wordOf n op]⟩ = op.toNat := by
    simp [Command.highArg, Command.arg]
  simp only [Command.row, hop]
  split
  case h_1 h => exact ⟨_, rfl, by simp [hop, h]⟩
  case h_2 h => exact ⟨_, rfl, by simp [hop, h]⟩
  case h_3 h => exact ⟨_, rfl, by simp [hop, h]⟩
  case h_4 h => exact ⟨_, rfl, by simp [hop, h]⟩
  case h_5 h2 h3 h4 h5 => exact ⟨_, rfl, by simp [hop]; exact ⟨⟨⟨h2, h3⟩, h4⟩, h5⟩⟩

/-- Settles O34: MARK and UNMARK by the record of the field, and the two refusals. -/
theorem fieldMarksAndRefusals : Obligations.FieldMarksAndRefusals := by
  refine ⟨fun s tag target n serial rest l i row op mark hrow h hn hp hfields hfield => ?_,
    fun s tag target n op serial rest l i h hn hp => ⟨fun hfield => ?_, fun hfield hop => ?_⟩⟩
  · have hfield' : n.toNat < (s.form i).fields.length := hfields ▸ hfield
    have hprotected : (withField i n.toNat { i.field n.toNat with errorMark := mark, staleFrom := some 0 }).fieldProtected
        (s.form i) n.toNat = i.fieldProtected (s.form i) n.toNat := fieldProtected_withField hfield _ _
    rw [← hprotected]
    simp only [List.mem_cons, Prod.mk.injEq, List.not_mem_nil, or_false] at hrow
    rcases hrow with ⟨rfl, rfl, rfl⟩ | ⟨rfl, rfl, rfl⟩
    · exact setFieldState_taken h hn hp hfield' (op := 4) rfl rfl (by simp [Command.highArg, Command.arg]) rfl rfl
    · exact setFieldState_taken h hn hp hfield' (op := 5) rfl rfl (by simp [Command.highArg, Command.arg]) rfl rfl
  · obtain ⟨accepts, hr, ha⟩ := setFieldState_row s tag target n op serial
    refine answersOn_of_named (st := .badField) h hr ha (fun t => rfl) hn (phaseCheck_setFieldState hp) ?_
    simp only [Command.fieldByte, Command.arg, List.getD_cons_succ, List.getD_cons_zero, lowByte_wordOf, FormDef.fieldCount,
      State.begun_form, if_pos hfield]
  · have hundefined : ¬(((op.toNat = 2 ∨ op.toNat = 3) ∨ op.toNat = 4) ∨ op.toNat = 5) := by
      rcases hop with rfl | hop
      · decide
      · omega
    refine answersOn_of_named (st := .badArgument) h rfl ?_ (fun t => rfl) hn (phaseCheck_setFieldState hp) ?_
    · simpa [Command.highArg, Command.arg] using hundefined
    · simp only [Command.fieldByte, Command.highArg, Command.arg, List.getD_cons_succ, List.getD_cons_zero, lowByte_wordOf,
        highByte_wordOf, FormDef.fieldCount, State.begun_form, if_neg (not_le.2 hfield), fieldOperation_of_undefined hop]

/-! ## PLACE CURSOR, SHOW MESSAGE, REPAINT (R99, R116, R117) -/

theorem phaseCheck_placeCursor {i : Inst} (h : i.phase = .painting ∨ i.phase = .editing) : phaseCheck .placeCursor i = none := by
  rcases h with h | h <;> simp [phaseCheck, h]

theorem phaseCheck_showMessage {i : Inst} (h : i.phase ≠ .closing) : phaseCheck .showMessage i = none := by
  cases hp : i.phase <;> simp_all [phaseCheck]

theorem phaseCheck_repaint {i : Inst} (h : i.phase ≠ .presetting) (h' : i.phase ≠ .closing) : phaseCheck .repaint i = none := by
  cases hp : i.phase <;> simp_all [phaseCheck]

/-- R99: PLACE CURSOR. -/
theorem placeCursor_taken {s : State} {tag target n pos : Byte} {serial : Word} {rest : List Word} {l : LineId} {i : Inst}
    (h : Offered s .placeCursor tag target [serial, wordOf n pos] rest) (hn : Named s target serial l i)
    (hp : i.phase = .painting ∨ i.phase = .editing) :
    if (s.form i).fields.length ≤ n.toNat ∨ i.fieldProtected (s.form i) n.toNat = true then
      AnswersOn .placeCursor s rest (result tag 21 []) l
    else if (i.field n.toNat).valueLength < pos.toNat then AnswersOn .placeCursor s rest (result tag 23 []) l
    else
      DoesOn .placeCursor s rest { s with answerQueue := s.answerQueue ++ result tag 0 [] } l
        (lineWith s l (atCursor i (some n.toNat) pos.toNat)) := by
  have hcheck := phaseCheck_placeCursor hp
  have hrefused (st : Status) (hact : firstOf
      [(decide ((s.form i).fields.length ≤ n.toNat) || i.fieldProtected (s.form i) n.toNat, Status.badField),
       (decide ((i.field n.toNat).valueLength < pos.toNat), .badArgument)] = some st) :
      AnswersOn .placeCursor s rest (result tag st.code []) l := by
    refine answersOn_of_named h rfl rfl (fun t => rfl) hn hcheck ?_
    simp only [Command.fieldByte, Command.highArg, Command.arg, List.getD_cons_succ, List.getD_cons_zero, lowByte_wordOf,
      highByte_wordOf, FormDef.fieldCount, State.begun_form, hact]
  split_ifs with h1 h2
  · exact hrefused .badField (by simp [firstOf, h1])
  · exact hrefused .badArgument (by simp [firstOf, h1, h2])
  · refine doesOn_of_reply (st := .ok) h rfl rfl (fun t => rfl) hn hcheck ?_
    have hnone : firstOf
        [(decide ((s.form i).fields.length ≤ n.toNat) || i.fieldProtected (s.form i) n.toNat, Status.badField),
         (decide ((i.field n.toNat).valueLength < pos.toNat), .badArgument)] = none := by
      simp [firstOf, h1, h2]
    simp only [Command.fieldByte, Command.highArg, Command.arg, List.getD_cons_succ, List.getD_cons_zero, lowByte_wordOf,
      highByte_wordOf, FormDef.fieldCount, State.begun_form, hnone]
    rw [State.modInst_eq, State.begun_line, hn.inst]
    rfl

/-- R116: an instance whose message is replaced. -/
theorem Inst.showMessage_eq (i : Inst) (m : List Byte) :
    i.showMessage m = { i with message := m, messageStale := if i.phase = .presetting then i.messageStale else true } := by
  by_cases h : i.phase = .presetting <;> simp [Inst.showMessage, h]

/-- R116: SHOW MESSAGE. -/
theorem showMessage_taken {s : State} {tag target len high : Byte} {serial : Word} {tail rest : List Word} {l : LineId} {i : Inst}
    (h : Offered s .showMessage tag target (serial :: wordOf len high :: tail) rest) (hn : Named s target serial l i)
    (hp : i.phase ≠ .closing) :
    if 80 < len.toNat then AnswersOn .showMessage s rest (result tag 22 []) l
    else if tail.length ≠ (len.toNat + 1) / 2 then AnswersOn .showMessage s rest (result tag 23 []) l
    else if ∃ b ∈ (bytesOfWords tail).take len.toNat, printable b = false then
      AnswersOn .showMessage s rest (result tag 22 []) l
    else
      DoesOn .showMessage s rest { s with answerQueue := s.answerQueue ++ result tag 0 [] } l
        (lineWith s l
          { i with
            message := (bytesOfWords tail).take len.toNat
            messageStale := if i.phase = .presetting then i.messageStale else true }) := by
  have hcheck := phaseCheck_showMessage hp
  rw [← Inst.showMessage_eq]
  have hrefused (st : Status) (hact : firstOf
      [(decide (80 < len.toNat), Status.badValue),
       (!decide (tail.length = (len.toNat + 1) / 2), .badArgument),
       (!((bytesOfWords tail).take len.toNat).all printable, .badValue)] = some st) :
      AnswersOn .showMessage s rest (result tag st.code []) l := by
    refine answersOn_of_named h rfl rfl (fun t => rfl) hn hcheck ?_
    simp only [Command.messageLength, Command.tailWords, Command.arg, List.getD_cons_succ, List.getD_cons_zero, lowByte_wordOf,
      List.drop_succ_cons, List.drop_zero, carriedWordsOk, carriedBytes, hact]
  split_ifs with h1 h2 h3
  · exact hrefused .badValue (by simp [firstOf, h1])
  · exact hrefused .badArgument (by simp [firstOf, h1, h2])
  · rw [← all_printable_eq_false_iff] at h3
    exact hrefused .badValue (by simp only [firstOf, h1, not_not.1 h2, h3]; rfl)
  · rw [← all_printable_eq_false_iff, Bool.not_eq_false] at h3
    refine doesOn_of_reply (st := .ok) h rfl rfl (fun t => rfl) hn hcheck ?_
    have hnone : firstOf
        [(decide (80 < len.toNat), Status.badValue),
         (!decide (tail.length = (len.toNat + 1) / 2), .badArgument),
         (!((bytesOfWords tail).take len.toNat).all printable, .badValue)] = none := by
      simp only [firstOf, h1, not_not.1 h2, h3]
      rfl
    simp only [Command.messageLength, Command.tailWords, Command.arg, List.getD_cons_succ, List.getD_cons_zero, lowByte_wordOf,
      List.drop_succ_cons, List.drop_zero, carriedWordsOk, carriedBytes, hnone]
    rw [State.modInst_eq, State.begun_line, hn.inst]
    rfl

/-- Settles O35: each command by its owning block's effect on the line. -/
theorem screenCommandsTaken : Obligations.ScreenCommandsTaken := by
  refine ⟨fun s tag target n pos serial rest l i h hn hp => placeCursor_taken h hn hp,
    fun s tag target len high serial tail rest l i h hn hp => showMessage_taken h hn hp,
    fun s tag target serial rest l i h hn hp hp' => ?_⟩
  refine doesOn_of_reply (st := .ok) h rfl rfl (fun t => rfl) hn (phaseCheck_repaint hp hp') ?_
  rw [State.refresh_eq (s := s.begun .repaint rest) hn.inst]
  rfl

/-! ## RETURN ENTRY (R136) -/

theorem phaseCheck_returnEntry {i : Inst} (h : i.phase = .awaitBuffer ∨ i.phase = .awaitVerdict) :
    phaseCheck .returnEntry i = none := by
  rcases h with h | h <;> simp [phaseCheck, h]

/-- R136: the instance of an entry that is returned. -/
theorem Inst.returned_eq (i : Inst) (n : Nat) (m : List Byte) :
    i.returned n m =
      { atCursor (withField i n { i.field n with errorMark := true, staleFrom := some 0 }) (some n) 0 with
        phase := .editing
        verdictTimer := .stopped
        reservation := 0
        message := m
        messageStale := true } := by
  rw [Inst.returned, Inst.showMessage_eq]
  rfl

/-- R136: the line of an entry that is returned leaves the waiting-lines queue and gives its reserved words back. -/
theorem State.returned_eq {s : State} {l : LineId} {i : Inst} (h : (s.line l).inst = some i) (f : Inst → Inst) :
    ((s.leaveWaiting l).release i.reservation).modInst l f =
      ({ s with waiting := s.waiting.filter fun m => m != l, reserved := s.reserved - i.reservation } : State).setLine l
        (lineWith s l (f i)) := by
  rw [State.modInst_eq]
  show State.setLine _ l { s.line l with inst := (s.line l).inst.map f } = _
  rw [h]
  rfl

/-- Settles O39: the refusals one after the other, or the entry back in EDITING. -/
theorem returnEntryTaken : Obligations.ReturnEntryTaken := by
  intro s tag target n len serial tail rest l i h hn hp
  have hcheck := phaseCheck_returnEntry hp
  have hrefused (st : Status) (hact : firstOf
      [(decide ((s.form i).fields.length ≤ n.toNat) || i.fieldProtected (s.form i) n.toNat, Status.badField),
       (decide (80 < len.toNat), .badValue),
       (!decide (tail.length = (len.toNat + 1) / 2), .badArgument),
       (!((bytesOfWords tail).take len.toNat).all printable, .badValue)] = some st) :
      AnswersOn .returnEntry s rest (result tag st.code []) l := by
    refine answersOn_of_named h rfl rfl (fun t => rfl) hn hcheck ?_
    simp only [Command.fieldByte, Command.highArg, Command.tailWords, Command.arg, List.getD_cons_succ, List.getD_cons_zero,
      lowByte_wordOf, highByte_wordOf, List.drop_succ_cons, List.drop_zero, carriedWordsOk, carriedBytes, FormDef.fieldCount,
      State.begun_form, hact]
  split_ifs with h1 h2 h3 h4
  · exact hrefused .badField (by simp [firstOf, h1])
  · exact hrefused .badValue (by simp [firstOf, h1, h2])
  · exact hrefused .badArgument (by simp [firstOf, h1, h2, h3])
  · rw [← all_printable_eq_false_iff] at h4
    exact hrefused .badValue (by simp [firstOf, h1, h2, h3, h4])
  · rw [← all_printable_eq_false_iff, Bool.not_eq_false] at h4
    have hnone : firstOf
        [(decide ((s.form i).fields.length ≤ n.toNat) || i.fieldProtected (s.form i) n.toNat, Status.badField),
         (decide (80 < len.toNat), .badValue),
         (!decide (tail.length = (len.toNat + 1) / 2), .badArgument),
         (!((bytesOfWords tail).take len.toNat).all printable, .badValue)] = none := by
      rw [not_or, Bool.not_eq_true] at h1
      simp only [firstOf, h1, h2, not_not.1 h3, h4]
      rfl
    refine doesOn_of_named h rfl rfl (fun t => rfl) hn hcheck (v := ({ s.begun .returnEntry rest with
        waiting := s.waiting.filter fun m => m != l
        reserved := (s.begun .returnEntry rest).reserved - i.reservation } : State).reply
          ⟨.returnEntry, tag, target, serial :: wordOf n len :: tail⟩ .ok []) ?_ ?_
    · simp only [Command.fieldByte, Command.highArg, Command.tailWords, Command.arg, List.getD_cons_succ, List.getD_cons_zero,
        lowByte_wordOf, highByte_wordOf, List.drop_succ_cons, List.drop_zero, carriedWordsOk, carriedBytes, FormDef.fieldCount,
        State.begun_form, hnone]
      rw [State.returned_eq (s := s.begun .returnEntry rest) hn.inst, Inst.returned_eq, State.reply_setLine]
      rfl
    · rw [State.reply_eq]
      simp [State.begun, Status.code]
      omega

end Sys2Proof.Machine
end

section
/-! PROOFS. The ends of the transfers that an instance owns: the preset fetch, the delivery, the bus fault, and the end of CLOSING
(R34 to R36, R40, R130 to R133, R174). -/

namespace Sys2Proof.Machine

open Sys2Proof.Safety

-- The proofs of the whole text share one memory limit, and each thread takes its part of it.
set_option Elab.async false

/-! ## The end of CLOSING (R40) -/

/-- R40: the answers to the pending closes. -/
theorem State.answerCloses_eq (ps : List PendingClose) : ∀ s : State,
    s.answerCloses ps =
      { s with
        reserved := s.reserved - (ps.map PendingClose.reservation).sum
        answerQueue := s.answerQueue ++ (ps.map fun p => result p.tag 0 []).flatten } := by
  induction ps with
  | nil => intro s; simp [State.answerCloses]
  | cons p ps ih =>
    intro s
    rw [State.answerCloses, ih, resultRecord_eq]
    simp [State.post, Nat.sub_sub, Status.code]

/-- R29: the retirement of an instance whose line was changed before. -/
theorem State.retire_setLine (s : State) (l : LineId) {x : Line} {i : Inst} (h : x.inst = some i) :
    (s.setLine l x).retire l = (retired s l i).setLine l { x.clearKeys with typeAhead := [], inst := none } := by
  have hset : retired (s.setLine l x) l i = (retired s l i).setLine l x := by
    simp only [retired, State.setLine, State.setSlot, State.slot]
  rw [State.retire_eq (i := i) (by rw [State.setLine_line_self, h]), hset, State.setLine_line_self, State.setLine_setLine]

/-- An operation on the instance of a line, after the rest of the state has changed. -/
theorem State.modInst_of_inst {s u : State} {l : LineId} {i : Inst} (hu : u.line l = s.line l) (h : (s.line l).inst = some i)
    (f : Inst → Inst) : u.modInst l f = u.setLine l { s.line l with inst := some (f i) } := by
  rw [State.modInst_eq, hu, h]
  rfl

/-- R40: the answers to the pending closes do not depend on a line. -/
theorem State.answerCloses_setLine (s : State) (l : LineId) (x : Line) (ps : List PendingClose) :
    (s.setLine l x).answerCloses ps = (s.answerCloses ps).setLine l x := by
  rw [State.answerCloses_eq, State.answerCloses_eq]
  rfl

/-- R42: a clear queued on a line that was changed before. -/
theorem State.queueClear_setLine (s : State) (l : LineId) (x : Line) (wanted : Bool) :
    (s.setLine l x).queueClear l wanted =
      s.setLine l { x with clearPending := x.clearPending || wanted && x.on && !x.detached } := by
  rw [State.queueClear_eq, State.setLine_line_self, State.setLine_setLine]

/-- R40: the end of CLOSING, before what follows on the line. -/
theorem State.endClosing_eq {s : State} {l : LineId} {i : Inst} (h : (s.line l).inst = some i) (owed : List Word) :
    s.endClosing l owed =
      (State.setLine
        { retired s l i with
          reserved := s.reserved - i.reservation - (i.pendingClose.map PendingClose.reservation).sum
          answerQueue := s.answerQueue ++ owed ++ (i.pendingClose.map fun p => result p.tag 0 []).flatten }
        l (retiredLine (s.line l) (i.pendingClose.any PendingClose.clear)).clearKeys).settle l := by
  rw [State.endClosing, State.instOf_of_inst h]
  dsimp only
  rw [State.modInst_of_inst (s := s) (by rfl) h, State.retire_setLine _ _ rfl, State.answerCloses_setLine,
    State.queueClear_setLine, clearKeys_retiredLine, State.answerCloses_eq]
  rfl

/-- R172: the end of a transfer whose owner's line is then settled. -/
theorem State.endTransfer_settle (v : State) (l : LineId) (y : Line) :
    ∃ x, ((v.setLine l y).settle l).endTransfer = State.setLine { v with transfer := none } l x ∧ Becomes x y := by
  obtain ⟨x, hx, hb, -⟩ := (v.setLine l y).settle_becomes l
  rw [State.setLine_line_self] at hb
  exact ⟨x, by rw [hx, State.setLine_setLine]; rfl, hb⟩

/-- The same for a line whose Key Interpreter is cleared. -/
theorem State.endTransfer_settle_clearKeys (v : State) (l : LineId) {y : Line} (hp : y.pendingKeys = [])
    (hd : y.releaseDue = false) (he : Editable y = false) :
    ∃ x, ((v.setLine l y.clearKeys).settle l).endTransfer = State.setLine { v with transfer := none } l x ∧ Becomes x y := by
  obtain ⟨x, hx, hb⟩ := v.endTransfer_settle l y.clearKeys
  exact ⟨x, hx, becomes_of_clearKeys hb hp hd he⟩

/-- R40: the end of a transfer that an instance in CLOSING waited for, its bytes in the transfer buffer or in host memory. -/
theorem closedBy_endClosing {s u : State} {b m : Memory} (hu : u = { s with transferBuffer := b, hostMemory := m }) {l : LineId}
    {i : Inst} (h : (s.line l).inst = some i) (owed : List Word) :
    ClosedBy s (u.endClosing l owed).endTransfer l i owed ∧ (u.endClosing l owed).endTransfer.transferBuffer = b ∧
      (u.endClosing l owed).endTransfer.hostMemory = m := by
  subst hu
  have hline : ({ s with transferBuffer := b, hostMemory := m } : State).line l = s.line l := rfl
  rw [State.endClosing_eq (s := { s with transferBuffer := b, hostMemory := m }) (hline ▸ h), hline]
  obtain ⟨x, hx, hb⟩ := State.endTransfer_settle_clearKeys
    { retired { s with transferBuffer := b, hostMemory := m } l i with
      reserved := s.reserved - i.reservation - (i.pendingClose.map PendingClose.reservation).sum
      answerQueue := s.answerQueue ++ owed ++ (i.pendingClose.map fun p => result p.tag 0 []).flatten }
    l (y := retiredLine (s.line l) (i.pendingClose.any PendingClose.clear)) rfl rfl rfl
  rw [hx]
  refine ⟨⟨?_, ?_⟩, rfl, rfl⟩
  · rwa [State.setLine_line_self]
  · rw [State.setLine_line_self]
    rfl

/-! ## The end of a delivery (R131 to R133) -/

/-- R131, R195: the DELIVERED notice. -/
theorem deliveredRecord_eq {l : LineId} {i : Inst} {d : Descriptor} (h : i.heldBuffer = some d) (closed : Bool) :
    deliveredRecord l i closed =
      [0x0206, wordOf (byte l.val) (byte i.slot.val), i.serial] ++ addressWords d.address (flagByte closed) ++
        [word i.imageSize] := by
  have hhead : wordOf (byte 6) 2 = 0x0206 := by decide
  simp only [deliveredRecord, Inst.buffer, h, record, List.length_cons, List.length_nil, hhead]
  rfl

/-- R132, R195: the DELIVERY_FAULT notice. -/
theorem deliveryFaultRecord_eq {l : LineId} {i : Inst} {d : Descriptor} (h : i.heldBuffer = some d) :
    deliveryFaultRecord l i = [0x0305, wordOf (byte l.val) 0, i.serial] ++ addressWords d.address 0 := by
  have hhead : wordOf (byte 5) 3 = 0x0305 := by decide
  simp only [deliveryFaultRecord, Inst.buffer, h, record, List.length_cons, List.length_nil, hhead]
  rfl

/-- R133: the time of the verdict timer, in ticks. -/
theorem verdictTime_eq (v : Nat) : Timer.start (v * Config.ticksPerSecond) = if v = 0 then .stopped else .running (100 * v) := by
  have hticks : v * Config.ticksPerSecond = 100 * v := Nat.mul_comm _ _
  rw [Timer.start, hticks]
  by_cases h : v = 0
  · simp [h]
  · rw [if_neg h, if_neg (by omega)]

/-- Settles O42: the image by `wrote_writeBytes`, then the wait for a verdict, or the end of CLOSING. -/
theorem deliveryCompletes : Obligations.DeliveryCompletes := by
  intro s l address n i d ht hi hd
  have heff : s.effect .deliveryComplete = ((s.writeHost address (s.entryImage l)).delivered l).endTransfer := by
    show effectDeliveryComplete s = _
    simp only [effectDeliveryComplete, ht]
  have hi' : (s.writeHost address (s.entryImage l)).instOf l = i := State.instOf_of_inst hi
  rw [State.delivered, hi'] at heff
  by_cases hc : i.phase = .closing
  · rw [if_pos hc, deliveredRecord_eq hd] at heff
    obtain ⟨hclosed, hb, hm⟩ := closedBy_endClosing (s := s) (u := s.writeHost address (s.entryImage l)) rfl hi
      ([0x0206, wordOf (byte l.val) (byte i.slot.val), i.serial] ++ addressWords d.address 1 ++ [word i.imageSize])
    refine ⟨_, gives_effect heff, ?_, fun h => absurd hc h, fun _ => ⟨hb, hclosed⟩⟩
    refine Eq.mpr ?_ (wrote_writeBytes s.hostMemory address.toNat (s.entryImage l))
    exact congrArg (fun m => Wrote s.hostMemory m address.toNat (s.entryImage l)) hm
  · rw [if_neg hc, deliveredRecord_eq hd, State.modInst_of_inst (s := s) (by rfl) hi] at heff
    obtain ⟨x, hx, hb⟩ := State.endTransfer_settle
      ((s.writeHost address (s.entryImage l)).post i.reservation
        ([0x0206, wordOf (byte l.val) (byte i.slot.val), i.serial] ++ addressWords d.address (flagByte false) ++
          [word i.imageSize])) l
      { s.line l with
        inst := some
          { i with
            heldBuffer := none
            reservation := 0
            phase := .awaitVerdict
            verdictTimer := Timer.start ((s.line l).config.verdict * Config.ticksPerSecond) } }
    rw [verdictTime_eq] at hb
    refine ⟨_, gives_effect (heff.trans hx), wrote_writeBytes _ _ _, fun _ => ⟨?_, ?_⟩, fun h => absurd h hc⟩
    · rwa [State.setLine_line_self]
    · have happ : s.answerQueue ++ ([0x0206, wordOf (byte l.val) (byte i.slot.val), i.serial] ++
          addressWords d.address (flagByte false) ++ [word i.imageSize]) =
          s.answerQueue ++ [0x0206, wordOf (byte l.val) (byte i.slot.val), i.serial] ++ addressWords d.address 0 ++
            [word i.imageSize] := by
        simp only [List.append_assoc]
        rfl
      rw [State.setLine_line_self]
      simp only [State.post, State.writeHost, happ]
      rfl

/-! ## The entry image (R130, R196) -/

/-- R195, R196: the state byte of a field in an entry image, without the override. -/
theorem FieldRec.imageByte_eq (r : FieldRec) (f : FieldDef) :
    r.imageByte f = byte (r.touched.toNat + 2 * r.invalid.toNat + 4 * r.errorMark.toNat + 8 * (r.protection f).toNat) := by
  have hbits : ∀ (a b c d : Bool) (o : Override),
      (flagByte a ||| (flagByte b <<< 1) ||| (flagByte c <<< 2) ||| (flagByte d <<< 3) ||| (o.code <<< 4)) &&& 0x0F =
        byte (a.toNat + 2 * b.toNat + 4 * c.toNat + 8 * d.toNat) := by
    intro a b c d o
    revert a b c d
    cases o <;> decide
  exact hbits _ _ _ _ _

/-- R196: the bytes of one field in an entry image. -/
theorem State.entryBytes_length {s : State} {l : LineId} {i : Inst} (h : (s.line l).inst = some i) (n : Nat) :
    (s.entryBytes l n).length = 4 + roundEven (i.field n).valueLength := by
  rw [State.entryBytes, State.value, State.instOf_of_inst h, List.length_append, List.length_append, Memory.readBytes_length,
    roundEven]
  rcases Nat.mod_two_eq_zero_or_one (i.field n).valueLength with h | h
  · simp [h]
  · simp [h]
    omega

/-- Settles O43: the fields' entries one by one, and their lengths added up. -/
theorem entryImageLaid : Obligations.EntryImageLaid := by
  intro s l i hi hfields
  have hinst := State.instOf_of_inst hi
  have hform : s.formOf l = s.form i := State.formOf_of_inst hi
  have hlaid : s.entryImage l =
      [lowByte (word i.imageSize), highByte (word i.imageSize), lowByte i.serial, highByte i.serial, byte l.val,
        byte i.slot.val, byte i.fields.length, flagByte i.resubmit] ++
        ((List.range i.fields.length).map (s.entryBytes l)).flatten := by
    rw [State.entryImage, hinst, hform, FormDef.fieldNumbers, FormDef.fieldCount, ← hfields]
    rfl
  rw [hlaid]
  refine ⟨?_, ?_⟩
  · have hbytes : s.entryBytes l = fun n =>
        [byte n, byte (i.field n).valueLength,
          byte
            ((i.field n).touched.toNat + 2 * (i.field n).invalid.toNat + 4 * (i.field n).errorMark.toNat +
              8 * (i.fieldProtected (s.form i) n).toNat), 0] ++
          s.value l n ++ if (i.field n).valueLength % 2 = 1 then [0] else [] := by
      funext n
      rw [State.entryBytes, hinst, hform, FieldRec.imageByte_eq]
      rfl
    rw [hbytes]
    rfl
  · have hsum : ((List.range i.fields.length).map (s.entryBytes l)).flatten.length =
        (i.fields.map fun r => 4 + roundEven r.valueLength).sum := by
      rw [List.length_flatten, List.map_map]
      refine congrArg List.sum (List.ext_getElem (by simp) fun n h1 h2 => ?_)
      rw [List.getElem_map, List.getElem_map, List.getElem_range, Function.comp_apply, State.entryBytes_length hi]
      have hn : n < i.fields.length := by simpa using h2
      simp [Inst.field, hn]
    rw [List.length_append, hsum]
    rfl

/-! ## A preset that fails (R36) -/

/-- R31, R36: the result of the OPEN FORM posted into the reservation. -/
theorem State.postOpen_eq {s : State} {l : LineId} {i : Inst} {tag : Byte} (h : (s.line l).inst = some i)
    (ht : i.pendingOpen = some tag) (st : Status) (data : List Word) :
    s.postOpen l st data =
      (s.post i.reservation (result tag st.code data)).setLine l
        { s.line l with inst := some { i with reservation := 0, pendingOpen := none } } := by
  rw [State.postOpen, State.instOf_of_inst h, State.modInst_of_inst (s := s) (by rfl) h, resultRecord_eq, ht]
  rfl

/-- R36: a preset that fails: the instance is retired and the result stands. -/
theorem State.presetFailed_eq {s : State} {l : LineId} {i : Inst} {tag : Byte} (h : (s.line l).inst = some i)
    (ht : i.pendingOpen = some tag) (st : Status) (data : List Word) :
    s.presetFailed l st data =
      State.setLine { retired s l i with answerQueue := s.answerQueue ++ result tag st.code data } l
        (retiredLine (s.line l) false).clearKeys := by
  rw [State.presetFailed, State.postOpen_eq h ht, State.retire_setLine _ _ rfl]
  simp only [retired, State.setSlot, State.post, State.slot, Nat.sub_zero]
  congr 1
  simp [retiredLine, Line.clearKeys]

/-- R36, R40: the record a preset fetch owes in CLOSING. -/
theorem State.closedEarlyRecord_eq {s : State} {l : LineId} {i : Inst} {tag : Byte} (h : (s.line l).inst = some i)
    (ht : i.pendingOpen = some tag) : s.closedEarlyRecord l = result tag 29 [] := by
  rw [State.closedEarlyRecord, State.instOf_of_inst h, ht, resultRecord_eq]
  rfl

/-- R36: the end of a transfer with a preset that fails. -/
theorem State.presetFailed_end {s : State} {l : LineId} {i : Inst} {tag : Byte} (h : (s.line l).inst = some i)
    (ht : i.pendingOpen = some tag) (st : Status) (data : List Word) :
    ∃ x, ((s.presetFailed l st data).settle l).endTransfer =
        State.setLine
          { retired s l i with transfer := none, answerQueue := s.answerQueue ++ result tag st.code data } l x ∧
      Becomes x (retiredLine (s.line l) false) := by
  rw [State.presetFailed_eq h ht]
  exact State.endTransfer_settle_clearKeys
    { retired s l i with answerQueue := s.answerQueue ++ result tag st.code data } l rfl rfl rfl

/-! ## Bus faults (R174) -/

/-- R174: a bus fault ends the transfer in progress. -/
theorem effect_busFault {s : State} {r : Request} {answered : Nat} (bytes : List Byte) (ht : s.transfer = some r)
    (hm : bytesMoved r.address.toNat r.length answered < r.length) :
    s.effect (.busFault answered bytes) = ((s.partialTransfer r answered bytes).faulted r.owner).endTransfer := by
  show effectBusFault answered bytes s = _
  simp only [effectBusFault, ht, if_pos hm]

/-- R17: a bus fault of a form fetch. -/
theorem State.formFaulted_end {s : State} {k : SlotId} {tag : Byte} {q : Nat} (h : (s.slot k).state = .loading tag q) :
    (s.formFaulted k).endTransfer =
      State.setSlot
        { s with transfer := none, reserved := s.reserved - q, answerQueue := s.answerQueue ++ result tag 25 [] } k ⟨.empty, 0⟩ := by
  rw [State.formFaulted, State.endLoad_of_loading h]
  rfl

/-- R150: a bus fault of a profile fetch. -/
theorem State.profileFaulted_end {s : State} {p : ProfileId} {tag : Byte} {q : Nat}
    (h : (s.profileSlot p).state = .loading tag q) :
    (s.profileFaulted p).endTransfer =
      State.setProfile
        { s with transfer := none, reserved := s.reserved - q, answerQueue := s.answerQueue ++ result tag 25 [] } p
        ⟨.ready Profile.default, (s.profileSlot p).userCount⟩ := by
  rw [State.profileFaulted, State.endSetProfile_of_loading h]
  rfl

/-- R132: a bus fault of a delivery, but for one of an instance in CLOSING. -/
theorem State.deliveryFaulted_end {s : State} {l : LineId} {i : Inst} {d : Descriptor} (h : (s.line l).inst = some i)
    (hd : i.heldBuffer = some d) (hc : i.phase ≠ .closing) :
    ∃ x, (s.deliveryFaulted l).endTransfer =
        State.setLine
          { s with
            transfer := none
            reserved := s.reserved - i.reservation
            answerQueue := s.answerQueue ++ [0x0305, wordOf (byte l.val) 0, i.serial] ++ addressWords d.address 0 } l x ∧
      Becomes x
        { lineWith s l { i with phase := .editing, heldBuffer := none, reservation := 0 } with
          bellPending := (s.line l).bellPending || !(s.line l).detached } := by
  rw [State.deliveryFaulted, State.instOf_of_inst h, if_neg hc, deliveryFaultRecord_eq hd,
    State.modInst_of_inst (s := s) (by rfl) h, State.bell_eq, State.setLine_line_self, State.setLine_setLine]
  rw [List.append_assoc]
  exact State.endTransfer_settle (s.post i.reservation ([0x0305, wordOf (byte l.val) 0, i.serial] ++ addressWords d.address 0)) l _

/-- A retirement moves no bytes. -/
theorem State.retire_memories (s : State) (l : LineId) :
    (s.retire l).hostMemory = s.hostMemory ∧ (s.retire l).transferBuffer = s.transferBuffer := by
  unfold State.retire
  split <;> simp

/-- R174: an owner that acts on a fault moves no bytes. -/
theorem State.faulted_memories (s : State) (o : Owner) :
    (s.faulted o).hostMemory = s.hostMemory ∧ (s.faulted o).transferBuffer = s.transferBuffer := by
  have hclosing (l : LineId) (owed : List Word) :
      (s.endClosing l owed).hostMemory = s.hostMemory ∧ (s.endClosing l owed).transferBuffer = s.transferBuffer := by
    simp [State.endClosing, State.answerCloses_eq, State.retire_memories]
  cases o with
  | formFetch k =>
    rw [State.faulted, State.formFaulted, State.endLoad]
    split <;> simp
  | profileFetch p =>
    rw [State.faulted, State.profileFaulted, State.endSetProfile]
    split <;> simp
  | presetFetch l =>
    rw [State.faulted, State.presetFaulted]
    split_ifs
    · exact hclosing l _
    · simp [State.presetFailed, State.retire_memories]
  | delivery l =>
    rw [State.faulted, State.deliveryFaulted]
    split_ifs
    · exact hclosing l _
    · simp

/-- R171, R174: the answered cycles of a read transfer stand in the transfer buffer. -/
theorem State.partialTransfer_read {s : State} {r : Request} (h : ∀ l, r.owner ≠ .delivery l) (answered : Nat)
    (bytes : List Byte) :
    s.partialTransfer r answered bytes =
      { s with
        transferBuffer := Memory.writeBytes s.transferBuffer 0
          (bytes.take (bytesMoved r.address.toNat r.length answered)) } := by
  unfold State.partialTransfer
  cases ho : r.owner with
  | delivery l => exact absurd ho (h l)
  | formFetch k => rfl
  | profileFetch p => rfl
  | presetFetch l => rfl

/-- R173, R174: the answered cycles of a delivery stand in host memory. -/
theorem State.partialTransfer_delivery {s : State} {r : Request} {l : LineId} (h : r.owner = .delivery l) (answered : Nat)
    (bytes : List Byte) :
    s.partialTransfer r answered bytes =
      { s with
        hostMemory := Memory.writeBytes s.hostMemory r.address.toNat
          ((s.entryImage l).take (bytesMoved r.address.toNat r.length answered)) } := by
  unfold State.partialTransfer
  rw [h]
  rfl

/-- Settles O44: the owners one by one. -/
theorem busFaultsTaken : Obligations.BusFaultsTaken := by
  intro s r answered bytes ht hmoved
  have heff := effect_busFault bytes ht hmoved
  have hread (h : ∀ l, r.owner ≠ .delivery l) := s.partialTransfer_read h answered bytes
  set m := Memory.writeBytes s.transferBuffer 0 (bytes.take (bytesMoved r.address.toNat r.length answered)) with hm
  refine ⟨_, gives_effect heff, fun hno => ?_, fun k tag q ho hs => ?_, fun p tag q ho hs => ?_,
    fun l i openTag ho hi hopen => ?_, fun l i d ho hi hd => ?_⟩
  · rw [hread hno, State.endTransfer_hostMemory, State.endTransfer_transferBuffer, (State.faulted_memories _ _).1,
      (State.faulted_memories _ _).2]
    exact ⟨rfl, wrote_writeBytes _ _ _⟩
  · rw [hread (by simp [ho]), ho, State.faulted, State.formFaulted_end (s := { s with transferBuffer := m }) hs]
    rfl
  · rw [hread (by simp [ho]), ho, State.faulted, State.profileFaulted_end (s := { s with transferBuffer := m }) hs]
    rfl
  · rw [hread (by simp [ho]), ho, State.faulted, State.presetFaulted]
    have hi' : ({ s with transferBuffer := m } : State).instOf l = i := State.instOf_of_inst hi
    rw [hi', State.closedEarlyRecord_eq (s := { s with transferBuffer := m }) hi hopen]
    refine ⟨fun hc => ?_, fun hc => ?_⟩
    · obtain ⟨x, hx, hb⟩ := State.presetFailed_end (s := { s with transferBuffer := m }) hi hopen .busFault []
      rw [if_neg hc, hx, State.setLine_line_self]
      exact ⟨hb, rfl⟩
    · rw [if_pos hc]
      exact (closedBy_endClosing (s := s) (m := s.hostMemory) rfl hi _).1
  · rw [State.partialTransfer_delivery ho, ho]
    refine ⟨?_, ?_, fun hc => ?_, fun hc => ?_⟩
    · rw [State.endTransfer_transferBuffer, (State.faulted_memories _ _).2]
    · rw [State.endTransfer_hostMemory, (State.faulted_memories _ _).1]
      exact wrote_writeBytes _ _ _
    · rw [State.faulted]
      obtain ⟨x, hx, hb⟩ := State.deliveryFaulted_end (s := { s with
        hostMemory := Memory.writeBytes s.hostMemory r.address.toNat
          ((s.entryImage l).take (bytesMoved r.address.toNat r.length answered)) }) hi hd hc
      rw [hx, State.setLine_line_self]
      exact ⟨hb, rfl⟩
    · have hi' : ({ s with
        hostMemory := Memory.writeBytes s.hostMemory r.address.toNat
          ((s.entryImage l).take (bytesMoved r.address.toNat r.length answered)) } : State).instOf l = i :=
        State.instOf_of_inst hi
      rw [State.faulted, State.deliveryFaulted, hi', if_pos hc, deliveryFaultRecord_eq hd]
      exact (closedBy_endClosing (s := s) (b := s.transferBuffer) rfl hi _).1

/-! ## A preset that passes (R34, R35) -/

/-- R47, R51: the extents of two fields of a form do not meet. -/
theorem FormDef.offset_apart {d : FormDef} {a n : Nat} (ha : a < d.fields.length) (hn : n < d.fields.length) (h : a ≠ n) :
    d.offset a + (d.field a).length ≤ d.offset n ∨ d.offset n + (d.field n).length ≤ d.offset a := by
  rcases Nat.lt_or_gt_of_ne h with h | h
  · left
    rw [← FormDef.offset_succ ha]
    exact FormDef.offset_mono d h
  · right
    rw [← FormDef.offset_succ hn]
    exact FormDef.offset_mono d h

/-- R47, R51: a value replaced on a line whose instance is known. -/
theorem State.putValue_setLine (u : State) (l : LineId) (x : Line) (i : Inst) (n : Nat) (v : List Byte) :
    (u.setLine l { x with inst := some i }).putValue l n v =
      State.setLine { u with valueMemory := Memory.writeBytes u.valueMemory (u.valueAddress i n) v } l
        { x with inst := some (i.modField n fun r => { r with valueLength := v.length }) } := by
  rw [State.putValue, State.modField, State.instOf_setLine]
  exact State.modInst_setLine { u with valueMemory := Memory.writeBytes u.valueMemory (u.valueAddress i n) v } l x i _

/-- R35: the record of a field that a preset entry names, its stale mark lowered to a position. -/
def presetRec (f : FieldDef) (r : FieldRec) (v : List Byte) (p : Nat) : FieldRec :=
  let q := FieldRec.lowerStale { r with valueLength := v.length } p
  (FieldRec.afterHighlight { q with touched := false, errorMark := false } q.highlighted).setInvalid !(fieldCheck f v)

/-- R35: that record but for its stale mark. -/
theorem presetRec_stale (f : FieldDef) (r : FieldRec) (v : List Byte) (p : Nat) (stale : Option Nat) :
    { presetRec f r v p with staleFrom := stale } = ⟨v.length, false, !(fieldCheck f v), false, r.override, stale⟩ := by
  have hinvalid (q : FieldRec) (b : Bool) : { q.setInvalid b with staleFrom := stale } = { q with invalid := b, staleFrom := stale } := by
    unfold FieldRec.setInvalid FieldRec.afterHighlight
    split <;> rfl
  rw [presetRec, hinvalid]
  unfold FieldRec.afterHighlight
  split <;> rfl

/-- R35: the part while the entries of a preset are applied: value memory and the field records alone have changed. -/
def presetState (s : State) (l : LineId) (i : Inst) (m : Memory) (fs : List FieldRec) : State :=
  State.setLine { s with valueMemory := m } l { s.line l with inst := some { i with fields := fs } }

/-- R35: one entry is applied. -/
theorem presetWrite_presetState (s : State) (l : LineId) (i : Inst) (m : Memory) {fs : List FieldRec} {n : Nat}
    (hn : n < fs.length) (v : List Byte) :
    ∃ p, (presetState s l i m fs).presetWrite l n v =
      presetState s l i (m.writeBytes (8 * i.extent.base + (s.form i).offset n) v)
        (fs.set n (presetRec ((s.form i).field n) (fs.getD n FieldRec.blank) v p)) := by
  have hfield (r : FieldRec) (f : FieldRec → FieldRec) :
      (withField { i with fields := fs } n r).modField n f = withField { i with fields := fs } n (f r) := by
    rw [Inst.modField_eq, withField_withField, field_withField hn]
  refine ⟨firstDiff ((presetState s l i m fs).value l n) v, ?_⟩
  have hput := State.putValue_setLine { s with valueMemory := m } l (s.line l) { i with fields := fs } n v
  rw [State.valueAddress_eq, Inst.modField_eq] at hput
  rw [State.presetWrite, State.changeValue, presetState, hput]
  simp only [State.modField]
  rw [State.modInst_setLine, hfield, State.modInst_setLine, hfield, State.recheck_setLine (v := v), hfield]
  · rfl
  · rw [field_withField hn]
    have hlength (w : Bool) (q : FieldRec) : (q.afterHighlight w).valueLength = q.valueLength := by
      unfold FieldRec.afterHighlight
      split <;> rfl
    rw [hlength, State.valueAddress_eq]
    exact Memory.readBytes_writeBytes v _ _

/-- R35: what the entries applied so far have done. -/
structure PresetApplied (s : State) (i : Inst) (entries : List (Nat × List Byte)) (m : Memory) (fs : List FieldRec) : Prop where
  length : fs.length = i.fields.length
  named : ∀ n v, entries.reverse.lookup n = some v →
    { fs.getD n FieldRec.blank with staleFrom := some 0 } =
        ⟨v.length, false, !fieldCheck ((s.form i).field n) v, false, (i.field n).override, some 0⟩ ∧
      m.readBytes (8 * i.extent.base + (s.form i).offset n) v.length = v
  unnamed : ∀ n, n < i.fields.length → entries.reverse.lookup n = none →
    fs.getD n FieldRec.blank = i.field n ∧
      ∀ k, k < ((s.form i).field n).length →
        m.read (8 * i.extent.base + (s.form i).offset n + k) =
          s.valueMemory.read (8 * i.extent.base + (s.form i).offset n + k)
  outside : ∀ x, (x < 8 * i.extent.base ∨ 8 * i.extent.base + ((s.form i).fields.map FieldDef.length).sum ≤ x) →
    m.read x = s.valueMemory.read x

/-- R34: the entries of a preset that passes name fields of the form and fit them. -/
def PresetFits (d : FormDef) (entries : List (Nat × List Byte)) : Prop :=
  ∀ e ∈ entries, e.1 < d.fields.length ∧ e.2.length ≤ (d.field e.1).length

theorem presetEntries_fit {d : FormDef} {img : List Byte} {total : Nat} (n : Nat) :
    ∀ {index pos : Nat} {entries : List (Nat × List Byte)}, presetEntries d img total n index pos = .ok entries →
      PresetFits d entries := by
  induction n with
  | zero =>
    intro index pos entries h
    rw [presetEntries] at h
    split_ifs at h
    cases h
    intro e he
    simp at he
  | succ n ih =>
    intro index pos entries h
    rw [presetEntries] at h
    split at h
    · cases h
    · rename_i hchecks
      split at h
      · rename_i rest hrest
        cases h
        intro e he
        rcases List.mem_cons.1 he with rfl | he
        · simp only [firstOf] at hchecks
          split_ifs at hchecks with h1 h2 h3 h4
          refine ⟨?_, ?_⟩
          · exact not_le.1 (of_decide_eq_false (Bool.eq_false_iff.2 h2))
          · have hlen : (imageRun img (pos + 4) (imageNat img (pos + 2))).length ≤ imageNat img (pos + 2) := by
              simp [imageRun]
            exact hlen.trans (not_lt.1 (of_decide_eq_false (Bool.eq_false_iff.2 h3)))
        · exact ih hrest e he
      · cases h

theorem presetImage_fits {d : FormDef} {img : List Byte} {n : Nat} {entries : List (Nat × List Byte)}
    (h : presetImage d img n = .ok entries) : PresetFits d entries := by
  rw [presetImage] at h
  split_ifs at h
  exact presetEntries_fit _ h

/-- R35: the override of a field stays while a preset is applied. -/
theorem PresetApplied.override {s : State} {i : Inst} {entries : List (Nat × List Byte)} {m : Memory} {fs : List FieldRec}
    (h : PresetApplied s i entries m fs) {n : Nat} (hn : n < i.fields.length) :
    (fs.getD n FieldRec.blank).override = (i.field n).override := by
  cases hl : entries.reverse.lookup n with
  | none => rw [(h.unnamed n hn hl).1]
  | some v =>
    have hrec := congrArg FieldRec.override (h.named n v hl).1
    exact hrec

/-- R35: one more entry. -/
theorem PresetApplied.write {s : State} {i : Inst} {entries : List (Nat × List Byte)} {m : Memory} {fs : List FieldRec}
    (h : PresetApplied s i entries m fs) (hfields : i.fields.length = (s.form i).fields.length)
    (hfits : PresetFits (s.form i) entries) {a : Nat} (ha : a < (s.form i).fields.length) {v : List Byte}
    (hv : v.length ≤ ((s.form i).field a).length) (p : Nat) :
    PresetApplied s i (entries ++ [(a, v)]) (m.writeBytes (8 * i.extent.base + (s.form i).offset a) v)
      (fs.set a (presetRec ((s.form i).field a) (fs.getD a FieldRec.blank) v p)) := by
  have hlookup (n : Nat) : (entries ++ [(a, v)]).reverse.lookup n =
      if n = a then some v else entries.reverse.lookup n := by
    rw [List.reverse_append, List.reverse_singleton, List.singleton_append, List.lookup_cons]
    by_cases hna : n = a
    · rw [if_pos hna, beq_iff_eq.2 hna]
    · rw [if_neg hna, beq_eq_false_iff_ne.2 hna]
  have hafs : a < fs.length := by rw [h.length, hfields]; exact ha
  have hother {n : Nat} (hn : n ≠ a) (r : FieldRec) : (fs.set a r).getD n FieldRec.blank = fs.getD n FieldRec.blank := by
    rw [List.getD_eq_getElem?_getD, List.getD_eq_getElem?_getD, List.getElem?_set_ne (Ne.symm hn)]
  have hkeep {n : Nat} (hn : n < (s.form i).fields.length) (hne : n ≠ a) {k : Nat}
      (hk : k < ((s.form i).field n).length) :
      (m.writeBytes (8 * i.extent.base + (s.form i).offset a) v).read (8 * i.extent.base + (s.form i).offset n + k) =
        m.read (8 * i.extent.base + (s.form i).offset n + k) := by
    apply Memory.read_writeBytes_of_outside
    have := FormDef.offset_apart ha hn (Ne.symm hne)
    omega
  refine ⟨by rw [List.length_set, h.length], fun n w hw => ?_, fun n hn hw => ?_, fun x hx => ?_⟩
  · rw [hlookup] at hw
    split_ifs at hw with hna
    · cases hw
      subst hna
      refine ⟨?_, Memory.readBytes_writeBytes v _ _⟩
      rw [List.getD_eq_getElem _ _ (by rwa [List.length_set]), List.getElem_set_self, presetRec_stale,
        h.override (hfields ▸ ha)]
    · obtain ⟨hrec, hbytes⟩ := h.named n w hw
      obtain ⟨hn, hlen⟩ := hfits (n, w) (by
        have := List.lookup_eq_some_iff.1 hw
        obtain ⟨l1, l2, he, -⟩ := this
        rw [← List.mem_reverse, he]
        simp)
      refine ⟨by rw [hother hna, hrec], ?_⟩
      rw [Memory.readBytes_congr _ _ m _ fun k hk => hkeep hn hna (hk.trans_le hlen), hbytes]
  · rw [hlookup] at hw
    split_ifs at hw with hna
    obtain ⟨hrec, hbytes⟩ := h.unnamed n hn hw
    exact ⟨by rw [hother hna, hrec], fun k hk => (hkeep (hfields ▸ hn) hna hk).trans (hbytes k hk)⟩
  · rw [Memory.read_writeBytes_of_outside, h.outside x hx]
    have h1 := FormDef.offset_succ ha
    have h2 := FormDef.offset_mono (s.form i) (show a + 1 ≤ (s.form i).fields.length from ha)
    have h3 := FormDef.offset_length (s.form i)
    omega

/-- R35: the entries of a preset applied in image order. -/
theorem applyPreset_applied {s : State} {l : LineId} {i : Inst} (h : (s.line l).inst = some i)
    (hfields : i.fields.length = (s.form i).fields.length) (entries : List (Nat × List Byte)) :
    PresetFits (s.form i) entries →
      ∃ m fs, s.applyPreset l entries = presetState s l i m fs ∧ PresetApplied s i entries m fs := by
  induction entries using List.reverseRecOn with
  | nil =>
    intro _
    refine ⟨s.valueMemory, i.fields, ?_, rfl, by simp, fun n _ _ => ⟨rfl, fun k _ => rfl⟩, fun x _ => rfl⟩
    have hline : ({ s.line l with inst := some i } : Line) = s.line l := by rw [← h]
    exact ((congrArg (s.setLine l) hline).trans (State.setLine_line s l)).symm
  | append_singleton entries e ih =>
    intro hfits
    have hfits' : PresetFits (s.form i) entries := fun x hx => hfits x (by simp [hx])
    obtain ⟨he, hlen⟩ := hfits e (by simp)
    obtain ⟨m, fs, hstate, happlied⟩ := ih hfits'
    obtain ⟨p, hp⟩ := presetWrite_presetState s l i m (by rw [happlied.length, hfields]; exact he) e.2
    refine ⟨_, _, ?_, happlied.write hfields hfits' he hlen p⟩
    rw [State.applyPreset, List.foldl_append]
    exact (congrArg (State.presetWrite · l e.1 e.2) hstate).trans hp

/-- R35: the records of the fields after a preset, every field stale from 0. -/
def presetFields (fs : List FieldRec) : List FieldRec := fs.map fun r => { r with staleFrom := some 0 }

theorem presetFields_getD {fs : List FieldRec} {n : Nat} (h : n < fs.length) :
    (presetFields fs).getD n FieldRec.blank = { fs.getD n FieldRec.blank with staleFrom := some 0 } := by
  rw [presetFields, List.getD_eq_getElem _ _ (by rwa [List.length_map]), List.getElem_map, List.getD_eq_getElem _ _ h]

/-- R35: the instance after a preset that passes. -/
def presetInst (i : Inst) (fs : List FieldRec) : Inst :=
  { repainted i with fields := presetFields fs, phase := .painting, reservation := 0, pendingOpen := none }

/-- R104: a full repaint of a line whose instance is known. -/
theorem State.fullRepaint_setLine (u : State) (l : LineId) (x : Line) (i : Inst) :
    (u.setLine l { x with inst := some i }).fullRepaint l =
      u.setLine l { x with clearPending := x.clearPending || !x.detached, inst := some (repainted i) } := by
  rw [State.fullRepaint_eq (i := i) (by rw [State.setLine_line_self]), State.setLine_line_self, State.setLine_setLine]

/-- R31, R36: the result of the OPEN FORM on a line whose instance is known. -/
theorem State.postOpen_setLine (u : State) (l : LineId) (x : Line) {i : Inst} {tag : Byte} (ht : i.pendingOpen = some tag)
    (st : Status) (data : List Word) :
    (u.setLine l { x with inst := some i }).postOpen l st data =
      (u.post i.reservation (result tag st.code data)).setLine l
        { x with inst := some { i with reservation := 0, pendingOpen := none } } := by
  rw [State.postOpen_eq (i := i) (by rw [State.setLine_line_self]) ht, State.setLine_line_self]
  exact State.setLine_setLine (u.post i.reservation (result tag st.code data)) l _ _

/-- R35: the end of a preset that passes, before what follows on the line. -/
theorem State.presetPassed_eq {s : State} {l : LineId} {i : Inst} {tag : Byte} (h : (s.line l).inst = some i)
    (ht : i.pendingOpen = some tag) {entries : List (Nat × List Byte)} {m : Memory} {fs : List FieldRec}
    (hstate : s.applyPreset l entries = presetState s l i m fs) :
    s.presetPassed l entries =
      State.setLine
        { s with
          valueMemory := m
          reserved := s.reserved - i.reservation
          answerQueue := s.answerQueue ++ result tag 0 [i.serial] } l
        { s.line l with
          inst := some (presetInst i fs), clearPending := (s.line l).clearPending || !(s.line l).detached } := by
  rw [State.presetPassed, hstate, presetState, State.modInst_setLine, State.instOf_of_inst h, State.fullRepaint_setLine]
  exact State.postOpen_setLine { s with valueMemory := m } l
    { s.line l with clearPending := (s.line l).clearPending || !(s.line l).detached }
    (i := repainted { i with fields := fs, phase := .painting }) ht .ok [i.serial]

/-- The value of a field depends on the extent, the field records and value memory. -/
theorem State.value_of_inst {s : State} {l : LineId} {j : Inst} (h : (s.line l).inst = some j) (n : Nat) :
    s.value l n = s.valueMemory.readBytes (8 * j.extent.base + (s.form j).offset n) (j.field n).valueLength := by
  rw [State.value, State.instOf_of_inst h, State.valueAddress_eq]

/-- R35: the values after a preset. -/
theorem PresetApplied.value {s : State} {i : Inst} {entries : List (Nat × List Byte)} {m : Memory} {fs : List FieldRec}
    (h : PresetApplied s i entries m fs)
    (hlen : ∀ n, n < i.fields.length → (i.field n).valueLength ≤ ((s.form i).field n).length) {n : Nat}
    (hn : n < i.fields.length) :
    m.readBytes (8 * i.extent.base + (s.form i).offset n) ((presetFields fs).getD n FieldRec.blank).valueLength =
      (entries.reverse.lookup n).getD
        (s.valueMemory.readBytes (8 * i.extent.base + (s.form i).offset n) (i.field n).valueLength) := by
  rw [presetFields_getD (h.length ▸ hn)]
  cases hl : entries.reverse.lookup n with
  | none =>
    obtain ⟨hrec, hbytes⟩ := h.unnamed n hn hl
    rw [hrec, Option.getD_none]
    exact Memory.readBytes_congr _ _ _ _ fun k hk => hbytes k (hk.trans_le (hlen n hn))
  | some v =>
    obtain ⟨hrec, hbytes⟩ := h.named n v hl
    rw [hrec, Option.getD_some]
    exact hbytes

/-- Settles O26: the fetch ends with the checks of the bytes themselves, or with the end of CLOSING. -/
theorem presetFetchEnds : Obligations.PresetFetchEnds := by
  have heff {s : State} {l : LineId} {address : HostAddr} {n : Nat} {bytes : List Byte}
      (ht : s.transfer = some ⟨.presetFetch l, address, n⟩) (hn : bytes.length = n) :
      s.effect (.presetFetchEnd bytes) = ((s.fillBuffer bytes).presetFetched l bytes n).endTransfer := by
    show effectPresetFetchEnd bytes s = _
    simp only [effectPresetFetchEnd, ht, State.endRead_of_length hn]
  have hbuffer (s : State) (bytes : List Byte) := wrote_writeBytes s.transferBuffer 0 bytes
  refine ⟨fun s l address n bytes i openTag code index ht hn hi hp hopen himage => ?_,
    fun s l address n bytes i openTag entries ht hn hi hp hopen himage hfields hlen => ?_,
    fun s l address n bytes i openTag ht hn hi hp hopen => ?_⟩
  · obtain ⟨x, hx, hb⟩ := State.presetFailed_end (s := s.fillBuffer bytes) hi hopen .badImage [word code, word index]
    have hend : s.effect (.presetFetchEnd bytes) =
        (((s.fillBuffer bytes).presetFailed l .badImage [word code, word index]).settle l).endTransfer := by
      rw [heff ht hn, State.presetFetched, State.instOf_of_inst (s := s.fillBuffer bytes) hi, hp, if_neg (by simp),
        State.formOf_of_inst (s := s.fillBuffer bytes) hi]
      simp only [show (s.fillBuffer bytes).form i = s.form i from rfl, himage]
    refine ⟨_, gives_effect (hend.trans hx), hbuffer s bytes, ?_, ?_⟩
    · rwa [State.setLine_line_self]
    · rw [State.setLine_line_self]
      rfl
  · obtain ⟨m, fs, hstate, happlied⟩ := applyPreset_applied (s := s.fillBuffer bytes) hi hfields entries (presetImage_fits himage)
    have happlied : PresetApplied s i entries m fs :=
      ⟨happlied.length, happlied.named, happlied.unnamed, happlied.outside⟩
    obtain ⟨x, hx, hb⟩ := State.endTransfer_settle
      { s.fillBuffer bytes with
        valueMemory := m
        reserved := s.reserved - i.reservation
        answerQueue := s.answerQueue ++ result openTag 0 [i.serial] } l
      { s.line l with
        inst := some (presetInst i fs), clearPending := (s.line l).clearPending || !(s.line l).detached }
    have hend : s.effect (.presetFetchEnd bytes) = (((s.fillBuffer bytes).presetPassed l entries).settle l).endTransfer := by
      rw [heff ht hn, State.presetFetched, State.instOf_of_inst (s := s.fillBuffer bytes) hi, hp, if_neg (by simp),
        State.formOf_of_inst (s := s.fillBuffer bytes) hi]
      simp only [show (s.fillBuffer bytes).form i = s.form i from rfl, himage]
    have hpassed := State.presetPassed_eq (s := s.fillBuffer bytes) hi hopen hstate
    have hend := (hend.trans (congrArg (fun u => (State.settle u l).endTransfer) hpassed)).trans hx
    have hinst := congrArg Line.inst hb.line
    have hnfs {k : Nat} (hk : k < i.fields.length) : k < fs.length := happlied.length ▸ hk
    refine ⟨_, presetInst i fs, gives_effect hend, hbuffer s bytes, ?_, ?_, rfl, fun k hk => ?_, ?_, fun k v hk => ?_,
      fun k hk hnone => ?_, happlied.outside⟩
    · rwa [State.setLine_line_self]
    · rw [State.setLine_line_self]
      rfl
    · rw [State.value_of_inst ((congrArg Line.inst (State.setLine_line_self _ l x)).trans hinst), State.value_of_inst hi]
      exact happlied.value hlen hk
    · exact (List.length_map _).trans happlied.length
    · have hk' : k < i.fields.length := by
        obtain ⟨l1, l2, he, -⟩ := List.lookup_eq_some_iff.1 hk
        rw [hfields]
        exact (presetImage_fits himage (k, v) (by rw [← List.mem_reverse, he]; simp)).1
      exact (presetFields_getD (hnfs hk')).trans (happlied.named k v hk).1
    · refine (presetFields_getD (hnfs hk)).trans ?_
      rw [(happlied.unnamed k hk hnone).1]
  · obtain ⟨hclosed, hb, hm⟩ := closedBy_endClosing (s := s) (u := s.fillBuffer bytes) rfl hi (result openTag 29 [])
    have hend : s.effect (.presetFetchEnd bytes) =
        ((s.fillBuffer bytes).endClosing l (result openTag 29 [])).endTransfer := by
      rw [heff ht hn, State.presetFetched, State.instOf_of_inst (s := s.fillBuffer bytes) hi, if_pos hp,
        State.closedEarlyRecord_eq (s := s.fillBuffer bytes) hi hopen]
    refine ⟨_, gives_effect hend, ?_, hm, hclosed⟩
    rw [hb]
    exact hbuffer s bytes

end Sys2Proof.Machine
end

section
/-! PROOFS. The checks of a form image (R13 to R16). -/

namespace Sys2Proof.Machine

open Sys2Proof.Safety

-- The proofs of the whole text share one memory limit, and each thread takes its part of it.
set_option Elab.async false

/-! ## Lists of checks -/

/-- None of a list of conditions holds. -/
theorem firstOf_eq_none_iff {α : Type} (cs : List (Bool × α)) : firstOf cs = none ↔ ∀ c ∈ cs, c.1 = false := by
  induction cs with
  | nil => simp [firstOf]
  | cons c cs ih =>
    obtain ⟨b, a⟩ := c
    cases b <;> simp [firstOf, ih]

/-- No item of a list fails its check. -/
theorem firstSome_eq_none_iff {α : Type} (f : Nat → Option α) (ns : List Nat) :
    firstSome f ns = none ↔ ∀ n ∈ ns, f n = none := by
  induction ns with
  | nil => simp [firstSome]
  | cons n ns ih => cases h : f n <;> simp [firstSome, h, ih]

/-- R13: an image passes when its header, its fields, their places and its text items do. -/
theorem formImageCheck_eq_none {img : List Byte} {n : Nat} (h : formImageCheck img n = none) :
    headerCheck img n = none ∧ (∀ k < imageNat img 11, fieldDefCheck img k = none) ∧
      (∀ k < imageNat img 11, overlapCheck img k = none) ∧ ∀ k < imageNat img 12, textItemCheck img k = none := by
  rw [formImageCheck] at h
  split at h
  · cases h
  · rename_i hheader
    split at h
    · cases h
    · rename_i hfields
      split at h
      · cases h
      · rename_i hoverlap
        simp only [firstSome_eq_none_iff, List.mem_range] at hfields hoverlap h
        exact ⟨hheader, hfields, hoverlap, h⟩

/-! ## What each check leaves true -/

/-- R14: the header. -/
theorem headerCheck_eq_none {img : List Byte} {n : Nat} (h : headerCheck img n = none) :
    (1 ≤ imageNat img 8 ∧ imageNat img 8 ≤ 32) ∧ (20 ≤ imageNat img 9 ∧ imageNat img 9 ≤ 132) ∧
      (imageNat img 10 < imageNat img 8 ∨ imageNat img 10 = 255) ∧ (1 ≤ imageNat img 11 ∧ imageNat img 11 ≤ 48) ∧
      imageNat img 12 ≤ 32 ∧ imageNat2 img 14 ≤ 1024 ∧ declaredTotal img = n := by
  simp only [headerCheck, firstOf_eq_none_iff, List.mem_cons, List.not_mem_nil, or_false, forall_eq_or_imp, forall_eq] at h
  obtain ⟨-, hrows, hcolumns, hmessage, hfields, htexts, -, hpool, htotal⟩ := h
  simp only [Bool.or_eq_false_iff, Bool.and_eq_false_iff, Bool.not_eq_false', beq_eq_false_iff_ne, decide_eq_false_iff_not,
    decide_eq_true_eq, beq_iff_eq, bne_eq_false_iff_eq] at hrows hcolumns hmessage hfields htexts hpool htotal
  exact ⟨by omega, by omega, hmessage, by omega, by omega, by omega, htotal⟩

/-- R15: a field. -/
theorem fieldDefCheck_eq_none {img : List Byte} {n : Nat} (h : fieldDefCheck img n = none) {d : FormDef} {f : FieldDef}
    (hd : formOfImage img = d) (hf : fieldDefAt img (fieldPlace n) = f) :
    f.row < d.rows ∧ d.messageRow ≠ some f.row ∧ 1 ≤ f.length ∧ f.length ≤ 80 ∧ f.col + f.length < d.columns ∧
      f.minLength ≤ f.length ∧ (f.type ≠ .amount → f.scale = 0) ∧ f.scale ≤ 4 ∧ (0 < f.scale → f.scale + 2 ≤ f.length) ∧
      printable f.fill = true ∧ f.defaultLength ≤ f.length ∧
      (0 < f.defaultLength → f.defaultOffset + f.defaultLength ≤ d.pool.length) := by
  simp only [fieldDefCheck, hd, hf, firstOf_eq_none_iff, List.mem_cons, List.not_mem_nil, or_false, forall_eq_or_imp,
    forall_eq] at h
  obtain ⟨hrow, hmessage, hlength, hcolumn, -, hscale, hmin, -, hfill, hpool, hdefault, -⟩ := h
  simp only [Bool.or_eq_false_iff, Bool.and_eq_false_iff, beq_eq_false_iff_ne, decide_eq_false_iff_not,
    bne_eq_false_iff_eq, Bool.not_eq_false', ne_eq] at hrow hmessage hlength hcolumn hscale hmin hfill hpool hdefault
  refine ⟨by omega, hmessage, by omega, by omega, by omega, by omega, ?_, ?_, ?_, hfill, by omega, by omega⟩
  · intro ht
    exact hscale.2.resolve_left ht
  all_goals
    by_cases ht : f.type = .amount
    · have := hscale.1.resolve_left (not_not.2 ht)
      omega
    · have := hscale.2.resolve_left ht
      omega

/-- R16: two fields that do not share a column of a row. -/
theorem overlap_eq_false {f g : FieldDef} (h : overlap f g = false) :
    f.row = g.row → f.col + f.length ≤ g.col ∨ g.col + g.length ≤ f.col := by
  simp only [overlap, Bool.and_eq_false_iff, beq_eq_false_iff_ne, decide_eq_false_iff_not] at h
  omega

/-- R16: a text item. -/
theorem textItemCheck_eq_none {img : List Byte} {k : Nat} (h : textItemCheck img k = none) {d : FormDef} {t : TextItem}
    (hd : formOfImage img = d) (ht : textItemAt img (textPlace img k) = t) :
    t.row < d.rows ∧ 1 ≤ t.textLength ∧ t.textLength ≤ 80 ∧ t.col + t.textLength ≤ d.columns ∧
      t.textOffset + t.textLength ≤ d.pool.length := by
  simp only [textItemCheck, hd, ht, firstOf_eq_none_iff, List.mem_cons, List.not_mem_nil, or_false, forall_eq_or_imp,
    forall_eq] at h
  obtain ⟨hrow, hlength, hcolumn, hpool, -⟩ := h
  simp only [Bool.or_eq_false_iff, beq_eq_false_iff_ne, decide_eq_false_iff_not] at hrow hlength hcolumn hpool
  exact ⟨by omega, by omega, by omega, by omega, by omega⟩

/-- Settles O16: the stages of the checks one by one. -/
theorem checkedFormsAreSound : Obligations.CheckedFormsAreSound := by
  intro img n hlen h
  obtain ⟨hheader, hfields, hoverlap, htexts⟩ := formImageCheck_eq_none h
  obtain ⟨hrows, hcolumns, hmessage, hcount, htextCount, hpool, htotal⟩ := headerCheck_eq_none hheader
  have hfield {f : FieldDef} (hf : f ∈ (formOfImage img).fields) :
      ∃ k < imageNat img 11, fieldDefAt img (fieldPlace k) = f := by
    obtain ⟨k, hk, hkf⟩ := List.mem_map.1 hf
    exact ⟨k, List.mem_range.1 hk, hkf⟩
  refine ⟨?_, hrows, hcolumns, fun r hr => ?_, ?_, ?_, ?_, rfl, fun f hf => ?_, ?_, fun t ht => ?_⟩
  · have : 16 ≤ img.length := by
      rw [hlen, ← htotal, declaredTotal]
      omega
    simp only [formOfImage, imageRun, List.length_take, List.length_drop]
    omega
  · have hr' : (if imageNat img 10 = 255 then none else some (imageNat img 10)) = some r := hr
    split_ifs at hr' with h255
    cases hr'
    exact hmessage.resolve_right h255
  · simpa [formOfImage] using hcount
  · simpa [formOfImage] using htextCount
  · simp only [formOfImage, imageRun, List.length_take]
    omega
  · obtain ⟨k, hk, hkf⟩ := hfield hf
    exact fieldDefCheck_eq_none (hfields k hk) rfl hkf
  · simp only [formOfImage, List.pairwise_map]
    refine List.Pairwise.imp_of_mem (fun {a b} ha hb hab => ?_) List.pairwise_lt_range
    have hb' := hoverlap b (List.mem_range.1 hb)
    rw [overlapCheck, ite_eq_right_iff] at hb'
    have hno : (List.range b).any (fun m => overlap (fieldDefAt img (fieldPlace b)) (fieldDefAt img (fieldPlace m))) = false := by
      rw [Bool.eq_false_iff]
      exact fun hany => by cases hb' hany
    rw [List.any_eq_false] at hno
    have hpair := overlap_eq_false (Bool.eq_false_iff.2 (hno a (List.mem_range.2 hab)))
    exact fun hrow => (hpair hrow.symm).symm
  · obtain ⟨k, hk, hkt⟩ := List.mem_map.1 ht
    exact textItemCheck_eq_none (htexts k (List.mem_range.1 hk)) rfl hkt

end Sys2Proof.Machine
end

section
/-! PROOFS. What the elements of a run are made of: a property that each of their steps keeps is kept by every run (R76, R85 to R98,
R119 to R123). -/

namespace Sys2Proof.Machine

open Sys2Proof.Safety

-- The proofs of the whole text share one memory limit, and each thread takes its part of it.
set_option Elab.async false

/-! ## What stays while a field is edited -/

/-- The phase, the form, the cursor field and the unprotected fields of the line's instance are the same. -/
structure EntryKept (l : LineId) (s t : State) : Prop where
  phase : (t.instOf l).phase = (s.instOf l).phase
  form : t.formOf l = s.formOf l
  cursorField : (t.instOf l).cursorField = (s.instOf l).cursorField
  openFields : (t.instOf l).openFields (t.formOf l) = (s.instOf l).openFields (s.formOf l)

theorem EntryKept.refl (l : LineId) (s : State) : EntryKept l s s := ⟨rfl, rfl, rfl, rfl⟩

theorem EntryKept.trans {l : LineId} {s t u : State} (h : EntryKept l s t) (h' : EntryKept l t u) : EntryKept l s u :=
  ⟨h'.phase.trans h.phase, h'.form.trans h.form, h'.cursorField.trans h.cursorField, h'.openFields.trans h.openFields⟩

/-- The instance of a line after an operation on it, where the line has one. -/
theorem State.instOf_modInst (s : State) (l : LineId) (f : Inst → Inst) :
    (s.modInst l f).instOf l = f (s.instOf l) ∨ (s.inst l = none ∧ s.modInst l f = s) := by
  cases h : s.inst l with
  | none => exact .inr ⟨rfl, by simp [State.modInst, h]⟩
  | some i =>
    left
    rw [State.modInst_eq, State.instOf, State.inst, State.setLine_line_self]
    have hi : (s.line l).inst = some i := h
    simp [State.instOf, State.inst, hi]

/-- An operation that changes no more than the records of fields, and these in their overrides not at all. -/
theorem EntryKept.modInst {l : LineId} {s : State} {f : Inst → Inst} (hphase : ∀ i, (f i).phase = i.phase)
    (hslot : ∀ i, (f i).slot = i.slot) (hcursor : ∀ i, (f i).cursorField = i.cursorField)
    (hoverride : ∀ i n, ((f i).field n).override = (i.field n).override) : EntryKept l s (s.modInst l f) := by
  rcases s.instOf_modInst l f with h | ⟨-, h⟩
  · have hform : (s.modInst l f).formOf l = s.formOf l := by
      rw [State.formOf, h, State.formOf, State.form, State.form, hslot, State.modInst_slot]
    refine ⟨by rw [h, hphase], hform, by rw [h, hcursor], ?_⟩
    rw [hform, h]
    refine List.filter_congr fun n _ => ?_
    simp only [Inst.fieldProtected, FieldRec.protection, hoverride]
  · rw [h]
    exact EntryKept.refl l s

/-- The override of a field whose record is changed in other places. -/
theorem Inst.modField_override {g : FieldRec → FieldRec} (hg : ∀ r, (g r).override = r.override) (i : Inst) (n m : Nat) :
    ((i.modField n g).field m).override = (i.field m).override := by
  rw [Inst.modField_eq]
  by_cases hm : m = n
  · subst hm
    by_cases hn : m < i.fields.length
    · rw [field_withField hn, hg]
    · rw [withField, List.set_eq_of_length_le (by omega)]
  · rw [field_withField_of_ne hm]

theorem EntryKept.modField {l : LineId} {s : State} {n : Nat} {g : FieldRec → FieldRec}
    (hg : ∀ r, (g r).override = r.override) : EntryKept l s (s.modField l n g) :=
  EntryKept.modInst (fun _ => rfl) (fun _ => rfl) (fun _ => rfl) fun i m => Inst.modField_override hg i n m

/-- The record of a field after a change of its highlight. -/
theorem FieldRec.afterHighlight_cases (r : FieldRec) (was : Bool) :
    r.afterHighlight was = r ∨ r.afterHighlight was = { r with staleFrom := some 0 } := by
  unfold FieldRec.afterHighlight
  split
  · exact .inl rfl
  · exact .inr rfl

@[simp] theorem FieldRec.afterHighlight_override (r : FieldRec) (was : Bool) : (r.afterHighlight was).override = r.override := by
  rcases r.afterHighlight_cases was with h | h <;> rw [h]

@[simp] theorem FieldRec.afterHighlight_valueLength (r : FieldRec) (was : Bool) :
    (r.afterHighlight was).valueLength = r.valueLength := by
  rcases r.afterHighlight_cases was with h | h <;> rw [h]

@[simp] theorem FieldRec.setInvalid_override (r : FieldRec) (b : Bool) : (r.setInvalid b).override = r.override :=
  FieldRec.afterHighlight_override _ _

@[simp] theorem FieldRec.setInvalid_valueLength (r : FieldRec) (b : Bool) : (r.setInvalid b).valueLength = r.valueLength :=
  FieldRec.afterHighlight_valueLength _ _

@[simp] theorem FieldRec.clerkEdit_override (r : FieldRec) : r.clerkEdit.override = r.override :=
  FieldRec.afterHighlight_override _ _

@[simp] theorem FieldRec.clerkEdit_valueLength (r : FieldRec) : r.clerkEdit.valueLength = r.valueLength :=
  FieldRec.afterHighlight_valueLength _ _

theorem EntryKept.recheck (l : LineId) (s : State) (n : Nat) : EntryKept l s (s.recheck l n) :=
  EntryKept.modField fun _ => FieldRec.setInvalid_override _ _

/-- Value memory is no part of an entry's record. -/
theorem EntryKept.of_valueMemory (l : LineId) (s : State) (m : Memory) : EntryKept l s { s with valueMemory := m } :=
  ⟨rfl, rfl, rfl, rfl⟩

theorem EntryKept.changeValue (l : LineId) (s : State) (n : Nat) (v : List Byte) (p : Nat) :
    EntryKept l s (s.changeValue l n v p) :=
  ((EntryKept.of_valueMemory l s _).trans
    (EntryKept.modField (g := fun r => { r with valueLength := v.length }) fun _ => rfl)).trans
    (EntryKept.modField (g := fun r => r.lowerStale p) fun _ => rfl)

theorem Inst.clampCursor_cases (i : Inst) (n : Nat) :
    i.clampCursor n = i ∨ i.clampCursor n = { i with cursorPos := (i.field n).valueLength, cursorStale := true } := by
  unfold Inst.clampCursor
  split
  · exact .inr rfl
  · exact .inl rfl

theorem EntryKept.clampCursor (l : LineId) (s : State) (n : Nat) : EntryKept l s (s.modInst l fun i => i.clampCursor n) := by
  refine EntryKept.modInst (fun i => ?_) (fun i => ?_) (fun i => ?_) fun i m => ?_
  all_goals rcases i.clampCursor_cases n with h | h <;> rw [h]
  rfl

theorem EntryKept.exitCheck (l : LineId) (s : State) (n : Nat) : EntryKept l s (s.exitCheck l n).1 := by
  unfold State.exitCheck
  refine EntryKept.trans (EntryKept.trans ?_ (EntryKept.modField fun r => ?_)) (EntryKept.clampCursor l _ n)
  · split_ifs
    · exact EntryKept.refl l s
    · exact EntryKept.changeValue l s n _ _
  · split_ifs <;> simp

theorem EntryKept.clerkEdit (l : LineId) (s : State) (n : Nat) (v : List Byte) (p pos : Nat) :
    EntryKept l s (s.clerkEdit l n v p pos) :=
  ((EntryKept.changeValue l s n v p).trans (EntryKept.modField fun _ => FieldRec.clerkEdit_override _)).trans
    (EntryKept.modInst (fun _ => rfl) (fun _ => rfl) (fun _ => rfl) fun _ _ => rfl)

/-- R47, R51: a value has its value length. -/
theorem State.value_length (s : State) (l : LineId) (n : Nat) :
    (s.value l n).length = ((s.instOf l).field n).valueLength := Memory.readBytes_length _ _ _

/-! ## The steps of a run -/

/-- A property of a run under way on a line that each step of an element keeps: a refusal, a notice, the cursor's way to another
field, the check of a field, a submission, an edit of the cursor field, a movement, a repaint. -/
structure RunClosed (l : LineId) (P : Run → Prop) : Prop where
  bell : ∀ r : Run, P r → P (r.bell l)
  notice : ∀ (r : Run) (words : List Word), P r → P (r.notice words)
  enter : ∀ (r : Run) (n m : Nat), (r.state.instOf l).phase = .editing → (r.state.instOf l).cursorField = some n →
    (m ∈ (r.state.instOf l).openFields (r.state.formOf l) ∨ m = n) → P r →
      P (r.map fun s => s.modInst l fun i => i.enterField m 0)
  exitCheck : ∀ (r : Run) (n : Nat), (r.state.instOf l).phase = .editing → (r.state.instOf l).cursorField = some n → P r →
    P { r with state := (r.state.exitCheck l n).1 }
  count : ∀ r : Run, P r → P r.countSubmission
  recheck : ∀ (r : Run) (n : Nat), (r.state.instOf l).phase = .editing → P r → P { r with state := r.state.recheck l n }
  refuse : ∀ (r : Run) (n : Nat), (r.state.instOf l).phase = .editing →
    n ∈ (r.state.instOf l).openFields (r.state.formOf l) → P r → P { r with state := r.state.refuseSubmission l n }
  succeed : ∀ r : Run, (r.state.instOf l).phase = .editing → P r →
    P ⟨r.state.succeedSubmission l, r.need + Config.deliveredWords, r.used + Config.deliveredWords⟩
  edit : ∀ (r : Run) (n : Nat) (v : List Byte) (p pos : Nat), (r.state.instOf l).phase = .editing →
    (r.state.instOf l).cursorField = some n →
    (v.length ≤ ((r.state.formOf l).field n).length ∨ v.length ≤ ((r.state.instOf l).field n).valueLength) →
    ((r.state.instOf l).cursorPos ≤ ((r.state.instOf l).field n).valueLength → pos ≤ v.length) → P r →
      P { r with state := r.state.clerkEdit l n v p pos }
  move : ∀ (r : Run) (n pos : Nat), (r.state.instOf l).phase = .editing → (r.state.instOf l).cursorField = some n →
    ((r.state.instOf l).cursorPos ≤ ((r.state.instOf l).field n).valueLength →
      pos ≤ ((r.state.instOf l).field n).valueLength) → P r → P { r with state := r.state.moveCursor l pos }
  toggle : ∀ (r : Run) (mode : Inst → InsertMode), (r.state.instOf l).phase = .editing → P r →
    P (r.map fun s => s.modInst l fun i => { i with insertMode := mode i })
  repaint : ∀ r : Run, (r.state.instOf l).phase ≠ .closing → (r.state.instOf l).phase ≠ .presetting → P r →
    P (r.map fun s => s.refresh l)
  noted : ∀ (r : Run) (i : Inst), P r → P (r.map fun s => s.modInst l fun j => j.fieldWorkSince i)

namespace RunClosed

variable {l : LineId} {P : Run → Prop}

/-- R95: the cursor leaves its field for another one. -/
theorem leaveFor (h : RunClosed l P) {r : Run} {n m : Nat} (hp : (r.state.instOf l).phase = .editing)
    (hc : (r.state.instOf l).cursorField = some n)
    (hm : m ∈ (r.state.instOf l).openFields (r.state.formOf l) ∨ m = n) (hr : P r) : P (r.leaveFor l n m) := by
  rw [Run.leaveFor, Run.fieldExit]
  split_ifs
  · exact h.enter _ n m hp hc hm (h.notice _ _ hr)
  · exact h.enter _ n m hp hc hm hr

/-- R121: the sweep. -/
theorem sweep (h : RunClosed l P) (need used : Nat) (ns : List Nat) : ∀ s : State, (s.instOf l).phase = .editing →
    P ⟨s, need, used⟩ → P ⟨(s.sweep l ns).1, need, used⟩ ∧ EntryKept l s (s.sweep l ns).1 ∧
      ∀ n, (s.sweep l ns).2 = some n → n ∈ ns := by
  induction ns with
  | nil =>
    intro s _ hs
    exact ⟨hs, EntryKept.refl l s, fun n hn => by cases hn⟩
  | cons m ns ih =>
    intro s hp hs
    have hkept := EntryKept.recheck l s m
    have hs' := h.recheck ⟨s, need, used⟩ m hp hs
    rw [State.sweep]
    split_ifs
    · exact ⟨hs', hkept, fun n hn => by cases hn; exact List.mem_cons_self⟩
    · obtain ⟨h1, h2, h3⟩ := ih (s.recheck l m) (hkept.phase.trans hp) hs'
      exact ⟨h1, hkept.trans h2, fun n hn => List.mem_cons_of_mem m (h3 n hn)⟩

/-- R121 to R123: a submission whose forward-exit check has passed. -/
theorem sweepAndSubmit (h : RunClosed l P) {r : Run} (hp : (r.state.instOf l).phase = .editing) (hr : P r) :
    P (r.countSubmission.sweepAndSubmit l) := by
  obtain ⟨h1, h2, h3⟩ := h.sweep r.need r.used ((r.state.instOf l).openFields (r.state.formOf l)) r.state hp hr
  rw [Run.sweepAndSubmit]
  show P (match r.state.sweep l ((r.state.instOf l).openFields (r.state.formOf l)) with
    | (s, some n) => { r.countSubmission with state := s.refuseSubmission l n }
    | (s, none) => { r.countSubmission with state := s.succeedSubmission l, used := r.used + Config.deliveredWords })
  split
  next s n hsweep =>
    rw [hsweep] at h1 h2 h3
    have hopen : n ∈ (s.instOf l).openFields (s.formOf l) := h2.openFields ▸ h3 n rfl
    exact h.refuse ⟨s, r.need + Config.deliveredWords, r.used⟩ n (h2.phase.trans hp) hopen (h.count ⟨s, r.need, r.used⟩ h1)
  next s hsweep =>
    rw [hsweep] at h1 h2
    exact h.succeed ⟨s, r.need, r.used⟩ (h2.phase.trans hp) h1

/-- R119, R120: a SUBMIT. -/
theorem submit (h : RunClosed l P) {r : Run} (hp : (r.state.instOf l).phase = .editing) (hr : P r) : P (r.submit l) := by
  rw [Run.submit]
  split
  · exact h.sweepAndSubmit hp hr
  next n hc =>
    have hexit := h.exitCheck r n hp hc hr
    have hkept := EntryKept.exitCheck l r.state n
    split
    next s he =>
      rw [he] at hexit hkept
      exact h.sweepAndSubmit (r := { r with state := s }) (hkept.phase.trans hp) hexit
    next s he =>
      rw [he] at hexit
      exact h.bell _ (h.count _ hexit)

/-- R93: a forward exit whose check has passed. -/
theorem forward (h : RunClosed l P) {r : Run} {n : Nat} (hp : (r.state.instOf l).phase = .editing)
    (hc : (r.state.instOf l).cursorField = some n) (hr : P r) : P (r.forward l n) := by
  rw [Run.forward]
  split
  next m hm => exact h.leaveFor hp hc (.inl (List.mem_of_find?_eq_some hm)) hr
  next =>
    split
    · exact h.bell r hr
    · refine h.leaveFor hp hc ?_ hr
      cases (r.state.instOf l).openFields (r.state.formOf l) with
      | nil => exact .inr rfl
      | cons m ms => exact .inl List.mem_cons_self
    · exact h.sweepAndSubmit hp hr

/-- R92: NEXT. -/
theorem next (h : RunClosed l P) {r : Run} {n : Nat} (hp : (r.state.instOf l).phase = .editing)
    (hc : (r.state.instOf l).cursorField = some n) (hr : P r) : P (r.next l n) := by
  have hexit := h.exitCheck r n hp hc hr
  have hkept := EntryKept.exitCheck l r.state n
  rw [Run.next]
  split
  next s he =>
    rw [he] at hexit hkept
    exact h.forward (r := { r with state := s }) (hkept.phase.trans hp) (hkept.cursorField.trans hc) hexit
  next s he =>
    rw [he] at hexit
    exact h.bell _ hexit

/-- R94: PREV. -/
theorem prev (h : RunClosed l P) {r : Run} {n : Nat} (hp : (r.state.instOf l).phase = .editing)
    (hc : (r.state.instOf l).cursorField = some n) (hr : P r) : P (r.prev l n) := by
  rw [Run.prev]
  split
  next m hm => exact h.leaveFor hp hc (.inl (List.mem_reverse.1 (List.mem_of_find?_eq_some hm))) hr
  next =>
    split
    · refine h.leaveFor hp hc ?_ hr
      rcases List.eq_nil_or_concat ((r.state.instOf l).openFields (r.state.formOf l)) with hnil | ⟨ms, m, hms⟩
      · exact .inr (by rw [hnil]; rfl)
      · exact .inl (by rw [hms]; simp)
    · exact h.bell r hr

/-- R86: what placing a character makes of the value. -/
theorem placed_length {mode : InsertMode} {length : Nat} {v w : List Byte} {p : Nat} {c : Byte}
    (h : placed mode length v p c = some w) : (w.length ≤ length ∨ w.length ≤ v.length) ∧ (p ≤ v.length → p + 1 ≤ w.length) := by
  cases mode with
  | overwrite =>
    simp only [placed] at h
    split_ifs at h with h1 h2
    · cases h
      simp only [List.length_set]
      exact ⟨.inr (Nat.le_refl _), fun _ => h1⟩
    · cases h
      simp only [List.length_append, List.length_singleton]
      exact ⟨.inl h2, fun hp => by omega⟩
  | insert =>
    simp only [placed] at h
    split_ifs at h with h1
    cases h
    simp only [List.length_append, List.length_cons, List.length_take, List.length_drop]
    exact ⟨.inl (by omega), fun hp => by omega⟩

/-- R86 to R88: a character. -/
theorem char (h : RunClosed l P) {r : Run} {n : Nat} {c : Byte} (hp : (r.state.instOf l).phase = .editing)
    (hc : (r.state.instOf l).cursorField = some n) (hr : P r) : P (r.char l n c) := by
  rw [Run.char]
  dsimp only
  split
  · split
    next v hv =>
      obtain ⟨hlen, hpos⟩ := placed_length hv
      rw [State.value_length] at hlen hpos
      have hkept := EntryKept.clerkEdit l r.state n v (r.state.instOf l).cursorPos ((r.state.instOf l).cursorPos + 1)
      have hedit := h.edit r n v (r.state.instOf l).cursorPos ((r.state.instOf l).cursorPos + 1) hp hc hlen hpos hr
      split
      · exact h.next (r := { r with state := _ }) (hkept.phase.trans hp) (hkept.cursorField.trans hc) hedit
      · exact hedit
    · exact h.bell r hr
  · exact h.bell r hr

/-- R89 to R94: an action on the cursor field. -/
theorem onField (h : RunClosed l P) {r : Run} {n : Nat} {a : Action} (hp : (r.state.instOf l).phase = .editing)
    (hc : (r.state.instOf l).cursorField = some n) (hr : P r) : P (r.onField l n a) := by
  have hlen := r.state.value_length l n
  unfold Run.onField
  dsimp only
  split
  · exact h.next hp hc hr
  · exact h.prev hp hc hr
  · split_ifs
    · exact h.bell r hr
    · exact h.move r n _ hp hc (fun hle => by omega) hr
  · split_ifs with hend
    · exact h.bell r hr
    · exact h.move r n _ hp hc (fun hle => by omega) hr
  · exact h.move r n _ hp hc (fun _ => Nat.zero_le _) hr
  · exact h.move r n _ hp hc (fun _ => Nat.le_of_eq hlen) hr
  · split_ifs with hzero
    · exact h.bell r hr
    · refine h.edit r n _ _ _ hp hc (.inr ?_) (fun hle => ?_) hr
      · rw [← hlen]
        exact List.length_eraseIdx_le _ _
      · rw [List.length_eraseIdx_of_lt (by omega)]
        omega
  · split_ifs with hend
    · exact h.bell r hr
    · refine h.edit r n _ _ _ hp hc (.inr ?_) (fun hle => ?_) hr
      · rw [← hlen]
        exact List.length_eraseIdx_le _ _
      · rw [List.length_eraseIdx_of_lt (by omega)]
        omega
  · split_ifs
    · exact hr
    · exact h.edit r n _ _ _ hp hc (.inr (Nat.zero_le _)) (fun _ => Nat.le_refl _) hr
  · exact h.toggle r _ hp hr
  · exact hr

/-- R85, R98: an element applied in EDITING. -/
theorem inEditing (h : RunClosed l P) {r : Run} {e : Elem} (hp : (r.state.instOf l).phase = .editing) (hr : P r) :
    P (r.inEditing l e) := by
  unfold Run.inEditing
  split
  · exact hr
  · exact h.submit hp hr
  · exact h.notice r _ hr
  · exact h.notice r _ hr
  · exact h.repaint r (by simp [hp]) (by simp [hp]) hr
  · dsimp only
    split
    next n hc => exact h.onField hp hc hr
    · exact h.bell r hr
  · dsimp only
    split
    next n hc => exact h.char hp hc hr
    · exact h.bell r hr

/-- R76: an element applied by phase. -/
theorem byPhase (h : RunClosed l P) {r : Run} (e : Elem) (hr : P r) : P (Run.byPhase l r e) := by
  have hawaits (hc : (r.state.instOf l).phase ≠ .closing) (hpre : (r.state.instOf l).phase ≠ .presetting) :
      P (if e = .action .refresh then r.map fun s => s.refresh l else r.bell l) := by
    split_ifs
    · exact h.repaint r hc hpre hr
    · exact h.bell r hr
  rw [Run.byPhase]
  split
  next hp => exact h.inEditing hp hr
  next hp => exact hawaits (by simp [hp]) (by simp [hp])
  next hp => exact hawaits (by simp [hp]) (by simp [hp])
  next hp => exact hawaits (by simp [hp]) (by simp [hp])
  · exact hr

/-- R76: a run, element by element. -/
theorem applyRun (h : RunClosed l P) {s : State} (es : List Elem) (hs : P ⟨s, 0, 0⟩) : P (s.applyRun l es) := by
  have hfold : ∀ r, P r → P (es.foldl (Run.elem l) r) := by
    induction es with
    | nil => exact fun r hr => hr
    | cons e es ih => exact fun r hr => ih _ (h.noted _ _ (h.byPhase e hr))
  exact hfold _ hs

end RunClosed

end Sys2Proof.Machine
end

section
/-! PROOFS. What the operations on a line leave as it is: the part state, the slots, the profiles and the free list; the canonical form
of the memories, the capacities, and the place and size of every instance (R2, R10, R22, R46, R47, R51, R148, R180). -/

namespace Sys2Proof.Machine

open Sys2Proof.Safety

-- The proofs of the whole text share one memory limit, and each thread takes its part of it.
set_option Elab.async false

/-! ## The relation -/

/-- R22, R47, R51: an instance has a record for each field of its form, and no value is longer than its field. -/
def FieldsWhole (d : FormDef) (i : Inst) : Prop :=
  i.fields.length = d.fields.length ∧ ∀ n, n < i.fields.length → (i.field n).valueLength ≤ (d.field n).length

/-- R83: an instance has a record for each field of its form, and its cursor stands in an effectively unprotected field, within the
value, and at 0 in PRESETTING. -/
def CursorFine (d : FormDef) (i : Inst) : Prop :=
  i.fields.length = d.fields.length ∧ ∀ n, i.cursorField = some n →
    n < i.fields.length ∧ i.fieldProtected d n = false ∧ i.cursorPos ≤ (i.field n).valueLength ∧
      (i.phase = .presetting → i.cursorPos = 0)

/-- The phases in which an instance waits for nothing. -/
def waitless (p : Phase) : Prop := p = .painting ∨ p = .editing ∨ p = .awaitVerdict

/-- What an instance holds and waits for is the same. -/
def SameBook (i j : Inst) : Prop :=
  j.reservation = i.reservation ∧ j.pendingOpen = i.pendingOpen ∧ j.heldBuffer = i.heldBuffer ∧ j.pendingClose = i.pendingClose ∧
    (j.phase = i.phase ∨ waitless i.phase ∧ waitless j.phase)

/-- An instance whose slot, extent and number of fields are those of another one; with what it holds where `B`, and with its cursor
in order where `C`. -/
structure SameShape (B C : Prop) (d : FormDef) (i j : Inst) : Prop where
  slot : j.slot = i.slot
  extent : j.extent = i.extent
  fields : FormSound d → FieldsWhole d i → FieldsWhole d j
  book : B → SameBook i j
  cursor : C → CursorFine d i → CursorFine d j

/-- A line with its switch and configuration, within its capacities, and with an instance of the same shape or none. -/
structure LineKept (B C : Prop) (s : State) (x y : Line) : Prop where
  on : y.on = x.on
  config : y.config = x.config
  typeAhead : x.typeAhead.length ≤ 32 → y.typeAhead.length ≤ 32
  output : x.output.length ≤ 256 → y.output.length ≤ 256
  inst : (x.inst = none ∧ y.inst = none) ∨ ∃ i j, x.inst = some i ∧ y.inst = some j ∧ SameShape B C (s.form i) i j

/-- The waiting-lines queue, the bus and the reserved words are the same, and nothing is posted. -/
def SameQueues (s t : State) : Prop :=
  t.waiting = s.waiting ∧ t.transfer = s.transfer ∧ t.busQueue = s.busQueue ∧ t.reserved = s.reserved ∧
    t.answerQueue.length ≤ s.answerQueue.length

/-- What an operation that switches, opens and retires nothing leaves as it is: with the books where `B`, and with the cursors in order
where `C`. -/
structure Kept (B C : Prop) (s t : State) : Prop where
  partState : t.partState = s.partState
  slots : t.slots = s.slots
  profiles : t.profiles = s.profiles
  freeList : t.freeList = s.freeList
  memory : MemoryForm s → MemoryForm t
  commandQueue : s.commandQueue.length ≤ 128 → t.commandQueue.length ≤ 128
  bufferList : s.bufferList.length ≤ 16 → t.bufferList.length ≤ 16
  queues : B → SameQueues s t
  lines : ∀ m, LineKept B C s (s.line m) (t.line m)

variable {B C : Prop}

theorem SameBook.refl (i : Inst) : SameBook i i := ⟨rfl, rfl, rfl, rfl, .inl rfl⟩

theorem SameBook.trans {i j k : Inst} (h : SameBook i j) (h' : SameBook j k) : SameBook i k := by
  obtain ⟨h1, h2, h3, h4, h5⟩ := h
  obtain ⟨h1', h2', h3', h4', h5'⟩ := h'
  refine ⟨h1'.trans h1, h2'.trans h2, h3'.trans h3, h4'.trans h4, ?_⟩
  rcases h5 with e | ⟨hi, hj⟩
  · rwa [← e]
  · rcases h5' with e' | ⟨-, hk⟩
    · exact .inr ⟨hi, e' ▸ hj⟩
    · exact .inr ⟨hi, hk⟩

theorem SameShape.refl (d : FormDef) (i : Inst) : SameShape B C d i i := ⟨rfl, rfl, fun _ h => h, fun _ => SameBook.refl i, fun _ h => h⟩

theorem SameShape.trans {d : FormDef} {i j k : Inst} (h : SameShape B C d i j) (h' : SameShape B C d j k) : SameShape B C d i k :=
  ⟨h'.slot.trans h.slot, h'.extent.trans h.extent, fun hd hi => h'.fields hd (h.fields hd hi),
    fun hb => (h.book hb).trans (h'.book hb), fun hc hi => h'.cursor hc (h.cursor hc hi)⟩

theorem LineKept.refl (s : State) (x : Line) : LineKept B C s x x := by
  refine ⟨rfl, rfl, id, id, ?_⟩
  cases h : x.inst with
  | none => exact .inl ⟨rfl, rfl⟩
  | some i => exact .inr ⟨i, i, rfl, rfl, SameShape.refl _ i⟩

theorem State.form_congr {s t : State} {i j : Inst} (hs : t.slots = s.slots) (hi : j.slot = i.slot) : t.form j = s.form i := by
  rw [State.form, State.form, State.slot, State.slot, hs, hi]

theorem LineKept.trans {s t : State} (hs : t.slots = s.slots) {x y z : Line} (h : LineKept B C s x y) (h' : LineKept B C t y z) :
    LineKept B C s x z := by
  refine ⟨h'.on.trans h.on, h'.config.trans h.config, fun hx => h'.typeAhead (h.typeAhead hx),
    fun hx => h'.output (h.output hx), ?_⟩
  rcases h.inst with ⟨hx, hy⟩ | ⟨i, j, hx, hy, hij⟩
  · rcases h'.inst with ⟨-, hz⟩ | ⟨i, j, hy', -, -⟩
    · exact .inl ⟨hx, hz⟩
    · rw [hy] at hy'
      cases hy'
  · rcases h'.inst with ⟨hy', -⟩ | ⟨j', k, hy', hz, hjk⟩
    · rw [hy] at hy'
      cases hy'
    · rw [hy] at hy'
      cases hy'
      rw [State.form_congr hs hij.slot] at hjk
      exact .inr ⟨i, k, hx, hz, hij.trans hjk⟩

theorem SameQueues.refl (s : State) : SameQueues s s := ⟨rfl, rfl, rfl, rfl, Nat.le_refl _⟩

theorem SameQueues.trans {s t u : State} (h : SameQueues s t) (h' : SameQueues t u) : SameQueues s u := by
  obtain ⟨h1, h2, h3, h4, h5⟩ := h
  obtain ⟨h1', h2', h3', h4', h5'⟩ := h'
  exact ⟨h1'.trans h1, h2'.trans h2, h3'.trans h3, h4'.trans h4, h5'.trans h5⟩

theorem Kept.refl (s : State) : Kept B C s s :=
  ⟨rfl, rfl, rfl, rfl, id, id, id, fun _ => SameQueues.refl s, fun m => LineKept.refl s (s.line m)⟩

theorem Kept.trans {s t u : State} (h : Kept B C s t) (h' : Kept B C t u) : Kept B C s u :=
  ⟨h'.partState.trans h.partState, h'.slots.trans h.slots, h'.profiles.trans h.profiles, h'.freeList.trans h.freeList,
    fun hs => h'.memory (h.memory hs), fun hs => h'.commandQueue (h.commandQueue hs), fun hs => h'.bufferList (h.bufferList hs),
    fun hb => (h.queues hb).trans (h'.queues hb), fun m => (h.lines m).trans h.slots (h'.lines m)⟩

/-! ## What each operation keeps -/

/-- An operation that touches the port and the lists alone. -/
theorem Kept.of_frame {s t : State} (hpart : t.partState = s.partState) (hslots : t.slots = s.slots)
    (hprofiles : t.profiles = s.profiles) (hfree : t.freeList = s.freeList) (hvalue : t.valueMemory = s.valueMemory)
    (hbuffer : t.transferBuffer = s.transferBuffer) (hhost : t.hostMemory = s.hostMemory)
    (hqueue : t.commandQueue.length ≤ s.commandQueue.length) (hlist : t.bufferList.length ≤ s.bufferList.length)
    (hlines : t.lines = s.lines) (hqueues : B → SameQueues s t) : Kept B C s t := by
  refine ⟨hpart, hslots, hprofiles, hfree, fun h => ?_, hqueue.trans, hlist.trans, hqueues, fun m => ?_⟩
  · rwa [MemoryForm, hvalue, hbuffer, hhost]
  · rw [State.line, State.line, hlines]
    exact LineKept.refl s _

/-- An operation on a line. -/
theorem Kept.setLine {s : State} {l : LineId} {y : Line} (h : LineKept B C s (s.line l) y) : Kept B C s (s.setLine l y) := by
  refine ⟨rfl, rfl, rfl, rfl, id, id, id, fun _ => SameQueues.refl s, fun m => ?_⟩
  by_cases hm : m = l
  · subst hm
    rwa [State.setLine_line_self]
  · rw [State.setLine_line_of_ne _ _ hm]
    exact LineKept.refl s _

/-- An operation on a line that leaves its instance, and adds nothing to its queues. -/
theorem Kept.modLine {s : State} {l : LineId} {f : Line → Line} (hon : ∀ x, (f x).on = x.on)
    (hconfig : ∀ x, (f x).config = x.config) (hinst : ∀ x, (f x).inst = x.inst)
    (htype : ∀ x, (f x).typeAhead.length ≤ x.typeAhead.length ∨ (f x).typeAhead.length ≤ 32)
    (hout : ∀ x, (f x).output.length ≤ x.output.length ∨ (f x).output.length ≤ 256) : Kept B C s (s.modLine l f) := by
  refine Kept.setLine ⟨hon _, hconfig _, fun h => ?_, fun h => ?_, ?_⟩
  · rcases htype (s.line l) with h' | h'
    · exact h'.trans h
    · exact h'
  · rcases hout (s.line l) with h' | h'
    · exact h'.trans h
    · exact h'
  · rw [hinst]
    exact (LineKept.refl s (s.line l)).inst

/-- An operation on an instance. -/
theorem Kept.modInst {s : State} {l : LineId} {f : Inst → Inst}
    (hf : ∀ i, s.inst l = some i → SameShape B C (s.form i) i (f i)) : Kept B C s (s.modInst l f) := by
  rw [State.modInst_eq]
  refine Kept.setLine ⟨rfl, rfl, id, id, ?_⟩
  cases h : (s.line l).inst with
  | none => exact .inl ⟨rfl, rfl⟩
  | some i => exact .inr ⟨i, f i, rfl, rfl, hf i h⟩

/-- The parts of an instance that the relation speaks of. -/
def Inst.core (i : Inst) :
    SlotId × Extent × List FieldRec × Phase × Option Nat × Nat × Nat × Option Byte × Option Descriptor × List PendingClose :=
  (i.slot, i.extent, i.fields, i.phase, i.cursorField, i.cursorPos, i.reservation, i.pendingOpen, i.heldBuffer, i.pendingClose)

theorem SameShape.of_core {d : FormDef} {i j : Inst} (h : j.core = i.core) : SameShape B C d i j := by
  simp only [Inst.core, Prod.mk.injEq] at h
  obtain ⟨hslot, hextent, hfields, hphase, hcursor, hpos, hres, hopen, hheld, hclose⟩ := h
  refine ⟨hslot, hextent, fun _ hi => ?_, fun _ => ⟨hres, hopen, hheld, hclose, .inl hphase⟩, fun _ hi => ?_⟩
  · simpa only [FieldsWhole, Inst.field, hfields] using hi
  · simpa only [CursorFine, Inst.fieldProtected, Inst.field, hfields, hphase, hcursor, hpos] using hi

/-- An operation on an instance that leaves its place, its fields, its phase, its cursor and what it holds. -/
theorem Kept.modInst_core {s : State} {l : LineId} {f : Inst → Inst} (hf : ∀ i, (f i).core = i.core) :
    Kept B C s (s.modInst l f) := Kept.modInst fun i _ => SameShape.of_core (hf i)

/-- The record of field `n` is replaced by one whose value is no longer, or fits the field. -/
theorem FieldsWhole.withField {d : FormDef} {i : Inst} (h : FieldsWhole d i) {n : Nat} {r : FieldRec}
    (hr : r.valueLength ≤ (i.field n).valueLength ∨ r.valueLength ≤ (d.field n).length) : FieldsWhole d (withField i n r) := by
  have hlen : (Safety.withField i n r).fields.length = i.fields.length := List.length_set
  refine ⟨hlen.trans h.1, fun m hm => ?_⟩
  rw [hlen] at hm
  by_cases hmn : m = n
  · subst hmn
    rw [field_withField hm]
    rcases hr with hr | hr
    · exact hr.trans (h.2 m hm)
    · exact hr
  · rw [field_withField_of_ne hmn]
    exact h.2 m hm

/-- The record of field `n` is replaced by one with the same override, and a cursor in it stays within the value. -/
theorem CursorFine.setField {d : FormDef} {i j : Inst} (h : CursorFine d i) {n : Nat} {r : FieldRec} (hj : j.fields = i.fields.set n r)
    (hover : r.override = (i.field n).override) (hcursor : j.cursorField = i.cursorField)
    (hpos : i.cursorField = some n → i.cursorPos ≤ (i.field n).valueLength → j.cursorPos ≤ r.valueLength)
    (hother : i.cursorField ≠ some n → j.cursorPos ≤ i.cursorPos)
    (hphase : j.phase = .presetting → i.phase = .presetting ∧ (i.cursorPos = 0 → j.cursorPos = 0)) : CursorFine d j := by
  have hlen : j.fields.length = i.fields.length := by rw [hj, List.length_set]
  have hsame : j.field n = (Safety.withField i n r).field n := by simp only [Inst.field, Safety.withField, hj]
  refine ⟨hlen.trans h.1, fun m hm => ?_⟩
  rw [hcursor] at hm
  obtain ⟨hlt, hprot, hle, hpre⟩ := h.2 m hm
  refine ⟨hlen ▸ hlt, ?_, ?_, fun hp => (hphase hp).2 (hpre (hphase hp).1)⟩
  all_goals by_cases hmn : m = n
  · subst hmn
    rw [Inst.fieldProtected, hsame, field_withField hlt, FieldRec.protection, hover]
    exact hprot
  · have : j.field m = i.field m := by simp [Inst.field, hj, List.getElem?_set_ne (Ne.symm hmn)]
    rw [Inst.fieldProtected, this]
    exact hprot
  · subst hmn
    rw [hsame, field_withField hlt]
    exact hpos hm hle
  · have : j.field m = i.field m := by simp [Inst.field, hj, List.getElem?_set_ne (Ne.symm hmn)]
    rw [this]
    exact (hother fun e => hmn (Option.some.inj (hm.symm.trans e))).trans hle

/-- An operation on a field that does not change its value length or its override. -/
theorem SameShape.modField {d : FormDef} {i : Inst} {n : Nat} {g : FieldRec → FieldRec} (hg : ∀ r, (g r).valueLength = r.valueLength)
    (hover : ∀ r, (g r).override = r.override) : SameShape B C d i (i.modField n g) := by
  refine ⟨rfl, rfl, fun _ h => h.withField (.inl (Nat.le_of_eq (hg _))), fun _ => ⟨rfl, rfl, rfl, rfl, .inl rfl⟩, fun _ h => ?_⟩
  exact h.setField rfl (hover _) rfl (fun _ hle => (hg _).symm ▸ hle) (fun _ => Nat.le_refl _) fun hp => ⟨hp, id⟩

theorem Kept.modField {s : State} {l : LineId} {n : Nat} {g : FieldRec → FieldRec} (hg : ∀ r, (g r).valueLength = r.valueLength)
    (hover : ∀ r, (g r).override = r.override) : Kept B C s (s.modField l n g) :=
  Kept.modInst fun _ _ => SameShape.modField hg hover

/-- An operation on every field that does not change a value length or an override. -/
theorem SameShape.map {d : FormDef} {i j : Inst} {g : FieldRec → FieldRec} (hg : ∀ r, (g r).valueLength = r.valueLength)
    (hover : ∀ r, (g r).override = r.override) (hj : j.fields = i.fields.map g) (hslot : j.slot = i.slot)
    (hextent : j.extent = i.extent) (hbook : B → SameBook i j)
    (hcursor : j.cursorField = i.cursorField) (hpos : j.cursorPos = i.cursorPos)
    (hphase : j.phase = .presetting → i.phase = .presetting) : SameShape B C d i j := by
  have hlen : j.fields.length = i.fields.length := by rw [hj, List.length_map]
  have hfield {n : Nat} (hn : n < i.fields.length) : j.field n = g (i.field n) := by simp [Inst.field, hj, hn]
  refine ⟨hslot, hextent, fun _ h => ⟨hlen.trans h.1, fun n hn => ?_⟩, hbook, fun _ h => ⟨hlen.trans h.1, fun n hn => ?_⟩⟩
  · rw [hlen] at hn
    rw [hfield hn, hg]
    exact h.2 n hn
  · rw [hcursor] at hn
    obtain ⟨hlt, hprot, hle, hpre⟩ := h.2 n hn
    refine ⟨hlen ▸ hlt, ?_, ?_, fun hp => ?_⟩
    · rw [Inst.fieldProtected, hfield hlt, FieldRec.protection, hover]
      exact hprot
    · rw [hfield hlt, hg, hpos]
      exact hle
    · rw [hpos]
      exact hpre (hphase hp)

/-- The cursor enters a field that is effectively unprotected. -/
theorem CursorFine.enterField {d : FormDef} {i : Inst} (h : CursorFine d i) {m pos : Nat} (hm : m ∈ i.openFields d ∨ i.cursorField = some m)
    (hpos : pos ≤ (i.field m).valueLength) (hphase : i.phase = .presetting → pos = 0) : CursorFine d (i.enterField m pos) := by
  refine ⟨h.1, fun n hn => ?_⟩
  obtain rfl : m = n := Option.some.inj hn
  refine ⟨?_, ?_, hpos, hphase⟩
  · rcases hm with hm | hm
    · rw [Inst.openFields, List.mem_filter, FormDef.fieldNumbers, List.mem_range] at hm
      exact h.1.symm ▸ hm.1
    · exact (h.2 m hm).1
  · rcases hm with hm | hm
    · rw [Inst.openFields, List.mem_filter] at hm
      have hprot : i.fieldProtected d m = false := by simpa using hm.2
      exact hprot
    · exact (h.2 m hm).2.1

/-! ## The operations one by one -/

theorem Kept.post (s : State) (n : Nat) (r : List Word) : Kept False C s (s.post n r) :=
  Kept.of_frame rfl rfl rfl rfl rfl rfl rfl (Nat.le_refl _) (Nat.le_refl _) rfl False.elim

theorem Kept.release (s : State) (n : Nat) : Kept False C s (s.release n) :=
  Kept.of_frame rfl rfl rfl rfl rfl rfl rfl (Nat.le_refl _) (Nat.le_refl _) rfl False.elim

theorem Kept.reply (s : State) (c : Command) (st : Status) (data : List Word) : Kept False C s (s.reply c st data) :=
  Kept.post s _ _

theorem Kept.grant (s : State) (c : Claimant) (n : Nat) : Kept False C s (s.grant c n) :=
  Kept.of_frame rfl rfl rfl rfl rfl rfl rfl (Nat.le_refl _) (Nat.le_refl _) rfl False.elim

theorem Kept.placeRequest (s : State) (r : Request) : Kept False C s (s.placeRequest r) :=
  Kept.of_frame rfl rfl rfl rfl rfl rfl rfl (Nat.le_refl _) (Nat.le_refl _) rfl False.elim

theorem Kept.leaveWaiting (s : State) (l : LineId) : Kept False C s (s.leaveWaiting l) :=
  Kept.of_frame rfl rfl rfl rfl rfl rfl rfl (Nat.le_refl _) (Nat.le_refl _) rfl False.elim

theorem Kept.withdraw (s : State) (o : Owner) : Kept False C s (s.withdraw o) :=
  Kept.of_frame rfl rfl rfl rfl rfl rfl rfl (Nat.le_refl _) (Nat.le_refl _) rfl False.elim

theorem Kept.endTransfer (s : State) : Kept False C s s.endTransfer :=
  Kept.of_frame rfl rfl rfl rfl rfl rfl rfl (Nat.le_refl _) (Nat.le_refl _) rfl False.elim

theorem Kept.beginTaking (s : State) (c : Command) : Kept False C s (s.beginTaking c) :=
  Kept.of_frame rfl rfl rfl rfl rfl rfl rfl (by simp [State.beginTaking]) (Nat.le_refl _) rfl False.elim

theorem Kept.nextSerial (s : State) (v : Word) : Kept B C s { s with nextSerial := v } :=
  Kept.of_frame rfl rfl rfl rfl rfl rfl rfl (Nat.le_refl _) (Nat.le_refl _) rfl fun _ => SameQueues.refl s

/-- Value memory is written. -/
theorem Kept.writeValue (s : State) {m : Memory} (h : s.valueMemory.wf = true → m.wf = true) : Kept B C s { s with valueMemory := m } :=
  ⟨rfl, rfl, rfl, rfl, fun hs => ⟨h hs.1, hs.2⟩, id, id, fun _ => SameQueues.refl s, fun m => LineKept.refl s (s.line m)⟩

theorem Kept.fillBuffer (s : State) (bytes : List Byte) : Kept B C s (s.fillBuffer bytes) :=
  ⟨rfl, rfl, rfl, rfl, fun h => ⟨h.1, Memory.wf_writeBytes _ _ _ h.2.1, h.2.2⟩, id, id, fun _ => SameQueues.refl s,
    fun m => LineKept.refl s (s.line m)⟩

theorem Kept.writeHost (s : State) (address : HostAddr) (bytes : List Byte) : Kept B C s (s.writeHost address bytes) :=
  ⟨rfl, rfl, rfl, rfl, fun h => ⟨h.1, h.2.1, Memory.wf_writeBytes _ _ _ h.2.2⟩, id, id, fun _ => SameQueues.refl s,
    fun m => LineKept.refl s (s.line m)⟩

theorem Kept.bell (s : State) (l : LineId) : Kept B C s (s.bell l) := by
  rw [State.bell_eq]
  exact Kept.modLine (f := fun x => { x with bellPending := _ }) (fun _ => rfl) (fun _ => rfl) (fun _ => rfl)
    (fun _ => .inl (Nat.le_refl _)) fun _ => .inl (Nat.le_refl _)

theorem Kept.queueClear (s : State) (l : LineId) (wanted : Bool) : Kept B C s (s.queueClear l wanted) := by
  rw [State.queueClear_eq]
  exact Kept.modLine (f := fun x => { x with clearPending := _ }) (fun _ => rfl) (fun _ => rfl) (fun _ => rfl)
    (fun _ => .inl (Nat.le_refl _)) fun _ => .inl (Nat.le_refl _)

theorem Kept.setFlag (s : State) (l : LineId) (f : EventFlags → EventFlags) : Kept B C s (s.setFlag l f) := by
  have hcases (x : Line) : ∃ g, (if x.on = true then { x with flags := f x.flags } else x) = { x with flags := g } := by
    split_ifs
    · exact ⟨_, rfl⟩
    · exact ⟨x.flags, rfl⟩
  refine Kept.modLine (fun x => ?_) (fun x => ?_) (fun x => ?_) (fun x => .inl ?_) fun x => .inl ?_
  all_goals
    obtain ⟨g, hg⟩ := hcases x
    rw [hg]

/-- What follows a happening on a line. -/
theorem Kept.settle (s : State) (l : LineId) : Kept B C s (s.settle l) := by
  obtain ⟨x, hx, hb, -⟩ := s.settle_becomes l
  rw [hx]
  have hline := hb.line
  refine Kept.setLine ⟨?_, ?_, ?_, ?_, ?_⟩
  · rw [hline]
  · rw [hline]
  · rw [hline]
    exact id
  · rw [hline]
    exact id
  · cases hi : (s.line l).inst with
    | none => exact .inl ⟨rfl, by rw [hline, hi]; rfl⟩
    | some i =>
      refine .inr ⟨i, { i with inactivity := inactivityAfter (s.line l) i }, rfl, ?_, SameShape.of_core rfl⟩
      rw [hline]
      show (s.line l).inst.map _ = _
      rw [hi]
      rfl

theorem Kept.fullRepaint (s : State) (l : LineId) : Kept B C s (s.fullRepaint l) := by
  unfold State.fullRepaint
  refine Kept.trans (t := s.modInst l fun i => { i.markAll with textIndex := some 0 }) (Kept.modInst fun i _ => ?_) ?_
  · exact SameShape.map (g := fun r => { r with staleFrom := some 0 }) (fun _ => rfl) (fun _ => rfl) rfl rfl rfl
      (fun _ => ⟨rfl, rfl, rfl, rfl, .inl rfl⟩) rfl rfl id
  · have hcases (x : Line) : ∃ b, (if x.detached = true then x else { x with clearPending := true }) = { x with clearPending := b } := by
      split_ifs
      · exact ⟨x.clearPending, rfl⟩
      · exact ⟨true, rfl⟩
    refine Kept.modLine (fun x => ?_) (fun x => ?_) (fun x => ?_) (fun x => .inl ?_) fun x => .inl ?_
    all_goals
      obtain ⟨g, hg⟩ := hcases x
      rw [hg]

theorem Kept.discardDisplay (s : State) (l : LineId) : Kept B C s (s.discardDisplay l) := by
  unfold State.discardDisplay
  refine Kept.trans (t := s.modInst l Inst.discardDisplay) (Kept.modInst fun i _ => ?_) ?_
  · exact SameShape.map (g := fun r => { r with staleFrom := none }) (fun _ => rfl) (fun _ => rfl) rfl rfl rfl
      (fun _ => ⟨rfl, rfl, rfl, rfl, .inl rfl⟩) rfl rfl id
  · exact Kept.modLine (fun _ => rfl) (fun _ => rfl) (fun _ => rfl) (fun _ => .inl (Nat.le_refl _))
      fun _ => .inl (Nat.le_refl _)

/-- A phase in which an instance waits for nothing becomes another such phase. -/
theorem SameShape.phase {d : FormDef} {i : Inst} {p : Phase} (hi : waitless i.phase) (hp : waitless p) :
    SameShape B C d i { i with phase := p } := by
  refine ⟨rfl, rfl, fun _ h => h, fun _ => ⟨rfl, rfl, rfl, rfl, .inr ⟨hi, hp⟩⟩, fun _ h => ⟨h.1, fun n hn => ?_⟩⟩
  obtain ⟨hlt, hprot, hle, -⟩ := h.2 n hn
  refine ⟨hlt, hprot, hle, fun hpre => ?_⟩
  have : p = .presetting := hpre
  rcases hp with e | e | e <;> rw [e] at this <;> cases this

theorem Kept.refresh (s : State) (l : LineId) : Kept B C s (s.refresh l) := by
  refine Kept.trans (Kept.fullRepaint s l) (Kept.modInst fun i _ => ?_)
  split_ifs with h
  · exact SameShape.phase (.inr (.inl h)) (.inl rfl)
  · exact SameShape.refl _ i

/-- Two operations on an instance are one. -/
theorem State.modInst_modInst (s : State) (l : LineId) (f g : Inst → Inst) :
    (s.modInst l f).modInst l g = s.modInst l fun i => g (f i) := by
  rw [State.modInst_eq, State.modInst_eq, State.modInst_eq, State.setLine_line_self, State.setLine_setLine, Option.map_map]
  rfl

/-- R47, R51: a value that is written is one in value memory and one in the record of its field. -/
theorem State.putValue_eq (s : State) (l : LineId) (n : Nat) (v : List Byte) :
    s.putValue l n v =
      State.modInst { s with valueMemory := Memory.writeBytes s.valueMemory (s.valueAddress (s.instOf l) n) v } l fun i =>
        i.modField n fun r => { r with valueLength := v.length } := rfl

/-- A value that is no longer, or fits the field. -/
theorem Kept.changeValue {s : State} {l : LineId} {n : Nat} {v : List Byte}
    (hv : v.length ≤ ((s.instOf l).field n).valueLength ∨ v.length ≤ ((s.formOf l).field n).length) (p : Nat) :
    Kept B False s (s.changeValue l n v p) := by
  unfold State.changeValue State.putValue
  refine Kept.trans (Kept.trans (Kept.writeValue s (Memory.wf_writeBytes v s.valueMemory (s.valueAddress (s.instOf l) n))) ?_)
    (Kept.modField (fun _ => rfl) fun _ => rfl)
  refine Kept.modInst fun i hi => ⟨rfl, rfl, fun _ h => ?_, fun _ => ⟨rfl, rfl, rfl, rfl, .inl rfl⟩, False.elim⟩
  have hi' : s.instOf l = i := State.instOf_of_inst hi
  rw [State.formOf, hi'] at hv
  exact h.withField hv

theorem Kept.recheck (s : State) (l : LineId) (n : Nat) : Kept B C s (s.recheck l n) :=
  Kept.modField (fun r => FieldRec.setInvalid_valueLength r _) fun r => FieldRec.setInvalid_override r _

/-- R59: the value a forward exit leaves fits the field, or is the value it found. -/
theorem exitOutcome_fits (f : FieldDef) (v : List Byte) : (exitOutcome f v).1 = v ∨ (exitOutcome f v).1.length ≤ f.length := by
  unfold exitOutcome
  split
  · split_ifs with h1 h2 h3
    · exact .inl rfl
    · exact .inl rfl
    · exact .inl rfl
    · exact .inr (Nat.le_of_not_lt h3)
  · exact .inl rfl

/-- The cursors are in order too, where the operation leaves them so. -/
theorem Kept.withCursor {s t : State} (h : Kept B False s t)
    (hc : C → ∀ l i j, s.inst l = some i → t.inst l = some j → CursorFine (s.form i) i → CursorFine (s.form i) j) : Kept B C s t := by
  refine { h with lines := fun m => ?_ }
  obtain ⟨hon, hconfig, htype, hout, hinst⟩ := h.lines m
  refine ⟨hon, hconfig, htype, hout, hinst.imp id ?_⟩
  rintro ⟨i, j, hi, hj, hij⟩
  exact ⟨i, j, hi, hj, hij.slot, hij.extent, hij.fields, hij.book, fun hC => hc hC m i j hi hj⟩

/-- Two operations on a field are one. -/
theorem Inst.modField_modField (i : Inst) (n : Nat) (f g : FieldRec → FieldRec) :
    (i.modField n f).modField n g = i.modField n fun r => g (f r) := by
  by_cases hn : n < i.fields.length
  · have hfield : (i.modField n f).field n = f (i.field n) := field_withField hn _
    rw [Inst.modField, hfield, Inst.modField, Inst.modField]
    simp
  · have hle : i.fields.length ≤ n := Nat.le_of_not_lt hn
    have hnone (h : FieldRec → FieldRec) : i.modField n h = i := by rw [Inst.modField, List.set_eq_of_length_le hle]
    rw [hnone, hnone, hnone]

theorem State.modField_eq (s : State) (l : LineId) (n : Nat) (f : FieldRec → FieldRec) :
    s.modField l n f = s.modInst l fun i => i.modField n f := rfl

/-- R56: what a new value makes of value memory and of the record of its field. -/
theorem State.changeValue_eq (s : State) (l : LineId) (n : Nat) (v : List Byte) (p : Nat) :
    s.changeValue l n v p =
      State.modInst { s with valueMemory := Memory.writeBytes s.valueMemory (s.valueAddress (s.instOf l) n) v } l fun i =>
        i.modField n fun r => FieldRec.lowerStale { r with valueLength := v.length } p := by
  rw [State.changeValue, State.putValue_eq, State.modField_eq, State.modInst_modInst]
  simp only [Inst.modField_modField]

/-- R59, R92: what a forward-exit check makes of value memory. -/
def State.exitMemory (s : State) (l : LineId) (n : Nat) : Memory :=
  let out := exitOutcome ((s.formOf l).field n) (s.value l n)
  if out.1 = s.value l n then s.valueMemory
  else Memory.writeBytes s.valueMemory (s.valueAddress (s.instOf l) n) out.1

/-- R56, R59, R92: what a forward-exit check that found `v` and gave `out` makes of the record of its field. -/
def FieldRec.afterExit (v : List Byte) (out : List Byte × Bool) (r : FieldRec) : FieldRec :=
  let r := if out.1 = v then r else FieldRec.lowerStale { r with valueLength := out.1.length } (firstDiff v out.1)
  if out.2 then r.setInvalid false else { r.setInvalid true with staleFrom := some 0 }

@[simp] theorem FieldRec.afterExit_override (v : List Byte) (out : List Byte × Bool) (r : FieldRec) :
    (r.afterExit v out).override = r.override := by
  unfold FieldRec.afterExit
  dsimp only
  split_ifs <;> simp [FieldRec.lowerStale]

/-- R59, R92, R93: the forward-exit check of a field, as one write and one operation on the instance. -/
theorem State.exitCheck_eq (s : State) (l : LineId) (n : Nat) :
    (s.exitCheck l n).1 =
      State.modInst { s with valueMemory := s.exitMemory l n } l fun i =>
        (i.modField n (FieldRec.afterExit (s.value l n) (exitOutcome ((s.formOf l).field n) (s.value l n)))).clampCursor n := by
  unfold State.exitCheck State.exitMemory FieldRec.afterExit
  dsimp only
  by_cases h : (exitOutcome ((s.formOf l).field n) (s.value l n)).1 = s.value l n
  · simp only [if_pos h]
    rw [State.modField_eq, State.modInst_modInst]
  · simp only [if_neg h]
    rw [State.changeValue_eq, State.modField_eq, State.modInst_modInst, State.modInst_modInst]
    simp only [Inst.modField_modField]

/-- R93: what the clamping of the cursor leaves, and where it leaves the cursor. -/
theorem Inst.clampCursor_spec (i : Inst) (n : Nat) :
    (i.clampCursor n).core = { i with cursorPos := (i.clampCursor n).cursorPos }.core ∧ (i.clampCursor n).cursorPos ≤ i.cursorPos ∧
      (i.cursorField = some n → (i.clampCursor n).cursorPos ≤ (i.field n).valueLength) := by
  unfold Inst.clampCursor
  split_ifs with h
  · exact ⟨rfl, h.2.le, fun _ => Nat.le_refl _⟩
  · exact ⟨rfl, Nat.le_refl _, fun hc => Nat.le_of_not_lt fun hlt => h ⟨hc, hlt⟩⟩

/-- R59: the value length after a forward-exit check fits the field, or is what it was. -/
theorem FieldRec.afterExit_length (f : FieldDef) (v : List Byte) (x : FieldRec) :
    (x.afterExit v (exitOutcome f v)).valueLength = x.valueLength ∨ (x.afterExit v (exitOutcome f v)).valueLength ≤ f.length := by
  have hfits := exitOutcome_fits f v
  unfold FieldRec.afterExit
  dsimp only
  by_cases h : (exitOutcome f v).1 = v
  · left
    simp only [if_pos h]
    split_ifs <;> simp
  · right
    simp only [if_neg h]
    split_ifs <;> simpa [FieldRec.lowerStale] using hfits.resolve_left h

theorem wf_exitMemory (s : State) (l : LineId) (n : Nat) (h : s.valueMemory.wf = true) : (s.exitMemory l n).wf = true := by
  unfold State.exitMemory
  dsimp only
  split_ifs
  · exact h
  · exact Memory.wf_writeBytes _ _ _ h

/-- The forward-exit check of the cursor field. -/
theorem Kept.exitCheck {s : State} {l : LineId} {n : Nat} (hn : C → (s.instOf l).cursorField = some n) :
    Kept B C s (s.exitCheck l n).1 := by
  rw [State.exitCheck_eq]
  refine Kept.trans (Kept.writeValue s (wf_exitMemory s l n)) (Kept.modInst fun i hi => ?_)
  have hi' : s.instOf l = i := State.instOf_of_inst hi
  have hform : s.formOf l = s.form i := congrArg s.form hi'
  rw [hi'] at hn
  rw [hform]
  have hlength := FieldRec.afterExit_length ((s.form i).field n) (s.value l n) (i.field n)
  have hover := FieldRec.afterExit_override (s.value l n) (exitOutcome ((s.form i).field n) (s.value l n)) (i.field n)
  generalize FieldRec.afterExit (s.value l n) (exitOutcome ((s.form i).field n) (s.value l n)) = g at hlength hover
  obtain ⟨hcore, hle, hpos⟩ := (i.modField n g).clampCursor_spec n
  have hwhole : SameShape B False (s.form i) i (i.modField n g) :=
    ⟨rfl, rfl, fun _ h => h.withField (hlength.imp Nat.le_of_eq id), fun _ => ⟨rfl, rfl, rfl, rfl, .inl rfl⟩, False.elim⟩
  simp only [Inst.core, Prod.mk.injEq] at hcore
  obtain ⟨hslot, hextent, hfields, hphase, hcursor, -, hres, hopen, hheld, hclose⟩ := hcore
  refine ⟨hslot, hextent, fun hd h => ?_, fun _ => ⟨hres, hopen, hheld, hclose, .inl hphase⟩, fun hC h => ?_⟩
  · have hmod := hwhole.fields hd h
    refine ⟨(congrArg List.length hfields).trans hmod.1, fun m hm => ?_⟩
    rw [Inst.field, hfields]
    exact hmod.2 m (hfields ▸ hm)
  · have hlt := (h.2 n (hn hC)).1
    have hfield : (i.modField n g).field n = g (i.field n) := field_withField hlt _
    refine CursorFine.setField h (n := n) (r := g (i.field n)) hfields hover hcursor (fun hc _ => ?_) (fun _ => hle) fun hp => ?_
    · rw [← hfield]
      exact hpos hc
    · exact ⟨hphase.symm.trans hp, fun hzero => Nat.le_zero.1 (hle.trans_eq hzero)⟩

/-- R52, R87, R90: a clerk edit, as one write and one operation on the instance. -/
theorem State.clerkEdit_eq (s : State) (l : LineId) (n : Nat) (v : List Byte) (p pos : Nat) :
    s.clerkEdit l n v p pos =
      State.modInst { s with valueMemory := Memory.writeBytes s.valueMemory (s.valueAddress (s.instOf l) n) v } l fun i =>
        { i.modField n fun r => (FieldRec.lowerStale { r with valueLength := v.length } p).clerkEdit with
          edited := true
          cursorPos := pos
          cursorStale := i.cursorStale || decide (pos ≠ i.cursorPos) } := by
  rw [State.clerkEdit, State.changeValue_eq, State.modField_eq, State.modInst_modInst, State.modInst_modInst]
  simp only [Inst.modField_modField]
  rfl

/-- An edit of the cursor field whose value is no longer, or fits the field, and holds the cursor. -/
theorem Kept.clerkEdit {s : State} {l : LineId} {n : Nat} {v : List Byte} {p pos : Nat}
    (hphase : C → (s.instOf l).phase = .editing) (hn : C → (s.instOf l).cursorField = some n)
    (hv : v.length ≤ ((s.instOf l).field n).valueLength ∨ v.length ≤ ((s.formOf l).field n).length)
    (hpos : (s.instOf l).cursorPos ≤ ((s.instOf l).field n).valueLength → pos ≤ v.length) : Kept B C s (s.clerkEdit l n v p pos) := by
  rw [State.clerkEdit_eq]
  refine Kept.trans (Kept.writeValue s (Memory.wf_writeBytes v s.valueMemory (s.valueAddress (s.instOf l) n)))
    (Kept.modInst fun i hi => ?_)
  have hi' : s.instOf l = i := State.instOf_of_inst hi
  rw [State.formOf] at hv
  rw [hi'] at hphase hn hv hpos
  have hlen (r : FieldRec) : ((FieldRec.lowerStale { r with valueLength := v.length } p).clerkEdit).valueLength = v.length := by
    rw [FieldRec.clerkEdit_valueLength]
    rfl
  refine ⟨rfl, rfl, fun _ h => ?_, fun _ => ⟨rfl, rfl, rfl, rfl, .inl rfl⟩, fun hC h => ?_⟩
  · refine h.withField (n := n) (r := (FieldRec.lowerStale { i.field n with valueLength := v.length } p).clerkEdit) ?_
    rw [hlen]
    exact hv
  · refine CursorFine.setField h (n := n) rfl ?_ rfl (fun _ hle => ?_) (fun hne => absurd (hn hC) hne) fun hp => ?_
    · rw [FieldRec.clerkEdit_override]
      rfl
    · rw [hlen]
      exact hpos hle
    · have hedit : i.phase = .presetting := hp
      rw [hphase hC] at hedit
      cases hedit

/-- The cursor enters a field. -/
theorem Kept.enterField {s : State} {l : LineId} {m pos : Nat}
    (h : C → ∀ i, s.inst l = some i → CursorFine (s.form i) i → CursorFine (s.form i) (i.enterField m pos)) :
    Kept B C s (s.modInst l fun i => i.enterField m pos) :=
  Kept.modInst fun i hi => ⟨rfl, rfl, fun _ h => h, fun _ => ⟨rfl, rfl, rfl, rfl, .inl rfl⟩, fun hC => h hC i hi⟩

theorem Kept.startDelivery (s : State) (l : LineId) (d : Descriptor) : Kept False C s (s.startDelivery l d) := by
  unfold State.startDelivery
  refine Kept.trans ?_ (Kept.placeRequest _ _)
  refine Kept.modInst fun i _ => ⟨rfl, rfl, fun _ h => h, False.elim, fun _ h => ⟨h.1, fun n hn => ?_⟩⟩
  obtain ⟨hlt, hprot, hle, -⟩ := h.2 n hn
  exact ⟨hlt, hprot, hle, fun hp => by cases hp⟩

/-- R128: a buffer taken from the list. -/
theorem findBuffer_length {size : Nat} {ds : List Descriptor} {d : Descriptor} {rest : List Descriptor}
    (h : findBuffer size ds = some (d, rest)) : ds.length = rest.length + 1 := by
  induction ds generalizing d rest with
  | nil => cases h
  | cons e ds ih =>
    rw [findBuffer] at h
    split_ifs at h
    · cases h
      rfl
    · split at h
      next x rest' hx =>
        cases h
        rw [List.length_cons, List.length_cons, ih hx]
      · cases h

theorem Kept.matchSubmission (s : State) (l : LineId) : Kept False C s (s.matchSubmission l) := by
  unfold State.matchSubmission
  split
  next d rest h =>
    have hlen := findBuffer_length h
    have hlist : rest.length ≤ s.bufferList.length := by omega
    refine Kept.trans (t := { s with bufferList := rest }) ?_ (Kept.startDelivery _ l d)
    exact Kept.of_frame rfl rfl rfl rfl rfl rfl rfl (Nat.le_refl _) hlist rfl False.elim
  next =>
    refine Kept.trans (t := s.modInst l fun i => { i with phase := .awaitBuffer }) (Kept.modInst fun i _ => ?_) ?_
    · refine ⟨rfl, rfl, fun _ h => h, False.elim, fun _ h => ⟨h.1, fun n hn => ?_⟩⟩
      obtain ⟨hlt, hprot, hle, -⟩ := h.2 n hn
      exact ⟨hlt, hprot, hle, fun hp => by cases hp⟩
    · exact Kept.of_frame rfl rfl rfl rfl rfl rfl rfl (Nat.le_refl _) (Nat.le_refl _) rfl False.elim

theorem Kept.succeedSubmission (s : State) (l : LineId) : Kept False C s (s.succeedSubmission l) := by
  unfold State.succeedSubmission
  refine Kept.trans (Kept.modInst fun i _ => ?_) (Kept.matchSubmission _ l)
  exact ⟨rfl, rfl, fun _ h => h, False.elim, fun _ h => h⟩

theorem Kept.refuseSubmission {s : State} {l : LineId} {n : Nat} (hn : C → n ∈ (s.instOf l).openFields (s.formOf l)) : Kept B C s (s.refuseSubmission l n) := by
  unfold State.refuseSubmission
  refine Kept.trans (Kept.modInst fun i hi => ?_) (Kept.bell _ l)
  have hi' : s.instOf l = i := State.instOf_of_inst hi
  rw [State.formOf] at hn
  rw [hi'] at hn
  have hfield : SameShape B C (s.form i) i (i.modField n fun r => { r with staleFrom := some 0 }) :=
    SameShape.modField (fun _ => rfl) fun _ => rfl
  refine ⟨rfl, rfl, hfield.fields, fun _ => ⟨rfl, rfl, rfl, rfl, .inl rfl⟩, fun hC h => ?_⟩
  refine (hfield.cursor hC h).enterField (.inl ?_) (Nat.zero_le _) fun _ => rfl
  have hopen : (i.modField n fun r => { r with staleFrom := some 0 }).openFields (s.form i) = i.openFields (s.form i) := by
    refine List.filter_congr fun m _ => ?_
    have hover := Inst.modField_override (g := fun r => { r with staleFrom := some 0 }) (fun _ => rfl) i n m
    rw [Inst.fieldProtected, Inst.fieldProtected, FieldRec.protection, FieldRec.protection, hover]
  rw [hopen]
  exact hn hC

/-- A run on a line keeps all of this but the books. -/
theorem runClosed_kept (l : LineId) (s : State) : RunClosed l fun r => Kept False C s r.state where
  bell _ h := h.trans (Kept.bell _ l)
  notice _ words h := h.trans (Kept.post _ _ words)
  enter r n m hphase hn hm h := by
    refine h.trans (Kept.enterField fun _ i hi hfine => ?_)
    have hi' : r.state.instOf l = i := State.instOf_of_inst hi
    rw [State.formOf] at hm
    rw [hi'] at hn hm
    exact hfine.enterField (hm.imp id fun (e : m = n) => e ▸ hn) (Nat.zero_le _) fun _ => rfl
  exitCheck _ n _ hn h := h.trans (Kept.exitCheck fun _ => hn)
  count _ h := h
  recheck _ n _ h := h.trans (Kept.recheck _ l n)
  refuse _ n _ hn h := h.trans (Kept.refuseSubmission fun _ => hn)
  succeed _ _ h := h.trans (Kept.succeedSubmission _ l)
  edit _ _ _ p pos hphase hn hv hpos h := h.trans (Kept.clerkEdit (fun _ => hphase) (fun _ => hn) hv.symm hpos)
  move r n pos hphase hn hpos h := by
    refine h.trans (Kept.modInst fun i hi => ⟨rfl, rfl, fun _ h => h, False.elim, fun _ hfine => ⟨hfine.1, fun m hm => ?_⟩⟩)
    have hi' : r.state.instOf l = i := State.instOf_of_inst hi
    rw [hi'] at hphase hn hpos
    obtain ⟨hlt, hprot, hle, -⟩ := hfine.2 m hm
    obtain rfl : n = m := Option.some.inj (hn.symm.trans hm)
    refine ⟨hlt, hprot, hpos hle, fun hp => ?_⟩
    have hedit : i.phase = .presetting := hp
    rw [hphase] at hedit
    cases hedit
  toggle _ _ _ h := h.trans (Kept.modInst_core fun _ => rfl)
  repaint _ _ _ h := h.trans (Kept.refresh _ l)
  noted _ _ h := h.trans (Kept.modInst_core fun _ => rfl)

theorem Kept.applyRun (s : State) (l : LineId) (es : List Elem) : Kept False C s (s.applyRun l es).state :=
  (runClosed_kept l s).applyRun es (Kept.refl s)

/-! ## The Key Interpreter -/

theorem Kept.afterRelease (s : State) (l : LineId) (rel : Released) : Kept B C s (s.afterRelease l rel) := by
  have hkeys : Kept B C s (s.modLine l fun x => { x with pendingKeys := rel.pending, gapTimer := .stopped, releaseDue := false }) :=
    Kept.modLine (fun _ => rfl) (fun _ => rfl) (fun _ => rfl) (fun _ => .inl (Nat.le_refl _)) fun _ => .inl (Nat.le_refl _)
  unfold State.afterRelease
  dsimp only
  split_ifs
  · exact hkeys.trans (Kept.bell _ l)
  · exact hkeys

theorem Kept.applyRelease (s : State) (l : LineId) (rel : Released) : Kept False C s (s.applyRelease l rel).state :=
  (Kept.afterRelease s l rel).trans (Kept.applyRun _ l _)

/-- R69: the entry at the head leaves the type-ahead. -/
theorem Kept.dropHead (s : State) (l : LineId) : Kept B C s (s.modLine l fun x => { x with typeAhead := x.typeAhead.drop 1 }) :=
  Kept.modLine (fun _ => rfl) (fun _ => rfl) (fun _ => rfl) (fun x => .inl (by simp)) fun _ => .inl (Nat.le_refl _)

theorem Kept.takeHead (s : State) (l : LineId) (rel : Released) : Kept False C s (s.takeHead l rel).state := by
  unfold State.takeHead Run.map
  refine Kept.trans ((Kept.dropHead s l).trans (Kept.applyRelease _ l rel)) ?_
  exact Kept.modInst_core fun _ => rfl

theorem Kept.takeConsidered (s : State) (l : LineId) (rel : Released) : Kept False C s (s.takeConsidered l rel).state := by
  unfold State.takeConsidered
  split_ifs
  · exact Kept.applyRelease s l rel
  · exact Kept.takeHead s l rel

theorem Kept.byteTaken (s : State) (l : LineId) : Kept False C s (s.byteTaken l) := by
  unfold State.byteTaken
  split_ifs
  · exact Kept.dropHead s l
  · split
    · split_ifs
      · exact (Kept.takeConsidered s l _).trans (Kept.settle _ l)
      · exact Kept.settle s l
    · exact Kept.refl s

theorem Kept.gapExpired (s : State) (l : LineId) : Kept False C s (s.gapExpired l) := by
  unfold State.gapExpired
  dsimp only
  split_ifs
  · exact (Kept.applyRelease s l _).trans (Kept.settle _ l)
  · refine Kept.trans ?_ (Kept.settle _ l)
    exact Kept.modLine (fun _ => rfl) (fun _ => rfl) (fun _ => rfl) (fun _ => .inl (Nat.le_refl _))
      fun _ => .inl (Nat.le_refl _)

theorem Kept.useKeyGrant (s : State) (l : LineId) (words : Nat) : Kept False C s (s.useKeyGrant l words) := by
  unfold State.useKeyGrant
  split
  · split_ifs
    · exact (Kept.takeConsidered s l _).trans (Kept.release _ _)
    · exact Kept.release s words
  · exact Kept.release s words

/-! ## Fields, entries and the screen -/

/-- R63: a host write, as one write and one operation on the instance. -/
theorem State.hostWrite_fused (s : State) (l : LineId) (n : Nat) (v : List Byte) :
    ∃ g : FieldRec → FieldRec, (∀ r, (g r).override = r.override ∧ (g r).valueLength = v.length) ∧
      s.hostWrite l n v =
        State.modInst { s with valueMemory := Memory.writeBytes s.valueMemory (s.valueAddress (s.instOf l) n) v } l fun i =>
          if i.cursorField = some n then { i.modField n g with cursorPos := 0, edited := false, cursorStale := true }
          else i.modField n g := by
  unfold State.hostWrite State.recheck
  generalize (!(fieldCheck _ _)) = invalid
  rw [State.putValue_eq]
  simp only [State.modField_eq, State.modInst_modInst, Inst.modField_modField]
  refine ⟨fun r =>
    { FieldRec.setInvalid { r with valueLength := v.length, touched := false, errorMark := false } invalid with staleFrom := some 0 },
    fun r => ⟨?_, ?_⟩, rfl⟩
  · exact FieldRec.setInvalid_override _ _
  · exact FieldRec.setInvalid_valueLength _ _

/-- R63: a host write that fits its field. -/
theorem Kept.hostWrite {s : State} {l : LineId} {n : Nat} {v : List Byte} (hv : v.length ≤ ((s.formOf l).field n).length) :
    Kept B C s (s.hostWrite l n v) := by
  obtain ⟨g, hg, h⟩ := s.hostWrite_fused l n v
  rw [h]
  refine Kept.trans (Kept.writeValue s (Memory.wf_writeBytes v s.valueMemory (s.valueAddress (s.instOf l) n)))
    (Kept.modInst fun i hi => ?_)
  have hi' : s.instOf l = i := State.instOf_of_inst hi
  rw [State.formOf, hi'] at hv
  have hwhole (h : FieldsWhole (s.form i) i) : FieldsWhole (s.form i) (i.modField n g) := h.withField (.inr ((hg _).2.trans_le hv))
  split_ifs with hc
  · refine ⟨rfl, rfl, fun _ => hwhole, fun _ => ⟨rfl, rfl, rfl, rfl, .inl rfl⟩, fun _ h => ?_⟩
    exact h.setField (n := n) (r := g (i.field n)) rfl (hg _).1 rfl (fun _ _ => Nat.zero_le _) (fun _ => Nat.zero_le _) fun hp => ⟨hp, fun _ => rfl⟩
  · refine ⟨rfl, rfl, fun _ => hwhole, fun _ => ⟨rfl, rfl, rfl, rfl, .inl rfl⟩, fun _ h => ?_⟩
    exact h.setField (n := n) (r := g (i.field n)) rfl (hg _).1 rfl (fun e => absurd e hc) (fun _ => Nat.le_refl _) fun hp => ⟨hp, id⟩

/-- R60: the opening values of a sound form fit its fields. -/
theorem FormSound.default_length {d : FormDef} (h : FormSound d) {n : Nat} (hn : n < d.fields.length) :
    (d.default n).length ≤ (d.field n).length := by
  have hmem : d.field n ∈ d.fields := by
    have : d.field n = d.fields[n] := List.getD_eq_getElem _ _ hn
    rw [this]
    exact List.getElem_mem hn
  obtain ⟨-, -, -, -, -, -, -, -, -, -, hlen, -⟩ := h.field _ hmem
  refine Nat.le_trans ?_ hlen
  simp [FormDef.default, FormDef.poolBytes]

/-- The opening values are written one field after another. -/
theorem wf_openingMemory (d : FormDef) (base : Nat) {m : Memory} (h : m.wf = true) : (openingMemory d base m).wf = true := by
  unfold openingMemory
  generalize d.fieldNumbers = ns
  induction ns generalizing m with
  | nil => exact h
  | cons n ns ih => exact ih (Memory.wf_writeBytes _ _ _ h)

/-- R60: the records of a sound form's opening values are whole. -/
theorem FormSound.openingRec_whole {d : FormDef} (h : FormSound d) {i : Inst}
    (hi : i.fields = d.fieldNumbers.map (openingRec d)) : FieldsWhole d i := by
  have hlen : i.fields.length = d.fields.length := by simp [hi, FormDef.fieldNumbers]
  refine ⟨hlen, fun n hn => ?_⟩
  rw [hlen] at hn
  have hfield : i.field n = openingRec d n := by simp [Inst.field, hi, FormDef.fieldNumbers, hn]
  rw [hfield]
  exact FormSound.default_length h hn

/-- R60: the opening values, as one write and one operation on the instance. -/
theorem Kept.openingMemory (s : State) (l : LineId) :
    Kept B C s { s with valueMemory := openingMemory (s.formOf l) (s.instOf l).extent.base s.valueMemory } :=
  Kept.writeValue s (wf_openingMemory _ _)

/-- The cursor enters the first effectively unprotected field, or is NONE. -/
theorem cursorFine_enterFirst {d : FormDef} {i : Inst} (h : i.fields.length = d.fields.length) : CursorFine d (i.enterFirst d) := by
  rw [Inst.enterFirst_eq]
  refine ⟨h, fun n hn => ?_⟩
  have hmem : n ∈ i.openFields d := List.mem_of_head? hn
  rw [Inst.openFields, List.mem_filter, FormDef.fieldNumbers, List.mem_range] at hmem
  have hprot : i.fieldProtected d n = false := by simpa using hmem.2
  exact ⟨h.symm ▸ hmem.1, hprot, Nat.zero_le _, fun _ => rfl⟩

/-- R37, R60, R135: an entry that starts again at the opening values, from a phase in which the instance waits for nothing. -/
theorem Kept.restart {s : State} {l : LineId} {f : Inst → Inst} (hphase : B → waitless (s.instOf l).phase)
    (hf : ∀ i, (f i).core =
      ({ (i.enterFirst (s.formOf l)).markAll with phase := .painting } : Inst).core) : Kept B C s ((s.openingValues l).modInst l f) := by
  unfold State.openingValues
  rw [State.modInst_modInst]
  refine Kept.trans (Kept.openingMemory s l) (Kept.modInst fun i hi => ?_)
  have hi' : s.instOf l = i := State.instOf_of_inst hi
  have hform : s.formOf l = s.form i := congrArg s.form hi'
  rw [hi'] at hphase
  rw [hform] at hf ⊢
  let j : Inst := { i with fields := (s.form i).fieldNumbers.map (openingRec (s.form i)) }
  refine SameShape.trans (j := { (j.enterFirst (s.form i)).markAll with phase := .painting }) ?_ (SameShape.of_core (hf j))
  have hstale : SameShape False True (s.form i) (j.enterFirst (s.form i)) { (j.enterFirst (s.form i)).markAll with phase := .painting } :=
    SameShape.map (g := fun r => { r with staleFrom := some 0 }) (fun _ => rfl) (fun _ => rfl) rfl rfl rfl False.elim rfl rfl
      fun hp => by cases hp
  have henter : (j.enterFirst (s.form i)).fields = j.fields ∧ (j.enterFirst (s.form i)).slot = i.slot ∧
      (j.enterFirst (s.form i)).extent = i.extent ∧ SameBook i (j.enterFirst (s.form i)) := by
    rw [Inst.enterFirst_eq]
    exact ⟨rfl, rfl, rfl, rfl, rfl, rfl, rfl, .inl rfl⟩
  obtain ⟨hfields, hslot, hextent, hres, hopen, hheld, hclose, -⟩ := henter
  refine ⟨hslot, hextent, fun hd _ => ?_, fun hB => ⟨hres, hopen, hheld, hclose, .inr ⟨hphase hB, .inl rfl⟩⟩, fun _ _ => ?_⟩
  · refine hstale.fields hd ?_
    exact FormSound.openingRec_whole hd (hfields.trans rfl)
  · refine hstale.cursor trivial (cursorFine_enterFirst ?_)
    simp [j, FormDef.fieldNumbers]

theorem Kept.deferClose (s : State) (l : LineId) (c : Closer) : Kept False C s (s.deferClose l c) := by
  refine Kept.modInst fun i _ => ⟨rfl, rfl, fun _ h => h, False.elim, fun _ h => ⟨h.1, fun n hn => ?_⟩⟩
  obtain ⟨hlt, hprot, hle, -⟩ := h.2 n hn
  exact ⟨hlt, hprot, hle, fun hp => by cases hp⟩

/-- What an instance holds changes. -/
theorem SameShape.held {d : FormDef} {i j : Inst} (hj : j.core =
    ({ i with reservation := j.reservation, pendingOpen := j.pendingOpen, heldBuffer := j.heldBuffer } : Inst).core) :
    SameShape False C d i j :=
  SameShape.trans (j := { i with reservation := j.reservation, pendingOpen := j.pendingOpen, heldBuffer := j.heldBuffer })
    ⟨rfl, rfl, fun _ h => h, False.elim, fun _ h => h⟩ (SameShape.of_core hj)

theorem Kept.postOpen (s : State) (l : LineId) (st : Status) (data : List Word) : Kept False C s (s.postOpen l st data) := by
  unfold State.postOpen
  dsimp only
  exact (Kept.post s _ _).trans (Kept.modInst fun i _ => SameShape.held rfl)

/-- R35: an entry of a preset, as one write and one operation on the instance. -/
theorem State.presetWrite_fused (s : State) (l : LineId) (n : Nat) (v : List Byte) :
    ∃ g : FieldRec → FieldRec, (∀ r, (g r).override = r.override ∧ (g r).valueLength = v.length) ∧
      s.presetWrite l n v =
        State.modInst { s with valueMemory := Memory.writeBytes s.valueMemory (s.valueAddress (s.instOf l) n) v } l fun i =>
          i.modField n g := by
  unfold State.presetWrite State.recheck
  generalize (!(fieldCheck _ _)) = invalid
  rw [State.changeValue_eq]
  simp only [State.modField_eq, State.modInst_modInst, Inst.modField_modField]
  refine ⟨_, fun r => ⟨?_, ?_⟩, rfl⟩
  · rw [FieldRec.setInvalid_override, FieldRec.afterHighlight_override]
    rfl
  · rw [FieldRec.setInvalid_valueLength, FieldRec.afterHighlight_valueLength]
    rfl

/-- R35: an entry of a preset that fits its field, while the cursor stands at 0. -/
theorem Kept.presetWrite {s : State} {l : LineId} {n : Nat} {v : List Byte} (hv : v.length ≤ ((s.formOf l).field n).length)
    (hphase : C → (s.instOf l).phase = .presetting) : Kept B C s (s.presetWrite l n v) := by
  obtain ⟨g, hg, h⟩ := s.presetWrite_fused l n v
  rw [h]
  refine Kept.trans (Kept.writeValue s (Memory.wf_writeBytes v s.valueMemory (s.valueAddress (s.instOf l) n)))
    (Kept.modInst fun i hi => ?_)
  have hi' : s.instOf l = i := State.instOf_of_inst hi
  rw [State.formOf, hi'] at hv
  rw [hi'] at hphase
  refine ⟨rfl, rfl, fun _ h => h.withField (.inr ((hg _).2.trans_le hv)), fun _ => ⟨rfl, rfl, rfl, rfl, .inl rfl⟩, fun hC h => ?_⟩
  refine h.setField (n := n) (r := g (i.field n)) rfl (hg _).1 rfl (fun hc _ => ?_) (fun _ => Nat.le_refl _) fun hp => ⟨hp, id⟩
  have hzero : i.cursorPos = 0 := (h.2 n hc).2.2.2 (hphase hC)
  show i.cursorPos ≤ _
  rw [hzero]
  exact Nat.zero_le _

theorem Kept.endPaint (s : State) (l : LineId) : Kept B C s (s.endPaint l) := by
  unfold State.endPaint
  split_ifs with h
  · refine Kept.modInst fun i hi => ?_
    have hpaint : i.phase = .painting := by
      rw [← State.instOf_of_inst hi]
      exact h.1
    have hphase : SameShape B C (s.form i) i { i with phase := .editing } := SameShape.phase (.inl hpaint) (.inr (.inl rfl))
    exact hphase.trans (SameShape.of_core rfl)
  · exact Kept.refl s

theorem Kept.clearMark (s : State) (l : LineId) (u : UnitKind) : Kept B C s (s.clearMark l u) := by
  cases u with
  | clear =>
    unfold State.clearMark
    exact Kept.modLine (fun _ => rfl) (fun _ => rfl) (fun _ => rfl) (fun _ => .inl (Nat.le_refl _)) fun _ => .inl (Nat.le_refl _)
  | bell =>
    unfold State.clearMark
    exact Kept.modLine (fun _ => rfl) (fun _ => rfl) (fun _ => rfl) (fun _ => .inl (Nat.le_refl _)) fun _ => .inl (Nat.le_refl _)
  | text k =>
    unfold State.clearMark
    exact Kept.modInst_core fun _ => rfl
  | field n =>
    unfold State.clearMark
    exact Kept.modField (fun _ => rfl) fun _ => rfl
  | message =>
    unfold State.clearMark
    exact Kept.modInst_core fun _ => rfl
  | cursor =>
    unfold State.clearMark
    exact Kept.modInst_core fun _ => rfl

/-- R106: a unit is composed where the output queue has room for it. -/
theorem State.composable_fits {s : State} {l : LineId} {u : UnitKind} (h : s.composable l = some u) :
    (s.unitBytes l u).1.length ≤ Config.outputRoom - (s.line l).output.length := by
  unfold State.composable at h
  split_ifs at h
  split at h
  · split_ifs at h with hroom
    cases h
    exact hroom
  · cases h

theorem Kept.compose (s : State) (l : LineId) : Kept B C s (s.compose l) := by
  unfold State.compose
  split
  next u hu =>
    have hroom := State.composable_fits hu
    have hout : Config.outputRoom = 256 := rfl
    refine ((Kept.trans ?_ (Kept.clearMark _ l u)).trans (Kept.endPaint _ l)).trans (Kept.settle _ l)
    refine Kept.setLine ⟨rfl, rfl, id, fun hle => ?_, (LineKept.refl s (s.line l)).inst⟩
    simp only [List.length_append]
    omega
  · exact Kept.refl s

end Sys2Proof.Machine
end

section
/-! PROOFS. What the rows are made of: a property that every `Kept` operation keeps is kept by every row, where it is kept by the
few operations that reset, switch, load, open and retire (`RowClosed`). -/

namespace Sys2Proof.Machine

open Sys2Proof.Safety

-- The proofs of the whole text share one memory limit, and each thread takes its part of it.
set_option Elab.async false

variable {B C : Prop}

/-! ## The remaining `Kept` operations -/

/-- The form of a line's instance stays. -/
theorem Kept.formOf {s t : State} (h : Kept B C s t) (l : LineId) : t.formOf l = s.formOf l := by
  refine State.form_congr h.slots ?_
  rcases (h.lines l).inst with ⟨hs, ht⟩ | ⟨i, j, hs, ht, hij⟩
  · rw [State.instOf, State.instOf, State.inst, State.inst, hs, ht]
  · rw [State.instOf_of_inst hs, State.instOf_of_inst ht]
    exact hij.slot

theorem Kept.completeIfWhole (s : State) : Kept B C s s.completeIfWhole := by
  unfold State.completeIfWhole
  split
  · split_ifs
    · exact Kept.of_frame rfl rfl rfl rfl rfl rfl rfl (Nat.le_refl _) (Nat.le_refl _) rfl fun _ => SameQueues.refl s
    · exact Kept.refl s
  · exact Kept.refl s

theorem Kept.assemble (s : State) : Kept B C s s.assemble := by
  unfold State.assemble
  split
  · split
    · exact Kept.refl s
    next h rest hq =>
      split_ifs
      · exact Kept.of_frame rfl rfl rfl rfl rfl rfl rfl (by simp [hq]) (Nat.le_refl _) rfl fun _ => SameQueues.refl s
      · refine Kept.trans ?_ (Kept.completeIfWhole _)
        exact Kept.of_frame rfl rfl rfl rfl rfl rfl rfl (Nat.le_refl _) (Nat.le_refl _) rfl fun _ => SameQueues.refl s
  · exact Kept.completeIfWhole s
  · exact Kept.refl s

/-- R182: a word written at DATA joins a queue that has room for it. -/
theorem Kept.writeData (s : State) (w : Word) : Kept B C s (s.writeData w) := by
  unfold State.writeData
  split_ifs with hp ho hroom
  · exact Kept.refl s
  · exact Kept.refl s
  · refine Kept.trans (t := { s with commandQueue := s.commandQueue ++ [w] }) ?_ (Kept.assemble _)
    refine ⟨rfl, rfl, rfl, rfl, id, fun _ => ?_, id, fun _ => SameQueues.refl s, fun m => LineKept.refl s (s.line m)⟩
    have hsize : Config.commandRoom = 128 := rfl
    simp only [List.length_append, List.length_singleton]
    omega
  · exact Kept.of_frame rfl rfl rfl rfl rfl rfl rfl (by simp [State.takeOverflow]) (Nat.le_refl _) rfl fun _ => SameQueues.refl s

theorem Kept.truncateCommand (s : State) : Kept B C s s.truncateCommand := by
  unfold State.truncateCommand
  split
  · exact Kept.of_frame rfl rfl rfl rfl rfl rfl rfl (by simp) (Nat.le_refl _) rfl fun _ => SameQueues.refl s
  · exact Kept.refl s

theorem Kept.postOwed (s : State) : Kept False C s s.postOwed := by
  unfold State.postOwed
  split
  next w t st n _ _ =>
    have hpost : Kept False C s (({ s.grant .commandUnit 2 with
        commandQueue := s.commandQueue.drop n, assembler := .free } : State).post 2 (resultRecord t st [])) :=
      Kept.of_frame rfl rfl rfl rfl rfl rfl rfl (by simp [State.post, State.grant]) (Nat.le_refl _) rfl False.elim
    exact hpost.trans (Kept.assemble _)
  · exact Kept.refl s

theorem Kept.writeControl (s : State) (c : Word) : Kept B C s (s.writeControl c) :=
  Kept.of_frame rfl rfl rfl rfl rfl rfl rfl (Nat.le_refl _) (Nat.le_refl _) rfl fun _ => SameQueues.refl s

theorem Kept.readData (s : State) : Kept B C s s.readData := by
  unfold State.readData
  split
  next w rest h =>
    exact Kept.of_frame rfl rfl rfl rfl rfl rfl rfl (Nat.le_refl _) (Nat.le_refl _) rfl fun _ => ⟨rfl, rfl, rfl, rfl, by simp [h]⟩
  · exact Kept.of_frame rfl rfl rfl rfl rfl rfl rfl (Nat.le_refl _) (Nat.le_refl _) rfl fun _ => SameQueues.refl s

theorem Kept.startTransfer (s : State) : Kept False C s s.startTransfer := by
  unfold State.startTransfer
  split
  · exact Kept.of_frame rfl rfl rfl rfl rfl rfl rfl (Nat.le_refl _) (Nat.le_refl _) rfl False.elim
  · exact Kept.refl s

/-- The part of a transfer that was carried out stands in memory. -/
theorem Kept.partialTransfer (s : State) (r : Request) (answered : Nat) (bytes : List Byte) :
    Kept B C s (s.partialTransfer r answered bytes) := by
  unfold State.partialTransfer
  dsimp only
  split
  · exact Kept.writeHost s _ _
  · exact Kept.fillBuffer s _

theorem Kept.abandonTransfer (s : State) (answered : Nat) : Kept B C s (s.abandonTransfer answered) := by
  unfold State.abandonTransfer
  split
  · exact Kept.partialTransfer s _ answered []
  · exact Kept.refl s

/-- R129: a descriptor joins a list that has room for it, or goes to a waiting line. -/
theorem Kept.offer {s : State} (h : s.bufferList.length < 16) (d : Descriptor) {join : List Descriptor → List Descriptor}
    (hj : ∀ ds, (join ds).length = ds.length + 1) : Kept False C s (s.offer d join) := by
  unfold State.offer
  split
  · exact (Kept.leaveWaiting s _).trans (Kept.startDelivery _ _ d)
  · refine ⟨rfl, rfl, rfl, rfl, id, id, fun _ => ?_, False.elim, fun m => LineKept.refl s (s.line m)⟩
    show (join s.bufferList).length ≤ 16
    rw [hj]
    omega

theorem Kept.answerCloses (s : State) (ps : List PendingClose) : Kept False C s (s.answerCloses ps) := by
  induction ps generalizing s with
  | nil => exact Kept.refl s
  | cons p ps ih => exact (Kept.post s _ _).trans (ih _)

/-! ## Lines -/

/-- A change of a line that leaves its instance and its switch, and keeps the type-ahead within its room. -/
theorem Kept.ofLine {s : State} {l : LineId} {f : Line → Line} (hon : (f (s.line l)).on = (s.line l).on)
    (hconfig : (f (s.line l)).config = (s.line l).config) (hinst : (f (s.line l)).inst = (s.line l).inst)
    (htype : (s.line l).typeAhead.length ≤ 32 → (f (s.line l)).typeAhead.length ≤ 32)
    (hout : (f (s.line l)).output.length ≤ (s.line l).output.length) : Kept B C s (s.modLine l f) := by
  refine Kept.setLine ⟨hon, hconfig, htype, hout.trans, ?_⟩
  rw [hinst]
  exact (LineKept.refl s (s.line l)).inst

/-- R159: an entry that is delivered changes the type-ahead, the overrun count and the flags alone. -/
theorem Line.deliver_cases (x : Line) (e : Entry) :
    ∃ q n f, x.deliver e = { x with typeAhead := q, overrun := n, flags := f } ∧
      (x.typeAhead.length ≤ 32 → q.length ≤ 32) := by
  have hsize : Config.typeAheadRoom = 32 := rfl
  unfold Line.deliver Line.placeEntry
  split_ifs with hi hd hroom
  · exact ⟨_, _, _, rfl, id⟩
  · exact ⟨x.typeAhead, x.overrun, x.flags, rfl, id⟩
  · refine ⟨_, _, _, rfl, fun _ => ?_⟩
    simp only [List.length_append, List.length_singleton]
    omega
  · exact ⟨_, _, _, rfl, id⟩

/-- R160: a flow byte changes the flow and the stall timer alone. -/
theorem Line.flowByte_cases (x : Line) (off : Bool) : ∃ f t, x.flowByte off = { x with flow := f, stallTimer := t } := by
  unfold Line.flowByte
  split
  · exact ⟨_, _, rfl⟩
  · exact ⟨_, _, rfl⟩
  · exact ⟨x.flow, x.stallTimer, rfl⟩

/-- R157: what a received character changes. -/
theorem Line.receive_cases (x : Line) (p : Profile) (c : RxChar) :
    ∃ b fl st fr pc q n f,
      x.receive p c =
          { x with breakState := b, flow := fl, stallTimer := st, framing := fr, parityCount := pc, typeAhead := q, overrun := n, flags := f } ∧
        (x.typeAhead.length ≤ 32 → q.length ≤ 32) := by
  unfold Line.receive
  dsimp only
  split_ifs
  · obtain ⟨q, n, f, h, hq⟩ := Line.deliver_cases { x with breakState := .inBreak } .breakMarker
    exact ⟨_, x.flow, x.stallTimer, x.framing, x.parityCount, q, n, f, h, hq⟩
  · exact ⟨x.breakState, x.flow, x.stallTimer, _, x.parityCount, x.typeAhead, x.overrun, _, rfl, id⟩
  · exact ⟨x.breakState, x.flow, x.stallTimer, x.framing, _, x.typeAhead, x.overrun, _, rfl, id⟩
  · obtain ⟨fl, st, h⟩ := x.flowByte_cases true
    exact ⟨x.breakState, fl, st, x.framing, x.parityCount, x.typeAhead, x.overrun, x.flags, h, id⟩
  · obtain ⟨fl, st, h⟩ := x.flowByte_cases false
    exact ⟨x.breakState, fl, st, x.framing, x.parityCount, x.typeAhead, x.overrun, x.flags, h, id⟩
  · obtain ⟨q, n, f, h, hq⟩ := x.deliver_cases (.byte (receivedByte x.config.dataBits c))
    exact ⟨x.breakState, x.flow, x.stallTimer, x.framing, x.parityCount, q, n, f, h, hq⟩

theorem Kept.characterReceived (s : State) (l : LineId) (c : RxChar) : Kept B C s (effectCharacterReceived l c s) := by
  unfold effectCharacterReceived
  split_ifs
  · refine Kept.trans (Kept.ofLine ?_ ?_ ?_ ?_ ?_) (Kept.settle _ l)
    all_goals
      obtain ⟨b, fl, st, fr, pc, q, n, f, h, hq⟩ := (s.line l).receive_cases (s.lineProfile l) c
      rw [h]
    exact hq
  · exact Kept.refl s

theorem Kept.breakEnd (s : State) (l : LineId) : Kept B C s (effectBreakEnd l s) := Kept.ofLine rfl rfl rfl id (Nat.le_refl _)

theorem Kept.streamIdleSeen (s : State) (l : LineId) : Kept B C s (effectReceivedStreamIdleSeen l s) := by
  have hcases : ∃ b, (if (s.line l).on = true then { s.line l with idleSeen := true } else s.line l) =
      { s.line l with idleSeen := b } := by
    split_ifs
    · exact ⟨true, rfl⟩
    · exact ⟨(s.line l).idleSeen, rfl⟩
  obtain ⟨b, hb⟩ := hcases
  refine Kept.ofLine ?_ ?_ ?_ ?_ ?_
  all_goals rw [hb]
  exact id

theorem Kept.readyInputChange (s : State) (l : LineId) (present : Bool) : Kept B C s (effectReadyInputChange l present s) := by
  have hcases (x : Line) : ∃ b t, (if x.readyLevel = present then x else Line.readyChanged { x with readyLevel := present }) =
      { x with readyLevel := b, settleTimer := t } := by
    unfold Line.readyChanged
    split_ifs
    · exact ⟨x.readyLevel, x.settleTimer, rfl⟩
    · exact ⟨present, _, rfl⟩
    · exact ⟨present, x.settleTimer, rfl⟩
    · exact ⟨present, _, rfl⟩
    · exact ⟨present, x.settleTimer, rfl⟩
  obtain ⟨b, t, h⟩ := hcases (s.line l)
  refine Kept.ofLine ?_ ?_ ?_ ?_ ?_
  all_goals rw [h]
  exact id

theorem Kept.byteTransmitStart (s : State) (l : LineId) : Kept B C s (effectByteTransmitStart l s) := by
  have hcases (x : Line) : ∃ q w, x.transmit = { x with output := q, wire := w } ∧ q.length ≤ x.output.length := by
    unfold Line.transmit
    split
    next b rest h =>
      split_ifs
      · exact ⟨rest, _, rfl, by simp [h]⟩
      · exact ⟨x.output, x.wire, rfl, Nat.le_refl _⟩
    next h => exact ⟨x.output, x.wire, rfl, Nat.le_refl _⟩
  obtain ⟨q, w, h, hq⟩ := hcases (s.line l)
  refine Kept.ofLine ?_ ?_ ?_ ?_ ?_
  all_goals rw [h]
  · exact id
  · exact hq

theorem Kept.settleExpired (s : State) (l : LineId) : Kept B C s (s.settleExpired l) := by
  unfold State.settleExpired
  split_ifs
  · refine Kept.trans ?_ (Kept.settle _ l)
    have hattach : Kept B C s (s.modLine l Line.attach) := Kept.ofLine rfl rfl rfl id (Nat.le_refl _)
    refine hattach.trans ?_
    unfold State.attachInst
    split
    · exact Kept.refl _
    · split_ifs
      · exact Kept.refl _
      · exact Kept.refresh _ l
  · have hdetach : Kept B C s (s.modLine l Line.detach) := Kept.ofLine rfl rfl rfl (fun _ => Nat.zero_le _) (Nat.zero_le _)
    exact (hdetach.trans (Kept.discardDisplay _ l)).trans (Kept.settle _ l)

theorem Kept.stallTimerExpiry (s : State) (l : LineId) : Kept B C s (effectStallTimerExpiry l s) := by
  unfold effectStallTimerExpiry
  split_ifs
  · have hspent : Kept B C s (s.modLine l fun x => { x with stallTimer := .spent }) := Kept.ofLine rfl rfl rfl id (Nat.le_refl _)
    exact (hspent.trans (Kept.setFlag _ l _)).trans (Kept.settle _ l)
  · exact Kept.refl s

theorem Kept.inactivityTimerExpiry (s : State) (l : LineId) : Kept B C s (effectInactivityTimerExpiry l s) := by
  unfold effectInactivityTimerExpiry
  split_ifs
  · have hspent : Kept B C s (s.modInst l fun i => { i with inactivity := .spent }) :=
      Kept.modInst_core fun _ => rfl
    exact (hspent.trans (Kept.setFlag _ l _)).trans (Kept.settle _ l)
  · exact Kept.refl s

theorem Kept.verdictTimerExpiry (s : State) (l : LineId) : Kept B C s (effectVerdictTimerExpiry l s) := by
  unfold effectVerdictTimerExpiry
  split_ifs with h
  · unfold State.verdictExpired
    dsimp only
    have hlate : Kept B C s (s.modInst l fun i => { i with phase := .editing, late := true, verdictTimer := .stopped }) := by
      refine Kept.modInst fun i hi => ?_
      have hwait : i.phase = .awaitVerdict := by
        rw [← State.instOf_of_inst hi]
        exact h.2
      exact (SameShape.phase (.inr (.inr hwait)) (.inr (.inl rfl))).trans (SameShape.of_core rfl)
    have hflag := (hlate.trans (Kept.bell _ l)).trans (Kept.setFlag _ l fun f => { f with verdictTimeout := true })
    refine (hflag.trans ?_).trans (Kept.settle _ l)
    exact Kept.ofLine rfl rfl rfl id (Nat.le_refl _)
  · exact Kept.refl s

theorem Kept.keyClaimGrant (s : State) (l : LineId) : Kept False C s (effectKeyClaimGrant l s) := by
  unfold effectKeyClaimGrant
  split
  · split_ifs
    · refine (Kept.trans ?_ (Kept.useKeyGrant _ l _)).trans (Kept.settle _ l)
      exact (Kept.grant s _ _).trans (Kept.ofLine rfl rfl rfl id (Nat.le_refl _))
    · exact Kept.refl s
  · exact Kept.refl s

/-- R167: what the posting of its event record changes on a line. -/
theorem Line.afterEvent_cases (x : Line) :
    ∃ fr pc n t, x.afterEvent =
      { x with claim := .absent, flags := x.flags.remaining, framing := fr, parityCount := pc, overrun := n, timeoutSerial := t } := by
  unfold Line.afterEvent
  dsimp only
  split_ifs
  · exact ⟨_, _, _, x.timeoutSerial, rfl⟩
  · exact ⟨x.framing, x.parityCount, x.overrun, _, rfl⟩
  · exact ⟨x.framing, x.parityCount, x.overrun, x.timeoutSerial, rfl⟩

theorem Kept.afterEvent (s : State) (l : LineId) : Kept B C s (s.modLine l Line.afterEvent) := by
  obtain ⟨fr, pc, n, t, h⟩ := (s.line l).afterEvent_cases
  refine Kept.ofLine ?_ ?_ ?_ ?_ ?_
  all_goals rw [h]
  exact id

theorem Kept.lineEvent (s : State) (l : LineId) : Kept False C s (effectLineEvent l s) := by
  unfold effectLineEvent
  split
  · split_ifs
    · exact (((Kept.grant s _ _).trans (Kept.post _ _ _)).trans (Kept.afterEvent _ l)).trans (Kept.settle _ l)
    · exact Kept.refl s
  · exact Kept.refl s

theorem Kept.tick (s : State) : Kept B C s s.tick := by
  have h := s.tick_frame
  have hmemory : MemoryForm s → MemoryForm s.tick := fun hs => by
    rw [MemoryForm, congrArg State.valueMemory h, congrArg State.transferBuffer h, congrArg State.hostMemory h]
    exact hs
  refine ⟨(congrArg State.partState h :), (congrArg State.slots h :), (congrArg State.profiles h :), (congrArg State.freeList h :), hmemory,
    fun hq => ?_, fun hb => ?_, fun _ => ?_, fun m => ?_⟩
  · rw [congrArg State.commandQueue h]
    exact hq
  · rw [congrArg State.bufferList h]
    exact hb
  · exact ⟨(congrArg State.waiting h :), (congrArg State.transfer h :), (congrArg State.busQueue h :), (congrArg State.reserved h :),
      Nat.le_of_eq (congrArg (fun t => t.answerQueue.length) h :)⟩
  rw [State.tick_line]
  refine ⟨rfl, rfl, id, id, ?_⟩
  cases h : (s.line m).inst with
  | none => exact .inl ⟨rfl, by simp [Line.tick, h]⟩
  | some i => exact .inr ⟨i, i.tick, rfl, by simp [Line.tick, h], SameShape.of_core rfl⟩

end Sys2Proof.Machine
end

section
/-! PROOFS. The commands that are `Kept`, and the rows: a property that every `Kept` operation keeps is kept by every row, where it is
kept by the few operations that reset, switch, load, open and retire (`RowClosed`). -/

namespace Sys2Proof.Machine

open Sys2Proof.Safety

-- The proofs of the whole text share one memory limit, and each thread takes its part of it.
set_option Elab.async false

variable {B C : Prop}

/-! ## Answers -/

/-- Less is asked of what is kept. -/
theorem Kept.mono {B' C' : Prop} {s t : State} (h : Kept B C s t) (hB : B' → B) (hC : C' → C) : Kept B' C' s t := by
  refine { h with queues := fun hb => h.queues (hB hb), lines := fun m => ?_ }
  obtain ⟨hon, hconfig, htype, hout, hinst⟩ := h.lines m
  refine ⟨hon, hconfig, htype, hout, hinst.imp id ?_⟩
  rintro ⟨i, j, hi, hj, hij⟩
  exact ⟨i, j, hi, hj, hij.slot, hij.extent, hij.fields, fun hb => hij.book (hB hb), fun hc => hij.cursor (hC hc)⟩

/-- The books may change too. -/
theorem Kept.noBooks {s t : State} (h : Kept B C s t) : Kept False C s t := h.mono False.elim id

/-- R186, R187: one record of at most `n` words is posted into a reservation of `n` words, and all else is kept. -/
def Replied (C : Prop) (n : Nat) (s t : State) : Prop :=
  ∃ u r, Kept True C s u ∧ r.length ≤ n ∧ Kept True C (u.post n r) t

theorem Replied.kept {n : Nat} {s t : State} (h : Replied C n s t) : Kept False C s t := by
  obtain ⟨u, r, hu, -, ht⟩ := h
  exact (hu.noBooks.trans (Kept.post u n r)).trans ht.noBooks

theorem Replied.after {n : Nat} {s t u : State} (h : Replied C n s t) (h' : Kept True C t u) : Replied C n s u := by
  obtain ⟨v, r, hv, hr, ht⟩ := h
  exact ⟨v, r, hv, hr, ht.trans h'⟩

theorem Replied.before {n : Nat} {s t u : State} (h : Kept True C s t) (h' : Replied C n t u) : Replied C n s u := by
  obtain ⟨v, r, hv, hr, ht⟩ := h'
  exact ⟨v, r, h.trans hv, hr, ht⟩

/-- R185: every command has room for a result without data. -/
theorem CommandCode.two_le_reservation (c : CommandCode) : 2 ≤ c.reservation := by
  cases c <;> decide

theorem length_resultRecord (tag : Byte) (st : Status) (data : List Word) : (resultRecord tag st data).length = data.length + 2 := rfl

theorem Replied.reply (s : State) (c : Command) (st : Status) {data : List Word} (h : data.length + 2 ≤ c.code.reservation) :
    Replied C c.code.reservation s (s.reply c st data) :=
  ⟨s, _, Kept.refl s, (length_resultRecord _ _ _).trans_le h, Kept.refl _⟩

/-- A refusal has no data. -/
theorem Replied.refusal (s : State) (c : Command) (st : Status) : Replied C c.code.reservation s (s.reply c st []) :=
  Replied.reply s c st c.code.two_le_reservation

/-- R28: an instance command that is carried out has passed its phase check. -/
theorem State.instCheck_phase {s : State} {c : Command} {l : LineId} {i : Inst} (h : s.instCheck c = .ok (l, i)) :
    phaseCheck c.code i = none := by
  unfold State.instCheck at h
  split at h
  · cases h
  · split at h
    · cases h
    · split_ifs at h
      split at h
      · cases h
      next hcheck =>
        cases h
        exact hcheck

/-- R28: an instance command that changes its instance and answers. -/
theorem Replied.named (s : State) (c : Command) {act : LineId → Inst → State → State}
    (h : ∀ l i, s.inst l = some i → phaseCheck c.code i = none → Replied C c.code.reservation s (act l i s)) :
    Replied C c.code.reservation s (s.onInst c act) := by
  rcases s.onInst_cases c act with ⟨st, -, e⟩ | ⟨l, i, hcheck, hi, e⟩
  · rw [e]
    exact Replied.refusal s c st
  · rw [e]
    exact (h l i hi (State.instCheck_phase hcheck)).after (Kept.settle _ l)

/-! ## Commands -/

/-- R186: the taking of a command whose owning block keeps all of this. -/
theorem Kept.taken (s : State) {accepts : Command → Bool} {act : Command → State → State}
    (h : ∀ c t, accepts c = true → Kept False C t (act c t)) : Kept False C s (s.takeCommand accepts act) := by
  rcases s.takeCommand_cases accepts act with e | ⟨c, -, ha, e⟩
  · rw [e]
    exact Kept.refl s
  · rw [e]
    exact ((Kept.beginTaking s c).trans (h c _ ha)).trans (Kept.assemble _)

/-- A command that reads the part and answers. -/
theorem Kept.queryForm (c : Command) (s : State) : Kept False C s (queryForm c s) := by
  unfold Machine.queryForm
  split <;> exact Kept.reply s c _ _

/-- R156: the report of a line is 24 bytes long. -/
theorem Line.length_report (x : Line) : x.report.length = 24 := by
  unfold Line.report
  cases x.inst <;> rfl

theorem length_wordsOfBytes (bs : List Byte) : (wordsOfBytes bs).length = (bs.length + 1) / 2 := by
  induction bs using wordsOfBytes.induct with
  | case1 => rfl
  | case2 b => simp [wordsOfBytes]
  | case3 a b bs ih =>
    rw [wordsOfBytes, List.length_cons, List.length_cons, List.length_cons, ih]
    omega

theorem Replied.queryLine {c : Command} (hc : c.code = .queryLine) (s : State) : Replied C c.code.reservation s (queryLine c s) := by
  unfold Machine.queryLine
  split
  · exact Replied.refusal s c _
  · refine Replied.reply s c _ ?_
    rw [length_wordsOfBytes, Line.length_report, hc]
    exact Nat.le_refl _

theorem Replied.queryPart {c : Command} (hc : c.code = .queryPart) (s : State) : Replied C c.code.reservation s (queryPart c s) :=
  Replied.reply s c _ (hc ▸ Nat.le_refl 10)

theorem Replied.clearEntry {c : Command} (hc : c.code = .clearEntry) (s : State) :
    Replied C c.code.reservation s (clearEntry c s) := by
  refine Replied.named s c fun l i hi hphase => Replied.before (t := (s.openingValues l).modInst l fun i => i.cleared (s.formOf l)) ?_
    (Replied.refusal _ c _)
  refine Kept.restart (fun _ => ?_) fun _ => rfl
  rw [State.instOf_of_inst hi]
  rw [hc] at hphase
  cases hp : i.phase <;> simp [phaseCheck, hp] at hphase
  · exact .inl rfl
  · exact .inr (.inl rfl)

theorem Replied.holdInput (c : Command) (s : State) : Replied C c.code.reservation s (holdInput c s) :=
  Replied.named s c fun l _ _ _ => Replied.before (t := s.modInst l fun i => { i with held := true }) (Kept.modInst_core fun _ => rfl)
    (Replied.refusal _ c _)

theorem Replied.resumeInput (c : Command) (s : State) : Replied C c.code.reservation s (resumeInput c s) :=
  Replied.named s c fun l _ _ _ => Replied.before (t := s.modInst l fun i => { i with held := false }) (Kept.modInst_core fun _ => rfl)
    (Replied.refusal _ c _)

theorem Kept.readField (c : Command) (s : State) : Kept False C s (readField c s) := by
  unfold Machine.readField
  rcases s.onInst_cases c _ with ⟨st, -, e⟩ | ⟨l, i, -, -, e⟩
  · rw [e]
    exact Kept.reply s c st []
  · rw [e]
    refine Kept.trans ?_ (Kept.settle _ l)
    dsimp only
    split_ifs <;> exact Kept.reply s c _ _

/-- R62: no more bytes are carried than the length says. -/
theorem length_carriedBytes_le (n : Nat) (ws : List Word) : (carriedBytes n ws).length ≤ n := by
  simp [carriedBytes]

theorem Replied.writeField {c : Command} (hc : c.code = .writeField) (s : State) :
    Replied C c.code.reservation s (writeField c s) := by
  refine Replied.named s c fun l i hi _ => ?_
  dsimp only
  split
  · exact Replied.refusal s c _
  next hchecks =>
    have hfits : c.highArg ≤ ((s.form i).field c.fieldByte).length := by
      have h := (firstOf_eq_none_iff _).1 hchecks (decide (((s.form i).field c.fieldByte).length < c.highArg), .badValue) (by simp)
      simpa using h
    have hform : s.formOf l = s.form i := congrArg s.form (State.instOf_of_inst hi)
    refine Replied.before (Kept.hostWrite ?_) (Replied.reply _ c _ (hc ▸ Nat.le_refl 3))
    rw [hform]
    exact (length_carriedBytes_le _ _).trans hfits

/-- The cursor stays in its field where only an override changes and the field stays unprotected. -/
theorem CursorFine.overridden {d : FormDef} {i : Inst} (h : CursorFine d i) {n : Nat} {o : Override}
    (hn : i.cursorField = some n → (i.modField n fun r => { r with override := o }).fieldProtected d n = false) :
    CursorFine d (i.modField n fun r => { r with override := o }) := by
  have hlen : (i.modField n fun r => { r with override := o }).fields.length = i.fields.length := List.length_set
  refine ⟨hlen.trans h.1, fun m hm => ?_⟩
  obtain ⟨hlt, hprot, hle, hzero⟩ := h.2 m hm
  refine ⟨hlen ▸ hlt, ?_, ?_, hzero⟩
  all_goals by_cases hmn : m = n
  · subst hmn
    exact hn hm
  · have hsame : (i.modField n fun r => { r with override := o }).field m = i.field m := field_withField_of_ne hmn _
    rw [Inst.fieldProtected, hsame]
    exact hprot
  · subst hmn
    have hsame : (i.modField m fun r => { r with override := o }).field m = { i.field m with override := o } := field_withField hlt _
    rw [hsame]
    exact hle
  · have hsame : (i.modField n fun r => { r with override := o }).field m = i.field m := field_withField_of_ne hmn _
    rw [hsame]
    exact hle

/-- The cursor stands at the start of an unprotected field. -/
theorem cursorFine_enterField {d : FormDef} {i : Inst} (h : i.fields.length = d.fields.length) {m : Nat} (hm : m ∈ i.openFields d) :
    CursorFine d (i.enterField m 0) := by
  refine ⟨h, fun n hn => ?_⟩
  obtain rfl : m = n := Option.some.inj hn
  rw [Inst.openFields, List.mem_filter, FormDef.fieldNumbers, List.mem_range] at hm
  have hprot : i.fieldProtected d m = false := by simpa using hm.2
  exact ⟨h.symm ▸ hm.1, hprot, Nat.zero_le _, fun _ => rfl⟩

/-- R66: the next field the cursor enters is unprotected. -/
theorem Inst.nextOpenWrapping_mem {i : Inst} {d : FormDef} {n m : Nat} (h : i.nextOpenWrapping d n = some m) : m ∈ i.openFields d := by
  unfold Inst.nextOpenWrapping at h
  split at h
  next k hk =>
    cases h
    exact List.mem_of_find?_eq_some hk
  · exact List.mem_of_head? h

/-- R65, R66: a change of an override, with the cursor settled. -/
theorem SameShape.overrideField (i : Inst) (d : FormDef) (n : Nat) (o : Override) : SameShape B C d i (i.overrideField d n o) := by
  let j : Inst := i.modField n fun r => { r with override := o }
  have hlen : j.fields.length = i.fields.length := List.length_set
  have hset : FieldsWhole d i → FieldsWhole d j := fun h =>
    h.withField (n := n) (r := { i.field n with override := o }) (.inl (Nat.le_refl _))
  have hbook : B → SameBook i j := fun _ => ⟨rfl, rfl, rfl, rfl, .inl rfl⟩
  show SameShape B C d i (j.settleCursor d n (i.fieldProtected d n))
  unfold Inst.settleCursor
  split_ifs with hsame hprot hat hnone
  · refine ⟨rfl, rfl, fun _ => hset, hbook, fun _ h => h.overridden fun hn => ?_⟩
    exact hsame.trans (h.2 n hn).2.1
  · split
    next m hm =>
      exact ⟨rfl, rfl, fun _ => hset, hbook, fun _ h => cursorFine_enterField (hlen.trans h.1) (Inst.nextOpenWrapping_mem hm)⟩
    · exact ⟨rfl, rfl, fun _ => hset, hbook, fun _ h => ⟨hlen.trans h.1, fun m hm => by cases hm⟩⟩
  · exact ⟨rfl, rfl, fun _ => hset, hbook, fun _ h => h.overridden fun hn => absurd hn hat⟩
  · rw [Inst.enterFirst_eq]
    refine ⟨rfl, rfl, fun _ => hset, hbook, fun _ h => ?_⟩
    rw [← Inst.enterFirst_eq]
    exact cursorFine_enterFirst (hlen.trans h.1)
  · exact ⟨rfl, rfl, fun _ => hset, hbook, fun _ h => h.overridden fun _ => by simpa using hprot⟩

/-- R65: each of the five operations leaves the place of the instance, the lengths of its values and what it holds. -/
theorem fieldOperation_shape {code : Nat} {op : Inst → FormDef → Nat → Inst} (h : fieldOperation code = some op) (i : Inst)
    (d : FormDef) (n : Nat) : SameShape B C d i (op i d n) := by
  have hmark (b : Bool) : SameShape B C d i (i.markField n b) := SameShape.modField (fun _ => rfl) fun _ => rfl
  unfold fieldOperation at h
  split at h
  all_goals cases h
  · exact SameShape.overrideField i d n _
  · exact SameShape.overrideField i d n _
  · exact SameShape.overrideField i d n _
  · exact hmark _
  · exact hmark _

theorem Replied.setFieldState {c : Command} (hc : c.code = .setFieldState) (s : State) :
    Replied C c.code.reservation s (setFieldState c s) := by
  refine Replied.named s c fun l i _ _ => ?_
  dsimp only
  split_ifs
  · exact Replied.refusal s c _
  · split
    · exact Replied.refusal s c _
    next op hop =>
      exact Replied.before (Kept.modInst fun j _ => fieldOperation_shape hop j _ _) (Replied.reply _ c _ (hc ▸ Nat.le_refl 3))

/-- R99, R136: a field that passes its check is one the cursor may enter. -/
theorem mem_openFields_of_checked {d : FormDef} {i : Inst} {n : Nat}
    (h : (decide (d.fieldCount ≤ n) || i.fieldProtected d n) = false) : n ∈ i.openFields d := by
  obtain ⟨hcount, hprot⟩ := Bool.or_eq_false_iff.1 h
  rw [Inst.openFields, List.mem_filter, FormDef.fieldNumbers, List.mem_range]
  exact ⟨Nat.lt_of_not_le (of_decide_eq_false hcount), by simp [hprot]⟩

theorem Replied.placeCursor {c : Command} (hc : c.code = .placeCursor) (s : State) :
    Replied C c.code.reservation s (placeCursor c s) := by
  refine Replied.named s c fun l i hi hphase => ?_
  split
  · exact Replied.refusal s c _
  next hchecks =>
    refine Replied.before (t := s.modInst l fun i => i.enterField c.fieldByte c.highArg) (Kept.enterField fun _ j hj hfine => ?_)
      (Replied.refusal _ c _)
    obtain rfl : i = j := Option.some.inj (hi.symm.trans hj)
    have hchecks := (firstOf_eq_none_iff _).1 hchecks
    have hopen := hchecks (_, .badField) List.mem_cons_self
    have hpos := hchecks (_, .badArgument) (List.mem_cons_of_mem _ List.mem_cons_self)
    refine hfine.enterField (.inl (mem_openFields_of_checked hopen)) (Nat.le_of_not_lt (of_decide_eq_false hpos)) fun hp => ?_
    rw [hc] at hphase
    simp [phaseCheck, hp] at hphase

theorem Replied.showMessage (c : Command) (s : State) : Replied C c.code.reservation s (showMessage c s) := by
  refine Replied.named s c fun l i _ _ => ?_
  split
  · exact Replied.refusal s c _
  · exact Replied.before (t := s.modInst l fun i => i.showMessage _) (Kept.modInst_core fun _ => rfl) (Replied.refusal _ c _)

theorem Replied.repaint (c : Command) (s : State) : Replied C c.code.reservation s (repaint c s) :=
  Replied.named s c fun l _ _ _ => Replied.before (Kept.refresh s l) (Replied.refusal _ c _)

theorem Kept.postBuffer (c : Command) (s : State) : Kept False C s (postBuffer c s) := by
  unfold Machine.postBuffer
  dsimp only
  split
  · exact Kept.reply s c _ _
  next hchecks =>
    have hroom : s.bufferList.length < 16 := by
      have h := (firstOf_eq_none_iff _).1 hchecks (decide (Config.bufferRoom ≤ s.bufferList.length), .listFull) (by simp)
      exact Nat.lt_of_not_le (of_decide_eq_false h)
    exact (Kept.offer hroom _ fun ds => List.length_append).trans (Kept.reply _ c _ _)

theorem Replied.withdrawBuffers {c : Command} (hc : c.code = .withdrawBuffers) (s : State) :
    Replied C c.code.reservation s (withdrawBuffers c s) := by
  refine Replied.before (t := { s with bufferList := [] }) ?_ (Replied.reply _ c _ (hc ▸ Nat.le_refl 3))
  exact Kept.of_frame rfl rfl rfl rfl rfl rfl rfl (Nat.le_refl _) (Nat.zero_le _) rfl fun _ => SameQueues.refl s

/-- R135: a RENEW of an instance that waits for a verdict. -/
theorem Replied.acceptRenew {s : State} {c : Command} {l : LineId} (hc : c.code = .acceptEntry)
    (hphase : waitless (s.instOf l).phase) : Replied C c.code.reservation s (s.acceptRenew c l) := by
  unfold State.acceptRenew
  dsimp only
  refine Replied.before (Kept.trans (Kept.nextSerial s (nextSerialAfter s.takenSerial)) ?_) (Replied.reply _ c _ (hc ▸ Nat.le_refl 3))
  exact Kept.restart (s := { s with nextSerial := nextSerialAfter s.takenSerial }) (fun _ => hphase) fun _ => rfl

/-- R134: the phase in which a verdict is taken. -/
theorem waitless_of_acceptEntry {c : Command} {i : Inst} (hc : c.code = .acceptEntry) (h : phaseCheck c.code i = none) :
    i.phase = .awaitVerdict := by
  rw [hc] at h
  cases hp : i.phase <;> simp [phaseCheck, hp] at h
  · split_ifs at h
  · rfl

theorem Kept.returnEntry (c : Command) (s : State) : Kept False C s (returnEntry c s) := by
  unfold Machine.returnEntry
  rcases s.onInst_cases c _ with ⟨st, -, e⟩ | ⟨l, i, -, hi, e⟩
  · rw [e]
    exact Kept.reply s c st []
  · rw [e]
    refine Kept.trans ?_ (Kept.settle _ l)
    split
    · exact Kept.reply s c _ _
    next hchecks =>
      refine Kept.trans (((Kept.leaveWaiting s l).trans (Kept.release _ _)).trans (Kept.modInst fun j hj => ?_)) (Kept.reply _ c _ _)
      obtain rfl : i = j := Option.some.inj (hi.symm.trans hj)
      have hopen := mem_openFields_of_checked ((firstOf_eq_none_iff _).1 hchecks (_, .badField) List.mem_cons_self)
      let k : Inst := { i with phase := .editing, verdictTimer := .stopped, reservation := 0 }.enterField c.fieldByte 0
      have henter : SameShape False C (s.form i) i k :=
        ⟨rfl, rfl, fun _ h => h, False.elim, fun _ h =>
          cursorFine_enterField (i := { i with phase := .editing, verdictTimer := .stopped, reservation := 0 }) h.1 hopen⟩
      have hmark : SameShape False C (s.form i) k (k.modField c.fieldByte fun r => { r with errorMark := true, staleFrom := some 0 }) :=
        SameShape.modField (fun _ => rfl) fun _ => rfl
      exact (henter.trans hmark).trans (SameShape.of_core rfl)

/-- Where the books are the same, an instance in PRESETTING stays there. -/
theorem Kept.presetting {s t : State} (h : Kept True C s t) {l : LineId} (hp : (s.instOf l).phase = .presetting) :
    (t.instOf l).phase = .presetting := by
  rcases (h.lines l).inst with ⟨hs, -⟩ | ⟨i, j, hs, ht, hij⟩
  · rw [State.instOf, State.inst, hs] at hp
    cases hp
  · rw [State.instOf_of_inst hs] at hp
    rw [State.instOf_of_inst ht]
    obtain ⟨-, -, -, -, hsame | ⟨hwait, -⟩⟩ := hij.book trivial
    · exact hsame.trans hp
    · rcases hwait with e | e | e <;> rw [hp] at e <;> cases e

/-- What an instance holds and waits for changes, and its cursor stays. -/
theorem SameShape.rebooked {d : FormDef} {i j : Inst}
    (hj : j.core = ({ i with
      phase := j.phase
      reservation := j.reservation
      pendingOpen := j.pendingOpen
      heldBuffer := j.heldBuffer
      pendingClose := j.pendingClose } : Inst).core)
    (hphase : j.phase = .presetting → i.phase = .presetting) : SameShape False C d i j := by
  refine SameShape.trans (j := { i with
      phase := j.phase
      reservation := j.reservation
      pendingOpen := j.pendingOpen
      heldBuffer := j.heldBuffer
      pendingClose := j.pendingClose }) ⟨rfl, rfl, fun _ h => h, False.elim, fun _ h => ⟨h.1, fun n hn => ?_⟩⟩ (SameShape.of_core hj)
  obtain ⟨hlt, hprot, hle, hzero⟩ := h.2 n hn
  exact ⟨hlt, hprot, hle, fun hp => hzero (hphase hp)⟩

/-- R35: entries whose values fit their fields are applied to an instance in PRESETTING. -/
theorem Kept.applyPreset {d : FormDef} {s : State} {l : LineId} {entries : List (Nat × List Byte)} (hd : s.formOf l = d)
    (h : PresetFits d entries) (hphase : C → (s.instOf l).phase = .presetting) : Kept B C s (s.applyPreset l entries) := by
  induction entries generalizing s with
  | nil => exact Kept.refl s
  | cons e es ih =>
    have hone {B C : Prop} (hphase : C → (s.instOf l).phase = .presetting) : Kept B C s (s.presetWrite l e.1 e.2) :=
      Kept.presetWrite (by rw [hd]; exact (h e List.mem_cons_self).2) hphase
    have hlater : C → ((s.presetWrite l e.1 e.2).instOf l).phase = .presetting := fun hC =>
      (hone (B := True) (C := False) False.elim).presetting (hphase hC)
    exact (hone hphase).trans (ih (((hone hphase : Kept B C _ _).formOf l).trans hd) (fun e he => h e (List.mem_cons_of_mem _ he)) hlater)

theorem Kept.presetPassed {s : State} {l : LineId} {entries : List (Nat × List Byte)} (h : PresetFits (s.formOf l) entries)
    (hphase : C → (s.instOf l).phase = .presetting) : Kept False C s (s.presetPassed l entries) := by
  unfold State.presetPassed
  refine Kept.trans ((Kept.trans ((Kept.applyPreset rfl h hphase).trans (Kept.modInst fun i _ => ?_)) (Kept.fullRepaint _ l)))
    (Kept.postOpen _ l _ _)
  exact SameShape.rebooked rfl fun hp => by cases hp

/-- R31: a slot that is neither EMPTY nor LOADING is READY. -/
theorem Slot.ready_of_checks {v : Slot} (hempty : v.isEmpty = false) (hbusy : v.isLoading = false) : ∃ d, v.state = .ready d := by
  cases h : v.state with
  | empty => simp [Slot.isEmpty, h] at hempty
  | loading tag r => simp [Slot.isLoading, h] at hbusy
  | ready d => exact ⟨d, rfl⟩

/-! ## The rows -/

/-- A property that is kept by what is `Kept`, by a slot or profile that nobody uses and takes a new state, by the switching of a
line and by the opening and the retirement of an instance. -/
structure OpClosed (C : Prop) (P : State → Prop) : Prop where
  kept : ∀ s t, Kept False C s t → P s → P t
  slot : ∀ s k st, ((s.slot k).isLoading = true ∨ (s.slot k).useCount = 0) → (∀ d, st = .ready d → FormSound d) → P s →
    P (s.setSlot k ⟨st, 0⟩)
  profile : ∀ s p st, ((s.profileSlot p).isLoading = true ∨ (s.profileSlot p).userCount = 0) → P s →
    P (s.setProfile p { s.profileSlot p with state := st })
  configure : ∀ s l cfg, (s.line l).on = false → P s → P (s.modLine l fun x => { x with config := cfg })
  enable : ∀ s l, (s.line l).on = false → (s.profileSlot (s.line l).config.profile).isLoading = false → P s →
    P ((s.countUser (s.line l).config.profile (· + 1)).modLine l Line.enabled)
  disable : ∀ s l, (s.line l).on = true → (s.line l).inst = none → P s →
    P ((s.countUser (s.line l).config.profile (· - 1)).modLine l Line.disabled)
  opening : ∀ s l k d base free phase, (s.line l).inst = none → (s.slot k).state = .ready d →
    allocate d.extentSize s.freeList = some (base, free) → P s → P (s.open_ l k base free phase)
  retire : ∀ s l, P s → P (s.retire l)

/-- A property that is kept by the resets and the end of the self-check too. -/
structure RowClosed (P : State → Prop) : Prop extends OpClosed False P where
  reset : ∀ s cause, P s → P (s.resetBy cause)
  selfCheck : ∀ s st code, P s → P { s with partState := st, faultCode := code, stateChange := true }

/-- The rows that change the part state. -/
def changesPart : Instr → Bool
  | .powerOnReset | .portReset _ _ | .selfCheckEnd _ _ _ => true
  | _ => false

/-- R168: where the cursors count, an instance whose preset fetch is in progress is in PRESETTING or CLOSING. -/
def FetchesPresets (s : State) : Prop :=
  ∀ l a n, s.transfer = some ⟨.presetFetch l, a, n⟩ → (s.instOf l).phase ≠ .closing → (s.instOf l).phase = .presetting

namespace OpClosed

section
variable {P : State → Prop}

theorem taken (hP : OpClosed C P) (s : State) {accepts : Command → Bool} {act : Command → State → State}
    (h : ∀ c t, accepts c = true → P t → P (act c t)) (hs : P s) : P (s.takeCommand accepts act) := by
  rcases s.takeCommand_cases accepts act with e | ⟨c, -, ha, e⟩
  · rw [e]
    exact hs
  · rw [e]
    exact hP.kept _ _ (Kept.assemble _) (h c _ ha (hP.kept _ _ (Kept.beginTaking s c) hs))

theorem named (hP : OpClosed C P) (s : State) (c : Command) {act : LineId → Inst → State → State}
    (h : ∀ l i, s.inst l = some i → phaseCheck c.code i = none → P (act l i s)) (hs : P s) : P (s.onInst c act) := by
  rcases s.onInst_cases c act with ⟨st, -, e⟩ | ⟨l, i, hcheck, hi, e⟩
  · rw [e]
    exact hP.kept _ _ (Kept.reply s c st []) hs
  · rw [e]
    exact hP.kept _ _ (Kept.settle _ l) (h l i hi (State.instCheck_phase hcheck))

theorem loadForm (hP : OpClosed C P) (c : Command) (s : State) (hs : P s) : P (loadForm c s) := by
  unfold Machine.loadForm
  split
  · exact hP.kept _ _ (Kept.reply s c _ _) hs
  next k _ =>
    dsimp only
    split
    · exact hP.kept _ _ (Kept.reply s c _ _) hs
    next hchecks =>
      have hidle := (firstOf_eq_none_iff _).1 hchecks (decide (0 < (s.slot k).useCount), .inUse) (by simp)
      refine hP.kept _ _ (Kept.placeRequest _ _) (hP.slot s k _ (.inr ?_) (fun d h => by cases h) hs)
      exact Nat.eq_zero_of_not_pos (of_decide_eq_false hidle)

theorem discardForm (hP : OpClosed C P) (c : Command) (s : State) (hs : P s) : P (discardForm c s) := by
  unfold Machine.discardForm
  split
  · exact hP.kept _ _ (Kept.reply s c _ _) hs
  next k _ =>
    split
    · exact hP.kept _ _ (Kept.reply s c _ _) hs
    next hchecks =>
      have hidle := (firstOf_eq_none_iff _).1 hchecks (decide (0 < (s.slot k).useCount), .inUse) (by simp)
      refine hP.kept _ _ (Kept.reply _ c _ _) (hP.slot s k _ (.inr ?_) (fun d h => by cases h) hs)
      exact Nat.eq_zero_of_not_pos (of_decide_eq_false hidle)

theorem setProfile (hP : OpClosed C P) (c : Command) (s : State) (hs : P s) : P (setProfile c s) := by
  unfold Machine.setProfile
  split
  · exact hP.kept _ _ (Kept.reply s c _ _) hs
  next p _ =>
    dsimp only
    split
    · exact hP.kept _ _ (Kept.reply s c _ _) hs
    next hchecks =>
      have hidle := (firstOf_eq_none_iff _).1 hchecks (decide (0 < (s.profileSlot p).userCount), .inUse) (by simp)
      refine hP.kept _ _ (Kept.placeRequest _ _) (hP.profile s p _ (.inr ?_) hs)
      exact Nat.eq_zero_of_not_pos (of_decide_eq_false hidle)

theorem endLoad (hP : OpClosed C P) (s : State) (k : SlotId) {new : SlotState} (hnew : ∀ d, new = .ready d → FormSound d)
    (st : Status) (data : List Word) (hs : P s) : P (s.endLoad k new st data) := by
  unfold State.endLoad
  split
  next tag r h => exact hP.kept _ _ (Kept.post _ _ _) (hP.slot s k new (.inl (by simp [Slot.isLoading, h])) hnew hs)
  · exact hs

theorem endSetProfile (hP : OpClosed C P) (s : State) (p : ProfileId) (new : Profile) (st : Status) (data : List Word)
    (hs : P s) : P (s.endSetProfile p new st data) := by
  unfold State.endSetProfile
  split
  next tag r h =>
    exact hP.kept _ _ (Kept.post _ _ _) (hP.profile s p _ (.inl (by simp [ProfileSlot.isLoading, h])) hs)
  · exact hs

theorem formFetched (hP : OpClosed C P) (s : State) (k : SlotId) {img : List Byte} {n : Nat} (hn : img.length = n) (hs : P s) :
    P (s.formFetched k img n) := by
  unfold State.formFetched
  split
  · exact hP.endLoad s k (fun d h => by cases h) _ _ hs
  next hchecks =>
    refine hP.endLoad s k (fun d h => ?_) _ _ hs
    cases h
    exact checkedFormsAreSound img n hn hchecks

theorem profileFetched (hP : OpClosed C P) (s : State) (p : ProfileId) (img : List Byte) (hs : P s) : P (s.profileFetched p img) := by
  unfold State.profileFetched
  split <;> exact hP.endSetProfile s p _ _ _ hs

theorem configureLine (hP : OpClosed C P) (c : Command) (s : State) (hs : P s) : P (configureLine c s) := by
  unfold Machine.configureLine
  split
  · exact hP.kept _ _ (Kept.reply s c _ _) hs
  next l _ =>
    split_ifs with hon
    · exact hP.kept _ _ (Kept.reply s c _ _) hs
    · split
      · exact hP.kept _ _ (Kept.reply s c _ _) hs
      · exact hP.kept _ _ (Kept.reply _ c _ _) (hP.configure s l _ (by simpa using hon) hs)

theorem enableLine (hP : OpClosed C P) (c : Command) (s : State) (hs : P s) : P (enableLine c s) := by
  unfold Machine.enableLine
  split
  · exact hP.kept _ _ (Kept.reply s c _ _) hs
  next l _ =>
    split_ifs with hon hbusy
    · exact hP.kept _ _ (Kept.reply s c _ _) hs
    · exact hP.kept _ _ (Kept.reply s c _ _) hs
    · exact hP.kept _ _ (Kept.reply _ c _ _) (hP.enable s l (by simpa using hon) (by simpa using hbusy) hs)

theorem disableLine (hP : OpClosed C P) (c : Command) (s : State) (hs : P s) : P (disableLine c s) := by
  unfold Machine.disableLine
  split
  · exact hP.kept _ _ (Kept.reply s c _ _) hs
  next l _ =>
    split_ifs with hon hi
    · exact hP.kept _ _ (Kept.reply s c _ _) hs
    · exact hP.kept _ _ (Kept.reply s c _ _) hs
    · have hinst : (s.line l).inst = none := by simpa [State.inst] using hi
      refine hP.kept _ _ ((Kept.discardDisplay _ l).trans (Kept.reply _ c _ _)) (hP.disable s l (by simpa using hon) hinst hs)

theorem closeNow (hP : OpClosed C P) (s : State) (l : LineId) (c : Closer) (data : List Word) (hs : P s) :
    P (s.closeNow l c data) :=
  hP.kept _ _ ((Kept.queueClear _ l _).trans (Kept.post _ _ _)) (hP.retire s l hs)

theorem closeInst (hP : OpClosed C P) (s : State) (l : LineId) (i : Inst) (c : Closer) (hs : P s) : P (s.closeInst l i c) := by
  have hdefer : P (s.deferClose l c) := hP.kept _ _ (Kept.deferClose s l c) hs
  have hnow : P (s.closeNow l c []) := hP.closeNow s l c [] hs
  unfold State.closeInst
  split
  · split_ifs
    · exact hdefer
    · exact hP.closeNow _ l c _ (hP.kept _ _ ((Kept.withdraw s _).trans (Kept.postOpen _ l _ _)) hs)
  · dsimp only
    split_ifs with hwait hroom
    · exact hdefer
    · refine hP.closeNow _ l c _ (hP.kept _ _ ((Kept.withdraw s _).trans (Kept.offer hroom _ fun ds => ?_)) hs)
      exact List.length_cons
    · exact hP.closeNow _ l c _ (hP.kept _ _ (Kept.withdraw s _) hs)
  · exact hdefer
  · exact hnow

theorem closeForm (hP : OpClosed C P) (c : Command) (s : State) (hs : P s) : P (closeForm c s) :=
  hP.named s c (fun l i _ _ => hP.closeInst s l i _ hs) hs

theorem acceptEntry (hP : OpClosed C P) {c : Command} (hc : c.code = .acceptEntry) (s : State) (hs : P s) :
    P (acceptEntry c s) := by
  refine hP.named s c (fun l i hi hphase => ?_) hs
  split
  · exact hP.kept _ _ ((Kept.queueClear _ l _).trans (Kept.reply _ c _ _)) (hP.retire s l hs)
  · refine hP.kept _ _ (Replied.acceptRenew hc ?_).kept hs
    rw [State.instOf_of_inst hi]
    exact .inr (.inr (waitless_of_acceptEntry hc hphase))
  · exact hP.kept _ _ (Kept.reply s c _ _) hs

theorem resetLine (hP : OpClosed C P) (c : Command) (s : State) (hs : P s) : P (resetLine c s) := by
  unfold Machine.resetLine
  split
  · exact hP.kept _ _ (Kept.reply s c _ _) hs
  next l _ =>
    refine hP.kept _ _ (Kept.settle _ l) ?_
    have hflush : Kept False C s (s.modLine l Line.flushed) := Kept.ofLine rfl rfl rfl (fun _ => Nat.zero_le _) (Nat.zero_le _)
    have hflushed : P ((s.modLine l Line.flushed).discardDisplay l) := hP.kept _ _ (hflush.trans (Kept.discardDisplay _ l)) hs
    unfold State.resetInst
    split
    · exact hP.kept _ _ ((Kept.queueClear _ l _).trans (Kept.post _ _ _)) hflushed
    · exact hP.closeInst _ l _ _ hflushed

theorem openForm (hP : OpClosed C P) (c : Command) (s : State) (hs : P s) : P (openForm c s) := by
  have hreply (st : Status) : P (s.reply c st []) := hP.kept _ _ (Kept.reply s c st []) hs
  unfold Machine.openForm
  dsimp only
  split
  · exact hreply _
  next l _ =>
    by_cases hon : (!(s.line l).on) = true
    · rw [if_pos hon]
      exact hreply _
    rw [if_neg hon]
    by_cases hi : (s.inst l).isSome = true
    · rw [if_pos hi]
      exact hreply _
    · rw [if_neg hi]
      split
      · exact hreply _
      next k _ =>
        split
        · exact hreply _
        next hchecks =>
          split
          · exact hreply _
          next base free halloc =>
            have hchecks := (firstOf_eq_none_iff _).1 hchecks
            have hempty : (s.slot k).isEmpty = false := hchecks ((s.slot k).isEmpty, .slotEmpty) List.mem_cons_self
            have hbusy : (s.slot k).isLoading = false := hchecks ((s.slot k).isLoading, .slotBusy)
              (List.mem_cons_of_mem _ List.mem_cons_self)
            have hinst : (s.line l).inst = none := by simpa [State.inst] using hi
            obtain ⟨d, hd⟩ := Slot.ready_of_checks hempty hbusy
            rw [Slot.form_of_ready hd] at halloc
            have hopen := hP.opening s l k d base free (if (c.arg 3).toNat = 0 then .painting else .presetting) hinst hd halloc hs
            refine hP.kept _ _ (Kept.trans ?_ (Kept.settle _ l)) hopen
            unfold State.beginOpen
            split_ifs
            · exact (Kept.fullRepaint _ l).trans (Kept.reply _ c _ _)
            · refine Kept.trans ?_ (Kept.placeRequest _ _)
              exact Kept.modInst fun i _ => SameShape.held rfl

theorem endClosing (hP : OpClosed C P) (s : State) (l : LineId) (owed : List Word) (hs : P s) : P (s.endClosing l owed) := by
  unfold State.endClosing
  dsimp only
  refine hP.kept _ _ (((Kept.answerCloses _ _).trans (Kept.queueClear _ l _)).trans (Kept.settle _ l)) (hP.retire _ l ?_)
  exact hP.kept _ _ ((Kept.post s _ _).trans (Kept.modInst fun i _ => SameShape.held rfl)) hs

theorem presetFailed (hP : OpClosed C P) (s : State) (l : LineId) (st : Status) (data : List Word) (hs : P s) :
    P (s.presetFailed l st data) :=
  hP.retire _ l (hP.kept _ _ (Kept.postOpen s l st data) hs)

theorem presetFetched (hP : OpClosed C P) {s : State} {l : LineId} (img : List Byte) (n : Nat)
    (hphase : C → (s.instOf l).phase ≠ .closing → (s.instOf l).phase = .presetting) (hs : P s) : P (s.presetFetched l img n) := by
  unfold State.presetFetched
  split_ifs with hclosing
  · exact hP.endClosing s l _ hs
  · split
    next entries h => exact hP.kept _ _ ((Kept.presetPassed (presetImage_fits h) fun hC => hphase hC hclosing).trans (Kept.settle _ l)) hs
    · exact hP.kept _ _ (Kept.settle _ l) (hP.presetFailed s l _ _ hs)

theorem delivered (hP : OpClosed C P) (s : State) (l : LineId) (hs : P s) : P (s.delivered l) := by
  unfold State.delivered
  dsimp only
  split_ifs
  · exact hP.endClosing s l _ hs
  · refine hP.kept _ _ (Kept.trans ?_ (Kept.settle _ l)) hs
    exact (Kept.post s _ _).trans (Kept.modInst fun i _ => SameShape.rebooked rfl fun hp => by cases hp)

theorem faulted (hP : OpClosed C P) (s : State) (o : Owner) (hs : P s) : P (s.faulted o) := by
  unfold State.faulted
  split
  next k => exact hP.endLoad s k (fun d h => by cases h) _ _ hs
  next p => exact hP.endSetProfile s p _ _ _ hs
  next l =>
    unfold State.presetFaulted
    split_ifs
    · exact hP.endClosing s l _ hs
    · exact hP.kept _ _ (Kept.settle _ l) (hP.presetFailed s l _ _ hs)
  next l =>
    unfold State.deliveryFaulted
    dsimp only
    split_ifs
    · exact hP.endClosing s l _ hs
    · refine hP.kept _ _ ((Kept.trans ?_ (Kept.bell _ l)).trans (Kept.settle _ l)) hs
      exact (Kept.post s _ _).trans (Kept.modInst fun i _ => SameShape.rebooked rfl fun hp => by cases hp)

/-- R172: the end of a read: its owner takes as many bytes as the transfer has. -/
theorem endRead (hP : OpClosed C P) (s : State) (n : Nat) (bytes : List Byte) {owner : State → List Byte → State}
    (h : ∀ img, img.length = n → P (s.fillBuffer (bytes.take n)) → P (owner (s.fillBuffer (bytes.take n)) img)) (hs : P s) : P (s.endRead n bytes owner) := by
  unfold State.endRead
  split_ifs
  · refine hP.kept _ _ (Kept.endTransfer _) (h _ ?_ (hP.kept _ _ (Kept.fillBuffer s _) hs))
    exact Memory.readBytes_length _ _ _
  · exact hs

theorem busFault (hP : OpClosed C P) (s : State) (answered : Nat) (bytes : List Byte) (hs : P s) :
    P (effectBusFault answered bytes s) := by
  unfold effectBusFault
  split
  · split_ifs
    · exact hP.kept _ _ (Kept.endTransfer _) (hP.faulted _ _ (hP.kept _ _ (Kept.partialTransfer s _ answered bytes) hs))
    · exact hs
  · exact hs

/-- The end of a transfer without a fault. -/
theorem transferEnd (hP : OpClosed C P) (s : State) (hpreset : C → FetchesPresets s) (hs : P s) :
    (∀ bytes, P (effectFormFetchEnd bytes s)) ∧ (∀ bytes, P (effectProfileFetchEnd bytes s)) ∧
      (∀ bytes, P (effectPresetFetchEnd bytes s)) ∧ P (effectDeliveryComplete s) := by
  refine ⟨fun bytes => ?_, fun bytes => ?_, fun bytes => ?_, ?_⟩
  · unfold effectFormFetchEnd
    split
    next k a n _ => exact hP.endRead s n bytes (fun img hn ht => hP.formFetched _ k hn ht) hs
    · exact hs
  · unfold effectProfileFetchEnd
    split
    next p a n _ => exact hP.endRead s n bytes (fun img _ ht => hP.profileFetched _ p img ht) hs
    · exact hs
  · unfold effectPresetFetchEnd
    split
    next l a n htransfer =>
      exact hP.endRead s n bytes (fun img _ ht => hP.presetFetched img n (fun hC => hpreset hC l a n htransfer) ht) hs
    · exact hs
  · unfold effectDeliveryComplete
    split
    next l a n _ => exact hP.kept _ _ (Kept.endTransfer _) (hP.delivered _ l (hP.kept _ _ (Kept.writeHost s _ _) hs))
    · exact hs

/-- Every row that leaves the part state keeps the property. -/
theorem effect (hP : OpClosed C P) (s : State) {row : Instr} (hrow : changesPart row = false) (hpreset : C → FetchesPresets s)
    (hs : P s) : P (s.effect row) := by
  have hkept {t : State} (h : Kept False C s t) : P t := hP.kept s t h hs
  have hcode {c : Command} {k : CommandCode} (h : (c.code == k) = true) : c.code = k := by simpa using h
  have hcode' {c : Command} {k : CommandCode} {b : Bool} (h : (c.code == k && b) = true) : c.code = k := hcode (Bool.and_eq_true_iff.1 h).1
  obtain ⟨hform, hprofile, hpreset, hdelivery⟩ := hP.transferEnd s hpreset hs
  cases row with
  | powerOnReset => cases hrow
  | portReset value answered => cases hrow
  | selfCheckEnd v b p => cases hrow
  | dataWrite w => exact hkept (Kept.writeData s w)
  | dataRead => exact hkept (Kept.readData s)
  | setInterruptEnables c => exact hkept (Kept.writeControl s c)
  | clearStateChangeFlag c => exact hkept (Kept.writeControl s _)
  | clearOverflow c => exact hkept (Kept.writeControl s _)
  | assemblyTimerExpiry => exact hkept (Kept.truncateCommand s)
  | assemblyResultPost => exact hkept (Kept.postOwed s)
  | loadForm => exact hP.taken s (fun c t _ => hP.loadForm c t) hs
  | discardForm => exact hP.taken s (fun c t _ => hP.discardForm c t) hs
  | queryForm => exact hkept (Kept.taken s fun c t _ => Kept.queryForm c t)
  | setProfile => exact hP.taken s (fun c t _ => hP.setProfile c t) hs
  | configureLine => exact hP.taken s (fun c t _ => hP.configureLine c t) hs
  | enableLine => exact hP.taken s (fun c t _ => hP.enableLine c t) hs
  | disableLine => exact hP.taken s (fun c t _ => hP.disableLine c t) hs
  | queryLine => exact hkept (Kept.taken s fun c t h => (Replied.queryLine (hcode h) t).kept)
  | resetLine => exact hP.taken s (fun c t _ => hP.resetLine c t) hs
  | openForm => exact hP.taken s (fun c t _ => hP.openForm c t) hs
  | closeForm => exact hP.taken s (fun c t _ => hP.closeForm c t) hs
  | clearEntry => exact hkept (Kept.taken s fun c t h => (Replied.clearEntry (hcode h) t).kept)
  | holdInput => exact hkept (Kept.taken s fun c t _ => (Replied.holdInput c t).kept)
  | resumeInput => exact hkept (Kept.taken s fun c t _ => (Replied.resumeInput c t).kept)
  | readField => exact hkept (Kept.taken s fun c t _ => Kept.readField c t)
  | writeField => exact hkept (Kept.taken s fun c t h => (Replied.writeField (hcode h) t).kept)
  | setFieldStateProtect => exact hkept (Kept.taken s fun c t h => (Replied.setFieldState (hcode' h) t).kept)
  | setFieldStateUnprotect => exact hkept (Kept.taken s fun c t h => (Replied.setFieldState (hcode' h) t).kept)
  | setFieldStateDefined => exact hkept (Kept.taken s fun c t h => (Replied.setFieldState (hcode' h) t).kept)
  | setFieldStateMark => exact hkept (Kept.taken s fun c t h => (Replied.setFieldState (hcode' h) t).kept)
  | setFieldStateUnmark => exact hkept (Kept.taken s fun c t h => (Replied.setFieldState (hcode' h) t).kept)
  | placeCursor => exact hkept (Kept.taken s fun c t h => (Replied.placeCursor (hcode h) t).kept)
  | showMessage => exact hkept (Kept.taken s fun c t _ => (Replied.showMessage c t).kept)
  | repaint => exact hkept (Kept.taken s fun c t _ => (Replied.repaint c t).kept)
  | postBuffer => exact hkept (Kept.taken s fun c t _ => Kept.postBuffer c t)
  | withdrawBuffers => exact hkept (Kept.taken s fun c t h => (Replied.withdrawBuffers (hcode h) t).kept)
  | acceptEntryClose => exact hP.taken s (fun c t h => hP.acceptEntry (hcode' h) t) hs
  | acceptEntryRenew => exact hP.taken s (fun c t h => hP.acceptEntry (hcode' h) t) hs
  | returnEntry => exact hkept (Kept.taken s fun c t _ => Kept.returnEntry c t)
  | queryPart => exact hkept (Kept.taken s fun c t _ => Kept.reply t c _ _)
  | transferStart => exact hkept (Kept.startTransfer s)
  | formFetchEnd bytes => exact hform bytes
  | profileFetchEnd bytes => exact hprofile bytes
  | presetFetchEnd bytes => exact hpreset bytes
  | deliveryComplete => exact hdelivery
  | busFault answered bytes => exact hP.busFault s answered bytes hs
  | characterReceived l c => exact hkept (Kept.characterReceived s l c)
  | breakEnd l => exact hkept (Kept.breakEnd s l)
  | readyInputChange l present => exact hkept (Kept.readyInputChange s l present)
  | settleTimerExpiry l =>
    show P (effectSettleTimerExpiry l s)
    unfold effectSettleTimerExpiry
    split_ifs
    · exact hkept (Kept.settleExpired s l)
    · exact hs
  | stallTimerExpiry l => exact hkept (Kept.stallTimerExpiry s l)
  | byteTransmitStart l => exact hkept (Kept.byteTransmitStart s l)
  | byteTaken l => exact hkept (Kept.byteTaken s l)
  | gapTimerExpiry l =>
    show P (effectGapTimerExpiry l s)
    unfold effectGapTimerExpiry
    split_ifs
    · exact hkept (Kept.gapExpired s l)
    · exact hs
  | keyClaimGrant l => exact hkept (Kept.keyClaimGrant s l)
  | lineEvent l => exact hkept (Kept.lineEvent s l)
  | inactivityTimerExpiry l => exact hkept (Kept.inactivityTimerExpiry s l)
  | verdictTimerExpiry l => exact hkept (Kept.verdictTimerExpiry s l)
  | unitComposition l => exact hkept (Kept.compose s l)
  | receivedStreamIdleSeen l => exact hkept (Kept.streamIdleSeen s l)

end

end OpClosed

namespace RowClosed

section
variable {P : State → Prop}

/-- Every row keeps the property. -/
theorem effect (hP : RowClosed P) (s : State) (row : Instr) (hs : P s) : P (s.effect row) := by
  by_cases hrow : changesPart row = false
  · exact hP.toOpClosed.effect s hrow False.elim hs
  · cases row
    case powerOnReset => exact hP.reset s .power hs
    case portReset value answered => exact hP.reset _ .port (hP.kept _ _ (Kept.abandonTransfer s answered) hs)
    case selfCheckEnd v b p =>
      show P (effectSelfCheckEnd v b p s)
      unfold effectSelfCheckEnd
      split
      · exact hP.selfCheck s _ _ hs
      · exact hs
    all_goals exact absurd rfl hrow

/-- Every step keeps the property. -/
theorem step (hP : RowClosed P) {s t : State} (hs : P s) (h : Machine.step s = .next t) : P t :=
  step_keeps (fun s _ hs => hP.kept s _ (Kept.of_frame rfl rfl rfl rfl rfl rfl rfl (Nat.le_refl _) (Nat.le_refl _) rfl False.elim) hs)
    hP.effect (fun s hs => hP.kept s _ (Kept.tick s) hs) hs h

end

end RowClosed

end Sys2Proof.Machine
end


section
/-! PROOFS. The invariants of the memories, the capacities, the counts, the records and value memory, each from what the resets, the
slots, the profiles, the switching of a line, and the opening and retirement of an instance do to it (`RowClosed`). -/

namespace Sys2Proof.Machine

open Sys2Proof.Safety

-- The proofs of the whole text share one memory limit, and each thread takes its part of it.
set_option Elab.async false

/-! ## Memories and capacities -/

theorem State.resetBy_inst (s : State) (cause : ResetCause) (l : LineId) : (s.resetBy cause).inst l = none := by
  rw [State.inst, State.resetBy_line]
  rfl

theorem State.retire_of_none {s : State} {l : LineId} (h : (s.line l).inst = none) : s.retire l = s := by
  unfold State.retire
  split
  · rfl
  next i hi =>
    rw [State.inst, h] at hi
    cases hi

/-- The canonical form of the memories is kept by every row. -/
theorem rowClosed_memoryForm : RowClosed MemoryForm where
  kept _ _ h := h.memory
  reset _ _ h := ⟨rfl, rfl, h.2.2⟩
  selfCheck _ _ _ h := h
  slot _ _ _ _ _ h := h
  profile _ _ _ _ h := h
  configure _ _ _ _ h := h
  enable _ _ _ _ h := h
  disable _ _ _ _ h := h
  opening s l k d base free phase _ hd _ h := by
    rw [State.open_eq hd]
    exact ⟨wf_openingMemory _ _ h.1, h.2⟩
  retire s l h := by
    cases hi : (s.line l).inst with
    | none => rwa [State.retire_of_none hi]
    | some i =>
      rw [State.retire_eq hi]
      exact h

/-- A change of one line within its capacities. -/
theorem WithinCapacity.setLine {s t : State} {l : LineId} {x : Line} (h : WithinCapacity s)
    (hqueue : t.commandQueue = s.commandQueue) (hlist : t.bufferList = s.bufferList) (hlines : t.lines = s.lines)
    (hx : x.typeAhead.length ≤ 32 ∧ x.output.length ≤ 256) : WithinCapacity (t.setLine l x) := by
  obtain ⟨hq, hb, hl⟩ := h
  refine ⟨?_, ?_, fun m => ?_⟩
  · exact (congrArg List.length hqueue).trans_le hq
  · exact (congrArg List.length hlist).trans_le hb
  · by_cases hm : m = l
    · subst hm
      rwa [State.setLine_line_self]
    · rw [State.setLine_line_of_ne _ _ hm, State.line, hlines]
      exact hl m

/-- The capacities are kept by every row. -/
theorem rowClosed_withinCapacity : RowClosed WithinCapacity where
  kept _ _ h hs :=
    ⟨h.commandQueue hs.1, h.bufferList hs.2.1, fun l => ⟨(h.lines l).typeAhead (hs.2.2 l).1, (h.lines l).output (hs.2.2 l).2⟩⟩
  reset s cause _ := by
    refine ⟨Nat.zero_le _, Nat.zero_le _, fun l => ?_⟩
    rw [State.resetBy_line]
    exact ⟨Nat.zero_le _, Nat.zero_le _⟩
  selfCheck _ _ _ h := h
  slot _ _ _ _ _ h := h
  profile _ _ _ _ h := h
  configure s l cfg _ h := WithinCapacity.setLine h rfl rfl rfl (h.2.2 l)
  enable s l _ _ h := WithinCapacity.setLine h rfl rfl rfl ⟨Nat.zero_le _, Nat.zero_le _⟩
  disable s l _ _ h := WithinCapacity.setLine h rfl rfl rfl ⟨Nat.zero_le _, Nat.zero_le _⟩
  opening s l k d base free phase _ hd _ h := by
    rw [State.open_eq hd]
    exact WithinCapacity.setLine h rfl rfl rfl (h.2.2 l)
  retire s l h := by
    cases hi : (s.line l).inst with
    | none => rwa [State.retire_of_none hi]
    | some i =>
      rw [State.retire_eq hi]
      exact WithinCapacity.setLine h rfl rfl rfl ⟨Nat.zero_le _, (h.2.2 l).2⟩

/-- Settles O55: every row keeps the form of the memories, which are written through `writeBytes` alone, and the capacities, which
each row that adds to a queue checks first. -/
theorem memoryFormAndCapacityKept : Obligations.MemoryFormAndCapacityKept :=
  ⟨fun _ _ hs h => rowClosed_memoryForm.step hs h, fun _ _ hs h => rowClosed_withinCapacity.step hs h⟩

/-! ## Counting over the lines -/

/-- The number of lines with a property, where it changes on one line alone. -/
theorem countP_allLines_update {p q : LineId → Bool} {l : LineId} (h : ∀ m, m ≠ l → q m = p m) :
    allLines.countP q + (p l).toNat = allLines.countP p + (q l).toNat := by
  have hperm := List.perm_cons_erase (mem_allLines l)
  have hrest : (allLines.erase l).countP q = (allLines.erase l).countP p := by
    refine List.countP_congr fun m hm => ?_
    rw [h m ((allLines_nodup.mem_erase_iff).1 hm).1]
  rw [hperm.countP_eq q, hperm.countP_eq p, List.countP_cons, List.countP_cons, hrest]
  cases p l <;> cases q l <;> simp

/-! ## Value memory -/

/-- Does an extent hold a granule? -/
def Covers (g : Nat) (e : Extent) : Bool := decide (e.base ≤ g ∧ g < e.base + e.count)

/-- An extent cut in two holds a granule in one of its parts. -/
theorem covers_cut (g base m n : Nat) :
    (Covers g ⟨base, m + n⟩).toNat = (Covers g ⟨base, m⟩).toNat + (Covers g ⟨base + m, n⟩).toNat := by
  have htoNat (p : Prop) [Decidable p] : (decide p).toNat = if p then 1 else 0 := by by_cases p <;> simp [*]
  simp only [Covers, htoNat]
  split_ifs <;> omega

theorem countP_covers_cons (g : Nat) (e : Extent) (es : List Extent) :
    (e :: es).countP (Covers g) = (Covers g e).toNat + es.countP (Covers g) := by
  rw [List.countP_cons]
  cases Covers g e <;> simp [Nat.add_comm]

/-- The first entry of a list, if there is one, begins after a granule. -/
def BeginsAfter (b : Nat) (es : List Extent) : Prop := ∀ e ∈ es.head?, b < e.base

/-- R46: the form of a free extent list, entry by entry. -/
theorem freeListForm_cons (e : Extent) (es : List Extent) :
    FreeListForm (e :: es) ↔ 0 < e.count ∧ BeginsAfter (e.base + e.count) es ∧ FreeListForm es := by
  cases es with
  | nil => simp [FreeListForm, BeginsAfter]
  | cons f rest => simp [FreeListForm, BeginsAfter]

theorem freeListForm_count {es : List Extent} (h : FreeListForm es) : ∀ e ∈ es, 0 < e.count := by
  induction es with
  | nil => simp
  | cons f rest ih =>
    obtain ⟨hf, -, hrest⟩ := (freeListForm_cons f rest).1 h
    intro e he
    rcases List.mem_cons.1 he with rfl | he
    · exact hf
    · exact ih hrest e he

theorem BeginsAfter.mono {a b : Nat} {es : List Extent} (hab : a ≤ b) (h : BeginsAfter b es) : BeginsAfter a es :=
  fun e he => hab.trans_lt (h e he)

/-- R48: the entry that the extent is cut from still begins where it did, or later. -/
theorem BeginsAfter.allocate {b size base : Nat} {es free : List Extent} (h : BeginsAfter b es) (hform : FreeListForm es)
    (ha : allocate size es = some (base, free)) : BeginsAfter b free := by
  cases es with
  | nil => simp [Machine.allocate] at ha
  | cons e rest =>
    obtain ⟨hcount, hrest, -⟩ := (freeListForm_cons e rest).1 hform
    have hb : b < e.base := h e (by simp)
    rw [Machine.allocate] at ha
    split_ifs at ha with h1 h2
    · cases ha
      exact hrest.mono (by omega)
    · cases ha
      intro f hf
      obtain rfl : _ = f := by simpa using hf
      show b < e.base + size
      omega
    · split at ha
      · cases ha
        intro f hf
        obtain rfl : e = f := by simpa using hf
        exact hb
      · cases ha

/-- R48: first fit takes its extent out of one entry, and leaves the other granules as they were. -/
theorem allocate_divides {size : Nat} {es : List Extent} (hform : FreeListForm es) {base : Nat} {free : List Extent}
    (ha : allocate size es = some (base, free)) :
    FreeListForm free ∧ ∀ g, free.countP (Covers g) + (Covers g ⟨base, size⟩).toNat = es.countP (Covers g) := by
  induction es generalizing base free with
  | nil => simp [allocate] at ha
  | cons e rest ih =>
    obtain ⟨hcount, hafter, hrest⟩ := (freeListForm_cons e rest).1 hform
    rw [allocate] at ha
    split_ifs at ha with h1 h2
    · cases ha
      refine ⟨hrest, fun g => ?_⟩
      rw [countP_covers_cons, ← h1]
      exact Nat.add_comm _ _
    · cases ha
      refine ⟨(freeListForm_cons _ _).2 ⟨by show 0 < e.count - size; omega, hafter.mono ?_, hrest⟩, fun g => ?_⟩
      · show e.base + size + (e.count - size) ≤ e.base + e.count
        omega
      · have hcut := covers_cut g e.base size (e.count - size)
        rw [Nat.add_sub_cancel' h2.le] at hcut
        have hwhole : Covers g e = Covers g ⟨e.base, e.count⟩ := rfl
        rw [countP_covers_cons, countP_covers_cons, hwhole, hcut]
        omega
    · split at ha
      next b rest' hr =>
        cases ha
        obtain ⟨hform', hsum⟩ := ih hrest hr
        refine ⟨(freeListForm_cons _ _).2 ⟨hcount, hafter.allocate hrest hr, hform'⟩, fun g => ?_⟩
        rw [countP_covers_cons, countP_covers_cons, ← hsum g]
        omega
      · cases ha

/-- R49: an entry put in front of the list. -/
theorem joinFree_divides {e : Extent} {es : List Extent} (hcount : 0 < e.count) (hform : FreeListForm es)
    (hafter : ∀ f ∈ es.head?, e.base + e.count ≤ f.base) :
    FreeListForm (joinFree e es) ∧ (∀ b, b < e.base → BeginsAfter b (joinFree e es)) ∧
      ∀ g, (joinFree e es).countP (Covers g) = (Covers g e).toNat + es.countP (Covers g) := by
  cases es with
  | nil =>
    refine ⟨hcount, fun b hb f hf => ?_, fun g => ?_⟩
    · obtain rfl : e = f := by simpa [joinFree] using hf
      exact hb
    · exact countP_covers_cons g e _
  | cons f rest =>
    obtain ⟨hf, hrest, hform'⟩ := (freeListForm_cons f rest).1 hform
    have hle := hafter f (by simp)
    rw [joinFree]
    split_ifs with htouch
    · refine ⟨(freeListForm_cons _ _).2 ⟨by show 0 < e.count + f.count; omega, hrest.mono ?_, hform'⟩, fun b hb x hx => ?_, fun g => ?_⟩
      · show e.base + (e.count + f.count) ≤ f.base + f.count
        omega
      · obtain rfl : _ = x := by simpa using hx
        exact hb
      · have hcut := covers_cut g e.base e.count f.count
        rw [htouch] at hcut
        rw [countP_covers_cons, countP_covers_cons, hcut, Nat.add_assoc]
    · refine ⟨(freeListForm_cons _ _).2 ⟨hcount, fun x hx => ?_, hform⟩, fun b hb x hx => ?_, fun g => ?_⟩
      · obtain rfl : f = x := by simpa using hx
        omega
      · obtain rfl : e = x := by simpa using hx
        exact hb
      · exact countP_covers_cons g e _

/-- R49: an extent that shares no granule with the free entries returns to the list. -/
theorem releaseExtent_divides {x : Extent} (hcount : 0 < x.count) {es : List Extent} (hform : FreeListForm es)
    (hapart : ∀ e ∈ es, e.base + e.count ≤ x.base ∨ x.base + x.count ≤ e.base) :
    FreeListForm (releaseExtent x es) ∧ (∀ b, b < x.base → BeginsAfter b es → BeginsAfter b (releaseExtent x es)) ∧
      ∀ g, (releaseExtent x es).countP (Covers g) = (Covers g x).toNat + es.countP (Covers g) := by
  induction es with
  | nil =>
    obtain ⟨h1, h2, h3⟩ := joinFree_divides (es := []) hcount hform (by simp)
    exact ⟨h1, fun b hb _ => h2 b hb, h3⟩
  | cons e rest ih =>
    obtain ⟨he, hafter, hrest⟩ := (freeListForm_cons e rest).1 hform
    have hxe := hapart e (by simp)
    obtain ⟨hform', hbegins, hsum⟩ := ih hrest fun f hf => hapart f (List.mem_cons_of_mem _ hf)
    rw [releaseExtent]
    split_ifs with htouch hbefore
    · have hnext : ∀ f ∈ rest.head?, e.base + (e.count + x.count) ≤ f.base := fun f hf => by
        have hlt := hafter f hf
        have := hapart f (List.mem_cons_of_mem _ (List.mem_of_mem_head? hf))
        omega
      obtain ⟨h1, h2, h3⟩ := joinFree_divides (e := ⟨e.base, e.count + x.count⟩) (by show 0 < e.count + x.count; omega) hrest hnext
      refine ⟨h1, fun b _ hb => h2 b (hb e (by simp)), fun g => ?_⟩
      have hcut := covers_cut g e.base e.count x.count
      rw [htouch] at hcut
      rw [h3, countP_covers_cons, hcut]
      exact (Nat.add_assoc _ _ _).trans (Nat.add_left_comm _ _ _)
    · obtain ⟨h1, h2, h3⟩ := joinFree_divides hcount hform fun f hf => by
        obtain rfl : e = f := by simpa using hf
        omega
      exact ⟨h1, fun b hb _ => h2 b hb, h3⟩
    · refine ⟨(freeListForm_cons _ _).2 ⟨he, hbegins _ (by omega) hafter, hform'⟩, fun b _ hb f hf => ?_, fun g => ?_⟩
      · obtain rfl : e = f := by simpa using hf
        exact hb e (by simp)
      · rw [countP_covers_cons, countP_covers_cons, hsum]
        omega

/-- The extents of the live instances that hold a granule. -/
theorem countP_extents (s : State) (g : Nat) :
    (allLines.filterMap fun l => (s.inst l).map Inst.extent).countP (Covers g) =
      allLines.countP fun l => ((s.inst l).map fun i => Covers g i.extent).getD false := by
  rw [List.countP_filterMap]
  refine List.countP_congr fun l _ => ?_
  cases s.inst l <;> simp

/-- R46: value memory is divided: the form of the free list, and each granule held once. -/
theorem divided_iff (s : State) :
    Divided s ↔ FreeListForm s.freeList ∧ (∀ l i, s.inst l = some i → 0 < i.extent.count) ∧
      ∀ g, s.freeList.countP (Covers g) + allLines.countP (fun l => ((s.inst l).map fun i => Covers g i.extent).getD false) =
        if g < 1536 then 1 else 0 := by
  unfold Divided
  refine and_congr_right fun _ => and_congr_right fun _ => forall_congr' fun g => ?_
  rw [← countP_extents, ← List.countP_append, List.countP_eq_length_filter]
  rfl

/-- Value memory is divided where the free entries and the extents of the instances are the same. -/
theorem divided_congr {s t : State} (hfree : t.freeList = s.freeList)
    (hextent : ∀ l, (t.inst l).map Inst.extent = (s.inst l).map Inst.extent) (h : Divided s) : Divided t := by
  obtain ⟨hform, hpos, hcover⟩ := h
  refine ⟨by rwa [hfree], fun l i hi => ?_, ?_⟩
  · have he := hextent l
    rw [hi] at he
    obtain ⟨j, hj, he⟩ := Option.map_eq_some_iff.1 he.symm
    rw [← he]
    exact hpos l j hj
  · simp only [hfree, hextent]
    exact hcover

/-- The instance of the other lines, and that of the line itself, after a change of one line. -/
theorem State.inst_setLine {s t : State} {l : LineId} {x : Line} (hlines : t.lines = s.lines) (m : LineId) :
    (t.setLine l x).inst m = if m = l then x.inst else s.inst m := by
  by_cases hm : m = l
  · subst hm
    rw [State.inst, State.setLine_line_self, if_pos rfl]
  · rw [State.inst, State.setLine_line_of_ne _ _ hm, if_neg hm, State.line, hlines]
    rfl

/-- A change of one line that leaves its instance leaves every instance. -/
theorem State.inst_modLine {s t : State} {l : LineId} {f : Line → Line} (hlines : t.lines = s.lines)
    (hf : ∀ x, (f x).inst = x.inst) (m : LineId) : (t.modLine l f).inst m = s.inst m := by
  rw [State.modLine, State.inst_setLine hlines, hf]
  split_ifs with hm
  · rw [hm, State.inst, State.line, State.line, hlines]
  · rfl

/-- R10: a sound form has values. -/
theorem FormSound.valueTotal_pos {d : FormDef} (h : FormSound d) : 0 < d.valueTotal := by
  obtain ⟨f, hf⟩ := List.exists_mem_of_length_pos (Nat.lt_of_lt_of_le Nat.one_pos h.fieldCount.1)
  obtain ⟨-, -, hlen, -⟩ := h.field f hf
  rw [h.valueTotal]
  exact (Nat.lt_of_lt_of_le Nat.one_pos hlen).trans_le (List.single_le_sum (by simp) _ (List.mem_map_of_mem hf))

/-- The extents of the instances stay. -/
theorem Kept.extents {B C : Prop} {s t : State} (h : Kept B C s t) (l : LineId) : (t.inst l).map Inst.extent = (s.inst l).map Inst.extent := by
  rcases (h.lines l).inst with ⟨hs, ht⟩ | ⟨i, j, hs, ht, hij⟩
  · rw [State.inst, State.inst, hs, ht]
  · rw [State.inst, State.inst, hs, ht, Option.map_some, Option.map_some, hij.extent]

/-- R48: an instance opened in the extent that first fit gives it. -/
theorem Divided.opening {s t : State} {l : LineId} {x : Line} {i : Inst} {size base : Nat} {free : List Extent} (h : Divided s)
    (hnone : (s.line l).inst = none) (hsize : 0 < size) (ha : allocate size s.freeList = some (base, free)) (hfree : t.freeList = free)
    (hlines : t.lines = s.lines) (hx : x.inst = some i) (hi : i.extent = ⟨base, size⟩) : Divided (t.setLine l x) := by
  obtain ⟨hform, hpos, hcover⟩ := (divided_iff s).1 h
  obtain ⟨hform', hsum⟩ := allocate_divides hform ha
  have hinst := State.inst_setLine (x := x) (l := l) hlines
  refine (divided_iff _).2 ⟨?_, fun m j hj => ?_, fun g => ?_⟩
  · show FreeListForm t.freeList
    rwa [hfree]
  · rw [hinst] at hj
    split_ifs at hj with hm
    · rw [hx] at hj
      cases hj
      rw [hi]
      exact hsize
    · exact hpos m j hj
  · show t.freeList.countP (Covers g) + _ = _
    have hupdate := countP_allLines_update (l := l) (p := fun m => ((s.inst m).map fun i => Covers g i.extent).getD false)
      (q := fun m => (((t.setLine l x).inst m).map fun i => Covers g i.extent).getD false) fun m hm => by
        rw [hinst, if_neg hm]
    have hold : ((s.inst l).map fun i => Covers g i.extent).getD false = false := by
      rw [State.inst, hnone]
      rfl
    have hnew : (((t.setLine l x).inst l).map fun i => Covers g i.extent).getD false = Covers g ⟨base, size⟩ := by
      rw [hinst, if_pos rfl, hx, ← hi]
      rfl
    rw [hold, hnew] at hupdate
    have := hcover g
    have := hsum g
    rw [hfree]
    simp only [Bool.toNat_false] at hupdate
    omega

/-- R49: the extent of an instance that is retired returns to the free entries. -/
theorem Divided.retiring {s t : State} {l : LineId} {x : Line} {i : Inst} (h : Divided s) (hi : (s.line l).inst = some i)
    (hfree : t.freeList = releaseExtent i.extent s.freeList) (hlines : t.lines = s.lines) (hx : x.inst = none) :
    Divided (t.setLine l x) := by
  obtain ⟨hform, hpos, hcover⟩ := (divided_iff s).1 h
  have hinst := State.inst_setLine (x := x) (l := l) hlines
  have hupdate (g : Nat) := countP_allLines_update (l := l) (p := fun m => ((s.inst m).map fun i => Covers g i.extent).getD false)
    (q := fun m => (((t.setLine l x).inst m).map fun i => Covers g i.extent).getD false) fun m hm => by
      rw [hinst, if_neg hm]
  have hold (g : Nat) : ((s.inst l).map fun i => Covers g i.extent).getD false = Covers g i.extent := by
    rw [State.inst, hi]
    rfl
  have hnew (g : Nat) : (((t.setLine l x).inst l).map fun i => Covers g i.extent).getD false = false := by
    rw [hinst, if_pos rfl, hx]
    rfl
  have hcount : 0 < i.extent.count := hpos l i hi
  have hapart : ∀ e ∈ s.freeList, e.base + e.count ≤ i.extent.base ∨ i.extent.base + i.extent.count ≤ e.base := by
    intro e he
    by_contra hshare
    have he0 := freeListForm_count hform e he
    let g := max e.base i.extent.base
    have hfree : 0 < s.freeList.countP (Covers g) := by
      refine List.countP_pos_iff.2 ⟨e, he, decide_eq_true ?_⟩
      show e.base ≤ max e.base i.extent.base ∧ max e.base i.extent.base < e.base + e.count
      omega
    have hline : 0 < allLines.countP fun m => ((s.inst m).map fun j => Covers g j.extent).getD false := by
      refine List.countP_pos_iff.2 ⟨l, mem_allLines l, ?_⟩
      rw [hold]
      refine decide_eq_true ?_
      show i.extent.base ≤ max e.base i.extent.base ∧ max e.base i.extent.base < i.extent.base + i.extent.count
      omega
    have := hcover g
    split_ifs at this <;> omega
  obtain ⟨hform', -, hsum⟩ := releaseExtent_divides hcount hform hapart
  refine (divided_iff _).2 ⟨?_, fun m j hj => ?_, fun g => ?_⟩
  · show FreeListForm t.freeList
    rwa [hfree]
  · rw [hinst] at hj
    split_ifs at hj with hm
    · rw [hx] at hj
      cases hj
    · exact hpos m j hj
  · show t.freeList.countP (Covers g) + _ = _
    have hg := hupdate g
    rw [hold, hnew] at hg
    have := hcover g
    rw [hfree, hsum]
    simp only [Bool.toNat_false] at hg
    omega

/-- The division of value memory is kept by every row, where the forms have values. -/
theorem rowClosed_divided : RowClosed fun s => (∀ k d, (s.slot k).state = .ready d → 0 < d.valueTotal) ∧ Divided s where
  kept s t h hs := by
    refine ⟨fun k d hk => hs.1 k d ?_, divided_congr h.freeList h.extents hs.2⟩
    rwa [State.slot, h.slots] at hk
  reset s cause _ := by
    refine ⟨fun k d hk => ?_, divided_congr (s := State.reset) rfl (fun l => ?_) divided_reset⟩
    · rw [State.resetBy_slot] at hk
      cases hk
    · rw [State.resetBy_inst, State.reset_inst]
  selfCheck _ _ _ h := h
  slot s k st _ hst h := by
    refine ⟨fun j d hj => ?_, h.2⟩
    by_cases hk : j = k
    · subst hk
      rw [State.setSlot_slot_self] at hj
      exact FormSound.valueTotal_pos (hst d hj)
    · rw [State.setSlot_slot_of_ne _ _ hk] at hj
      exact h.1 j d hj
  profile _ _ _ _ h := h
  configure s l cfg _ h :=
    ⟨h.1, divided_congr (s := s) rfl (fun m => congrArg _ (State.inst_modLine (s := s) (f := fun x => { x with config := cfg }) rfl (fun _ => rfl) m)) h.2⟩
  enable s l _ _ h := ⟨h.1, divided_congr (s := s) rfl (fun m => congrArg _ (State.inst_modLine (s := s) (f := Line.enabled) rfl (fun _ => rfl) m)) h.2⟩
  disable s l _ _ h := ⟨h.1, divided_congr (s := s) rfl (fun m => congrArg _ (State.inst_modLine (s := s) (f := Line.disabled) rfl (fun _ => rfl) m)) h.2⟩
  opening s l k d base free phase hnone hd ha h := by
    have hsize : 0 < d.extentSize := by
      have := h.1 k d hd
      show 0 < (d.valueTotal + 7) / 8
      omega
    rw [State.open_eq hd]
    refine ⟨fun j e hj => ?_, Divided.opening h.2 hnone hsize ha rfl rfl rfl rfl⟩
    by_cases hk : j = k
    · subst hk
      refine h.1 j e ?_
      rw [State.setLine_slot, State.setSlot_slot_self] at hj
      exact hj
    · rw [State.setLine_slot, State.setSlot_slot_of_ne _ _ hk] at hj
      exact h.1 j e hj
  retire s l h := by
    cases hi : (s.line l).inst with
    | none => rwa [State.retire_of_none hi]
    | some i =>
      rw [State.retire_eq hi]
      refine ⟨fun j e hj => ?_, Divided.retiring h.2 hi rfl rfl rfl⟩
      rw [State.setLine_slot, retired] at hj
      by_cases hk : j = i.slot
      · subst hk
        refine h.1 i.slot e ?_
        rw [State.setSlot_slot_self] at hj
        exact hj
      · rw [State.setSlot_slot_of_ne _ _ hk] at hj
        exact h.1 j e hj

/-- Settles O58: first fit and the return of an extent divide the granules anew, and no other row touches the free list or an extent. -/
theorem valueMemoryStaysDivided : Obligations.ValueMemoryStaysDivided := by
  intro s t hpos hs h
  exact (rowClosed_divided.step ⟨hpos, hs⟩ h).symm

end Sys2Proof.Machine
end


section
/-! PROOFS. The counts of the slots and profiles, and the records of the instances (R2, R10, R22, R47, R51, R140, R148). -/

namespace Sys2Proof.Machine

open Sys2Proof.Safety

-- The proofs of the whole text share one memory limit, and each thread takes its part of it.
set_option Elab.async false

/-! ## The counts -/

/-- Does the instance of a line stand on a slot? -/
def UsesSlot (s : State) (k : SlotId) (l : LineId) : Bool := decide ((s.inst l).map Inst.slot = some k)

/-- Is a line ON with a profile? -/
def ReadsProfile (s : State) (p : ProfileId) (l : LineId) : Bool := (s.line l).on && decide ((s.line l).config.profile = p)

/-- R2: the use count of a slot is exact, and a slot in use is READY. -/
def UseExact (s : State) (k : SlotId) : Prop :=
  (s.slot k).useCount = allLines.countP (UsesSlot s k) ∧ (0 < (s.slot k).useCount → ∃ d, (s.slot k).state = .ready d)

/-- R140, R148: the user count of a profile is exact, and a profile in use is READY. -/
def UsersExact (s : State) (p : ProfileId) : Prop :=
  (s.profileSlot p).userCount = allLines.countP (ReadsProfile s p) ∧
    (0 < (s.profileSlot p).userCount → ∃ r, (s.profileSlot p).state = .ready r)

theorem countsExact_iff (s : State) : CountsExact s ↔ (∀ k, UseExact s k) ∧ ∀ p, UsersExact s p := by
  simp only [CountsExact, UseExact, UsersExact, List.countP_eq_length_filter]
  rfl

/-- The count of a slot stays exact where the slot and the slots of the instances stay. -/
theorem UseExact.congr {s t : State} {k : SlotId} (hslot : t.slot k = s.slot k)
    (hinst : ∀ l, (t.inst l).map Inst.slot = (s.inst l).map Inst.slot) (h : UseExact s k) : UseExact t k := by
  have huses : UsesSlot t k = UsesSlot s k := funext fun l => by rw [UsesSlot, UsesSlot, hinst]
  rw [UseExact, hslot, huses]
  exact h

/-- The count of a profile stays exact where the profile and the switches and configurations of the lines stay. -/
theorem UsersExact.congr {s t : State} {p : ProfileId} (hprofile : t.profileSlot p = s.profileSlot p)
    (hreads : ∀ l, ReadsProfile t p l = ReadsProfile s p l) (h : UsersExact s p) : UsersExact t p := by
  rw [UsersExact, hprofile, show ReadsProfile t p = ReadsProfile s p from funext hreads]
  exact h

/-- The instances' slots stay. -/
theorem Kept.slotsOf {B C : Prop} {s t : State} (h : Kept B C s t) (l : LineId) : (t.inst l).map Inst.slot = (s.inst l).map Inst.slot := by
  rcases (h.lines l).inst with ⟨hs, ht⟩ | ⟨i, j, hs, ht, hij⟩
  · rw [State.inst, State.inst, hs, ht]
  · rw [State.inst, State.inst, hs, ht, Option.map_some, Option.map_some, hij.slot]

/-- A slot that is LOADING or not in use has no instance. -/
theorem UseExact.unused {s : State} {k : SlotId} (h : UseExact s k)
    (hidle : (s.slot k).isLoading = true ∨ (s.slot k).useCount = 0) : (s.slot k).useCount = 0 := by
  rcases hidle with hload | hzero
  · by_contra hne
    obtain ⟨d, hd⟩ := h.2 (Nat.pos_of_ne_zero hne)
    simp [Slot.isLoading, hd] at hload
  · exact hzero

theorem UsersExact.unused {s : State} {p : ProfileId} (h : UsersExact s p)
    (hidle : (s.profileSlot p).isLoading = true ∨ (s.profileSlot p).userCount = 0) : (s.profileSlot p).userCount = 0 := by
  rcases hidle with hload | hzero
  · by_contra hne
    obtain ⟨d, hd⟩ := h.2 (Nat.pos_of_ne_zero hne)
    simp [ProfileSlot.isLoading, hd] at hload
  · exact hzero

/-- A slot with an instance is in use. -/
theorem UseExact.pos {s : State} {l : LineId} {i : Inst} (h : UseExact s i.slot) (hi : (s.line l).inst = some i) :
    0 < (s.slot i.slot).useCount := by
  rw [h.1]
  refine List.countP_pos_iff.2 ⟨l, mem_allLines l, decide_eq_true ?_⟩
  rw [State.inst, hi]
  rfl

/-- A profile with an ON line is in use. -/
theorem UsersExact.pos {s : State} {l : LineId} (h : UsersExact s (s.line l).config.profile) (hon : (s.line l).on = true) :
    0 < (s.profileSlot (s.line l).config.profile).userCount := by
  rw [h.1]
  refine List.countP_pos_iff.2 ⟨l, mem_allLines l, ?_⟩
  simp [ReadsProfile, hon]

/-- The use count of each slot after a change of one line and of the slot's count. -/
theorem UseExact.setLine {s t : State} {l : LineId} {x : Line} {k : SlotId} (h : UseExact s k) (hlines : t.lines = s.lines)
    (hcount : (t.slot k).useCount + (UsesSlot s k l).toNat = (s.slot k).useCount + (decide (x.inst.map Inst.slot = some k)).toNat)
    (hready : 0 < (t.slot k).useCount → ∃ d, (t.slot k).state = .ready d) : UseExact (t.setLine l x) k := by
  have hinst := State.inst_setLine (x := x) (l := l) hlines
  refine ⟨?_, hready⟩
  have hupdate := countP_allLines_update (l := l) (p := UsesSlot s k) (q := UsesSlot (t.setLine l x) k) fun m hm => by
    rw [UsesSlot, UsesSlot, hinst, if_neg hm]
  have hnew : UsesSlot (t.setLine l x) k l = decide (x.inst.map Inst.slot = some k) := by rw [UsesSlot, hinst, if_pos rfl]
  rw [hnew, ← h.1] at hupdate
  show (t.slot k).useCount = _
  omega

/-- The user count of each profile after a change of one line and of the profile's count. -/
theorem UsersExact.setLine {s t : State} {l : LineId} {x : Line} {p : ProfileId} (h : UsersExact s p) (hlines : t.lines = s.lines)
    (hcount : (t.profileSlot p).userCount + (ReadsProfile s p l).toNat =
      (s.profileSlot p).userCount + (x.on && decide (x.config.profile = p)).toNat)
    (hready : 0 < (t.profileSlot p).userCount → ∃ r, (t.profileSlot p).state = .ready r) : UsersExact (t.setLine l x) p := by
  refine ⟨?_, hready⟩
  have hupdate := countP_allLines_update (l := l) (p := ReadsProfile s p) (q := ReadsProfile (t.setLine l x) p) fun m hm => by
    rw [ReadsProfile, ReadsProfile, State.setLine_line_of_ne _ _ hm, State.line, State.line, hlines]
  have hnew : ReadsProfile (t.setLine l x) p l = (x.on && decide (x.config.profile = p)) := by rw [ReadsProfile, State.setLine_line_self]
  rw [hnew, ← h.1] at hupdate
  show (t.profileSlot p).userCount = _
  omega

/-- The counts are kept by every row. -/
theorem rowClosed_countsExact : RowClosed CountsExact where
  kept s t h hs := by
    obtain ⟨huse, husers⟩ := (countsExact_iff s).1 hs
    refine (countsExact_iff t).2 ⟨fun k => (huse k).congr ?_ h.slotsOf, fun p => (husers p).congr ?_ fun l => ?_⟩
    · rw [State.slot, State.slot, h.slots]
    · rw [State.profileSlot, State.profileSlot, h.profiles]
    · rw [ReadsProfile, ReadsProfile, (h.lines l).on, (h.lines l).config]
  reset s cause _ := by
    refine ⟨fun k => ?_, fun p => ?_⟩
    · simp [State.resetBy_slot, State.resetBy_inst]
    · simp [State.resetBy_profileSlot, State.resetBy_line, Line.reset]
  selfCheck _ _ _ h := h
  slot s k st hidle _ hs := by
    obtain ⟨huse, husers⟩ := (countsExact_iff s).1 hs
    refine (countsExact_iff _).2 ⟨fun j => ?_, husers⟩
    by_cases hj : j = k
    · subst hj
      have hzero := (huse j).unused hidle
      refine ⟨?_, fun hpos => ?_⟩
      · rw [State.setSlot_slot_self]
        exact hzero.symm.trans (huse j).1
      · rw [State.setSlot_slot_self] at hpos
        exact absurd hpos (Nat.lt_irrefl 0)
    · exact (huse j).congr (State.setSlot_slot_of_ne _ _ hj) fun _ => rfl
  profile s p st hidle hs := by
    obtain ⟨huse, husers⟩ := (countsExact_iff s).1 hs
    refine (countsExact_iff _).2 ⟨huse, fun q => ?_⟩
    by_cases hq : q = p
    · subst hq
      have hzero := (husers q).unused hidle
      refine ⟨?_, fun hpos => ?_⟩
      · rw [State.setProfile_profileSlot_self]
        exact (husers q).1
      · rw [State.setProfile_profileSlot_self] at hpos
        exact absurd hzero (Nat.ne_of_gt hpos)
    · exact (husers q).congr (State.setProfile_profileSlot_of_ne _ _ hq) fun _ => rfl
  configure s l cfg hoff hs := by
    obtain ⟨huse, husers⟩ := (countsExact_iff s).1 hs
    refine (countsExact_iff _).2 ⟨fun k => ?_, fun p => ?_⟩
    · exact (huse k).setLine rfl rfl (huse k).2
    · exact (husers p).setLine rfl (by simp [ReadsProfile, hoff]) (husers p).2
  enable s l hoff hfree hs := by
    obtain ⟨huse, husers⟩ := (countsExact_iff s).1 hs
    refine (countsExact_iff _).2 ⟨fun k => ?_, fun p => ?_⟩
    · exact (huse k).setLine rfl rfl (huse k).2
    · have hready : ∃ r, (s.profileSlot (s.line l).config.profile).state = .ready r := by
        cases hstate : (s.profileSlot (s.line l).config.profile).state with
        | ready r => exact ⟨r, rfl⟩
        | loading tag n => simp [ProfileSlot.isLoading, hstate] at hfree
      refine (husers p).setLine rfl ?_ ?_
      · by_cases hp : (s.line l).config.profile = p
        · subst hp
          simp [ReadsProfile, hoff, State.countUser, Line.enabled]
        · rw [State.countUser, State.setProfile_profileSlot_of_ne _ _ (Ne.symm hp)]
          simp [ReadsProfile, hoff, Line.enabled, hp]
      · by_cases hp : (s.line l).config.profile = p
        · subst hp
          intro _
          rw [State.countUser, State.setProfile_profileSlot_self]
          exact hready
        · rw [State.countUser, State.setProfile_profileSlot_of_ne _ _ (Ne.symm hp)]
          exact (husers p).2
  disable s l hon hnone hs := by
    obtain ⟨huse, husers⟩ := (countsExact_iff s).1 hs
    refine (countsExact_iff _).2 ⟨fun k => ?_, fun p => ?_⟩
    · exact (huse k).setLine rfl rfl (huse k).2
    · have hpos := (husers _).pos hon
      refine (husers p).setLine rfl ?_ ?_
      · by_cases hp : (s.line l).config.profile = p
        · subst hp
          simp [ReadsProfile, hon, State.countUser, Line.disabled]
          omega
        · rw [State.countUser, State.setProfile_profileSlot_of_ne _ _ (Ne.symm hp)]
          simp [ReadsProfile, Line.disabled, hp]
      · by_cases hp : (s.line l).config.profile = p
        · subst hp
          intro _
          rw [State.countUser, State.setProfile_profileSlot_self]
          exact (husers _).2 hpos
        · rw [State.countUser, State.setProfile_profileSlot_of_ne _ _ (Ne.symm hp)]
          exact (husers p).2
  opening s l k d base free phase hnone hd ha hs := by
    obtain ⟨huse, husers⟩ := (countsExact_iff s).1 hs
    rw [State.open_eq hd]
    refine (countsExact_iff _).2 ⟨fun j => ?_, fun p => ?_⟩
    · have hold : UsesSlot s j l = false := by simp [UsesSlot, State.inst, hnone]
      by_cases hj : j = k
      · subst hj
        refine (huse j).setLine rfl ?_ fun _ => ?_
        · rw [State.setSlot_slot_self, hold]
          simp [lineWith, openedRecord, openedInst]
        · rw [State.setSlot_slot_self]
          exact ⟨d, hd⟩
      · refine (huse j).setLine rfl ?_ ?_
        · rw [State.setSlot_slot_of_ne _ _ hj, hold]
          simp [lineWith, openedRecord, openedInst, Ne.symm hj]
          rfl
        · rw [State.setSlot_slot_of_ne _ _ hj]
          exact (huse j).2
    · exact (husers p).setLine rfl rfl (husers p).2
  retire s l hs := by
    obtain ⟨huse, husers⟩ := (countsExact_iff s).1 hs
    cases hi : (s.line l).inst with
    | none => rwa [State.retire_of_none hi]
    | some i =>
      rw [State.retire_eq hi]
      refine (countsExact_iff _).2 ⟨fun j => ?_, fun p => ?_⟩
      · have hpos := (huse i.slot).pos hi
        by_cases hj : j = i.slot
        · subst hj
          have hold : UsesSlot s i.slot l = true := by simp [UsesSlot, State.inst, hi]
          refine (huse i.slot).setLine rfl ?_ fun _ => ?_
          · rw [retired, State.setSlot_slot_self, hold]
            show (s.slot i.slot).useCount - 1 + 1 = (s.slot i.slot).useCount + 0
            omega
          · rw [retired, State.setSlot_slot_self]
            exact (huse i.slot).2 hpos
        · have hold : UsesSlot s j l = false := by simp [UsesSlot, State.inst, hi, Ne.symm hj]
          refine (huse j).setLine rfl ?_ ?_
          · rw [retired, State.setSlot_slot_of_ne _ _ hj, hold]
            rfl
          · rw [retired, State.setSlot_slot_of_ne _ _ hj]
            exact (huse j).2
      · exact (husers p).setLine rfl rfl (husers p).2

/-! ## The records -/

/-- R10, R22, R47, R51: an instance on a form has its records, and an extent of the form's size. -/
def WholeOn (d : FormDef) (i : Inst) : Prop := FieldsWhole d i ∧ i.extent.count = d.extentSize

theorem recordsWhole_iff (s : State) :
    RecordsWhole s ↔ (∀ k d, (s.slot k).state = .ready d → FormSound d) ∧ ∀ l i, s.inst l = some i → WholeOn (s.form i) i := by
  refine and_congr_right fun _ => forall_congr' fun l => forall_congr' fun i => forall_congr' fun _ => ?_
  constructor
  · rintro ⟨hlen, hcount, hvalues⟩
    exact ⟨⟨hlen, hvalues⟩, hcount⟩
  · rintro ⟨⟨hlen, hvalues⟩, hcount⟩
    exact ⟨hlen, hcount, hvalues⟩

/-- A slot whose use count alone changes holds what it held. -/
theorem State.setSlot_count_state {s t : State} (h : t.slots = s.slots) (k j : SlotId) (n : Nat) :
    ((t.setSlot k { s.slot k with useCount := n }).slot j).state = (s.slot j).state := by
  by_cases hj : j = k
  · rw [hj, State.setSlot_slot_self]
  · rw [State.setSlot_slot_of_ne _ _ hj, State.slot, State.slot, h]

theorem Slot.form_congr {k j : Slot} (h : k.state = j.state) : k.form = j.form := by rw [Slot.form, Slot.form, h]

/-- R60: the records of an instance just opened. -/
theorem wholeOn_openedRecord {d : FormDef} (h : FormSound d) (k : SlotId) (serial : Word) (base : Nat) (phase : Phase) :
    WholeOn d (openedRecord d k serial base phase) :=
  ⟨FormSound.openingRec_whole h (by simp [openedRecord, freshFields, FormDef.fieldNumbers, openingRec]), rfl⟩

/-- Every READY slot holds a sound form, and every instance has the property on its form. -/
structure Stands (Q : FormDef → Inst → Prop) (s : State) : Prop where
  counts : CountsExact s
  sound : ∀ k d, (s.slot k).state = .ready d → FormSound d
  inst : ∀ l i, s.inst l = some i → Q (s.form i) i

/-- R2: the form of an instance is that of a READY slot, and is sound. -/
theorem Stands.form_sound {Q : FormDef → Inst → Prop} {s : State} (h : Stands Q s) {l : LineId} {i : Inst} (hi : s.inst l = some i) :
    FormSound (s.form i) := by
  have huse := ((countsExact_iff s).1 h.counts).1 i.slot
  obtain ⟨d, hd⟩ := huse.2 (huse.pos hi)
  rw [State.form, Slot.form_of_ready hd]
  exact h.sound i.slot d hd

/-- A change of one line, to an instance with the property or to none. -/
theorem Stands.setLine {Q : FormDef → Inst → Prop} {s t : State} {l : LineId} {x : Line} (h : Stands Q s)
    (hcounts : CountsExact (t.setLine l x)) (hlines : t.lines = s.lines) (hstate : ∀ k, (t.slot k).state = (s.slot k).state)
    (hx : ∀ i, x.inst = some i → Q (t.form i) i) : Stands Q (t.setLine l x) := by
  refine ⟨hcounts, fun k d hd => h.sound k d ((hstate k).symm.trans hd), fun m i hi => ?_⟩
  rw [State.inst_setLine hlines] at hi
  split_ifs at hi with hm
  · exact hx i hi
  · have hform : (t.setLine l x).form i = s.form i := Slot.form_congr (hstate i.slot)
    rw [hform]
    exact h.inst m i hi

/-- A property of instances on their forms that every `Kept` operation keeps, and that an instance just opened has, is kept by every
row, where the counts are exact. -/
theorem opClosed_stands {C : Prop} {Q : FormDef → Inst → Prop}
    (hkept : ∀ d i j, FormSound d → SameShape False C d i j → Q d i → Q d j)
    (hopen : ∀ d k serial base phase, FormSound d → Q d (openedRecord d k serial base phase)) : OpClosed C (Stands Q) where
  kept s t h hs := by
    refine ⟨rowClosed_countsExact.kept s t (h.mono id False.elim) hs.counts, fun k d hd => ?_, fun l j hj => ?_⟩
    · rw [State.slot, h.slots] at hd
      exact hs.sound k d hd
    · rcases (h.lines l).inst with ⟨-, ht⟩ | ⟨i, j', hi, ht, hij⟩
      · rw [State.inst, ht] at hj
        cases hj
      · obtain rfl : j' = j := Option.some.inj (ht.symm.trans hj)
        rw [State.form_congr h.slots hij.slot]
        exact hkept _ i j' (hs.form_sound hi) hij (hs.inst l i hi)
  slot s k st hidle hst hs := by
    refine ⟨rowClosed_countsExact.slot s k st hidle hst hs.counts, fun j d hj => ?_, fun l i hi => ?_⟩
    · by_cases hk : j = k
      · subst hk
        rw [State.setSlot_slot_self] at hj
        exact hst d hj
      · rw [State.setSlot_slot_of_ne _ _ hk] at hj
        exact hs.sound j d hj
    · have huse := ((countsExact_iff s).1 hs.counts).1
      have hk : i.slot ≠ k := by
        rintro rfl
        exact absurd ((huse i.slot).unused hidle) (Nat.ne_of_gt ((huse i.slot).pos hi))
      have hform : (s.setSlot k ⟨st, 0⟩).form i = s.form i := by
        rw [State.form, State.setSlot_slot_of_ne _ _ hk, State.form]
      rw [hform]
      exact hs.inst l i hi
  profile s p st hidle hs := ⟨rowClosed_countsExact.profile s p st hidle hs.counts, hs.sound, hs.inst⟩
  configure s l cfg hoff hs :=
    hs.setLine (rowClosed_countsExact.configure s l cfg hoff hs.counts) rfl (fun _ => rfl) fun i hi => hs.inst l i hi
  enable s l hoff hfree hs :=
    hs.setLine (rowClosed_countsExact.enable s l hoff hfree hs.counts) rfl (fun _ => rfl) fun i hi => hs.inst l i hi
  disable s l hon hnone hs :=
    hs.setLine (rowClosed_countsExact.disable s l hon hnone hs.counts) rfl (fun _ => rfl) fun i hi => hs.inst l i hi
  opening s l k d base free phase hnone hd ha hs := by
    have hcounts := rowClosed_countsExact.opening s l k d base free phase hnone hd ha hs.counts
    rw [State.open_eq hd] at hcounts ⊢
    let opened : State := { s with
      freeList := free
      nextSerial := nextSerialAfter s.takenSerial
      valueMemory := openingMemory d base s.valueMemory }
    have hstate (j : SlotId) := State.setSlot_count_state (s := s) (t := opened) rfl k j ((s.slot k).useCount + 1)
    refine hs.setLine hcounts rfl hstate fun i hi => ?_
    cases hi
    have hform : (opened.setSlot k { s.slot k with useCount := (s.slot k).useCount + 1 }).form
        (openedRecord d k s.takenSerial base phase) = d := (Slot.form_congr (hstate k)).trans (Slot.form_of_ready hd)
    show Q ((opened.setSlot k { s.slot k with useCount := (s.slot k).useCount + 1 }).form _) _
    rw [hform]
    exact hopen d k _ base phase (hs.sound k d hd)
  retire s l hs := by
    have hcounts := rowClosed_countsExact.retire s l hs.counts
    cases hi : (s.line l).inst with
    | none => rwa [State.retire_of_none hi]
    | some i =>
      rw [State.retire_eq hi] at hcounts ⊢
      let freed : State := { s with
        freeList := releaseExtent i.extent s.freeList
        waiting := s.waiting.filter fun m => m != l
        busQueue := s.busQueue.filter fun r => r.owner != .presetFetch l && r.owner != .delivery l
        reserved := s.reserved - i.reservation }
      have hstate (j : SlotId) := State.setSlot_count_state (s := s) (t := freed) rfl i.slot j ((s.slot i.slot).useCount - 1)
      exact hs.setLine hcounts rfl hstate fun i hi => by cases hi

theorem Stands.reset {Q : FormDef → Inst → Prop} {s : State} (cause : ResetCause) (h : Stands Q s) : Stands Q (s.resetBy cause) := by
  refine ⟨rowClosed_countsExact.reset s cause h.counts, fun k d hd => ?_, fun l i hi => ?_⟩
  · rw [State.resetBy_slot] at hd
    cases hd
  · rw [State.resetBy_inst] at hi
    cases hi

theorem Stands.selfCheck {Q : FormDef → Inst → Prop} {s : State} (p : PartState) (code : FaultCode) (h : Stands Q s) :
    Stands Q { s with partState := p, faultCode := code, stateChange := true } := ⟨h.counts, h.sound, h.inst⟩

/-- The records are kept by every row, where the counts are exact. -/
theorem rowClosed_recordsWhole : RowClosed (Stands WholeOn) where
  toOpClosed := opClosed_stands (fun _ _ _ hd hij h => ⟨hij.fields hd h.1, by rw [hij.extent, h.2]⟩)
    fun _ k _ base phase hd => wholeOn_openedRecord hd k _ base phase
  reset _ cause h := h.reset cause
  selfCheck _ p code h := h.selfCheck p code

theorem stands_wholeOn_iff (s : State) : Stands WholeOn s ↔ CountsExact s ∧ RecordsWhole s := by
  rw [recordsWhole_iff]
  exact ⟨fun ⟨h1, h2, h3⟩ => ⟨h1, h2, h3⟩, fun ⟨h1, h2, h3⟩ => ⟨h1, h2, h3⟩⟩

/-- Settles O57: the counts and the records, row by row. -/
theorem countsAndRecordsKept : Obligations.CountsAndRecordsKept :=
  ⟨fun _ _ hs h => rowClosed_countsExact.step hs h, fun s t hc hr h =>
    ((stands_wholeOn_iff t).1 (rowClosed_recordsWhole.step ((stands_wholeOn_iff s).2 ⟨hc, hr⟩) h)).2⟩

end Sys2Proof.Machine
end


section
/-! PROOFS. Until the part is READY (R180, R182): no claim waits, nothing is asked of the bus, and every line is as a reset leaves it,
so that no row but a reset and the end of the self-check does anything but follow a ready input or clear a flag. -/

namespace Sys2Proof.Machine

open Sys2Proof.Safety

-- The proofs of the whole text share one memory limit, and each thread takes its part of it.
set_option Elab.async false

/-- R180, R182: what the part holds until it is READY. -/
structure Idle (s : State) : Prop where
  commandQueue : s.commandQueue = []
  assembler : s.assembler = .free
  answerQueue : s.answerQueue = []
  busQueue : s.busQueue = []
  transfer : s.transfer = none
  lines : ∀ l, ∃ ready wire, s.line l = Line.reset ready wire

theorem quiet_iff (s : State) : Quiet s ↔ (s.partState ≠ .ready → Idle s) :=
  forall_congr' fun _ => ⟨fun ⟨h1, h2, h3, h4, h5, h6⟩ => ⟨h1, h2, h3, h4, h5, h6⟩, fun ⟨h1, h2, h3, h4, h5, h6⟩ => ⟨h1, h2, h3, h4, h5, h6⟩⟩

/-- The part state stays in every row but the resets and the end of the self-check. -/
theorem opClosed_partState (p : PartState) : OpClosed False fun s => s.partState = p where
  kept _ _ h hs := h.partState.trans hs
  slot _ _ _ _ _ h := h
  profile _ _ _ _ h := h
  configure _ _ _ _ h := h
  enable _ _ _ _ h := h
  disable _ _ _ _ h := h
  opening s l k d base free phase _ hd _ h := by
    rw [State.open_eq hd]
    exact h
  retire s l h := by
    cases hi : (s.line l).inst with
    | none => rwa [State.retire_of_none hi]
    | some i =>
      rw [State.retire_eq hi]
      exact h

theorem State.resetBy_idle (s : State) (cause : ResetCause) : Idle (s.resetBy cause) :=
  ⟨rfl, rfl, rfl, rfl, rfl, fun l => ⟨_, _, s.resetBy_line cause l⟩⟩

/-- The port, the bus and the lines are as they were. -/
theorem Idle.congr {s t : State} (h : Idle s) (hqueue : t.commandQueue = s.commandQueue) (hassembler : t.assembler = s.assembler)
    (hanswers : t.answerQueue = s.answerQueue) (hbus : t.busQueue = s.busQueue) (htransfer : t.transfer = s.transfer)
    (hlines : ∀ l, ∃ ready wire, t.line l = Line.reset ready wire) : Idle t :=
  ⟨hqueue.trans h.commandQueue, hassembler.trans h.assembler, hanswers.trans h.answerQueue, hbus.trans h.busQueue,
    htransfer.trans h.transfer, hlines⟩

/-- A change of one line that leaves it as a reset does. -/
theorem Idle.modLine {s : State} (h : Idle s) {l : LineId} {f : Line → Line}
    (hf : ∀ ready wire, ∃ ready' wire', f (Line.reset ready wire) = Line.reset ready' wire') : Idle (s.modLine l f) := by
  refine h.congr rfl rfl rfl rfl rfl fun m => ?_
  by_cases hm : m = l
  · subst hm
    obtain ⟨ready, wire, hx⟩ := h.lines m
    rw [State.modLine_line_self, hx]
    exact hf ready wire
  · rw [State.modLine_line_of_ne _ _ hm]
    exact h.lines m

/-- Nobody claims. -/
theorem Idle.nextGrant {s : State} (h : Idle s) : s.nextGrant = none := by
  refine State.nextGrant_of_no_claim fun c => ?_
  cases c with
  | commandUnit => simp [State.claimOf, h.assembler]
  | line l =>
    obtain ⟨ready, wire, hx⟩ := h.lines l
    simp [State.claimOf, hx, Line.reset]

/-- No command is taken. -/
theorem Idle.takeCommand {s : State} (h : Idle s) (accepts : Command → Bool) (act : Command → State → State) :
    s.takeCommand accepts act = s :=
  State.takeCommand_of_none (by simp [State.grantedCommand, h.nextGrant]) accepts act

/-- There is no instance. -/
theorem Idle.instOf {s : State} (h : Idle s) (l : LineId) : s.instOf l = Inst.blank := by
  obtain ⟨ready, wire, hx⟩ := h.lines l
  rw [State.instOf, State.inst, hx]
  rfl

/-- A transfer that has not begun does not end. -/
theorem Idle.transferEnd {s : State} (h : Idle s) (bytes : List Byte) (answered : Nat) :
    effectFormFetchEnd bytes s = s ∧ effectProfileFetchEnd bytes s = s ∧ effectPresetFetchEnd bytes s = s ∧
      effectDeliveryComplete s = s ∧ effectBusFault answered bytes s = s := by
  simp [effectFormFetchEnd, effectProfileFetchEnd, effectPresetFetchEnd, effectDeliveryComplete, effectBusFault, h.transfer]

/-- A line as a reset leaves it takes no key, composes no unit and has no timer that runs. -/
theorem Idle.lineRows {s : State} (h : Idle s) (l : LineId) (c : RxChar) :
    effectCharacterReceived l c s = s ∧ effectSettleTimerExpiry l s = s ∧ effectStallTimerExpiry l s = s ∧ s.byteTaken l = s ∧
      effectGapTimerExpiry l s = s ∧ s.compose l = s := by
  obtain ⟨ready, wire, hx⟩ := h.lines l
  have hconsidered : s.considered l = none := by simp [State.considered, hx, Line.reset]
  have hrow : (s.line l).inputRow ≠ .closing := by simp [hx, Line.inputRow, Line.reset]
  have hcompose : s.composable l = none := by simp [State.composable, hx, Line.reset]
  refine ⟨?_, ?_, ?_, ?_, ?_, ?_⟩
  · simp [effectCharacterReceived, Line.receives, hx, Line.reset]
  · simp [effectSettleTimerExpiry, hx, Line.reset, Timer.isRunning]
  · simp [effectStallTimerExpiry, hx, Line.reset, Timer.isRunning]
  · simp [State.byteTaken, hconsidered, hrow]
  · simp [effectGapTimerExpiry, hx, Line.reset, Timer.isRunning]
  · simp [State.compose, hcompose]

theorem Idle.readData {s : State} (h : Idle s) : Idle s.readData := by
  rw [State.readData, h.answerQueue]
  exact h.congr rfl rfl h.answerQueue.symm rfl rfl h.lines

theorem Idle.writeControl {s : State} (h : Idle s) (c : Word) : Idle (s.writeControl c) := h.congr rfl rfl rfl rfl rfl h.lines

/-- R163: the ready level of a line that is OFF follows the input and starts no timer. -/
theorem readyInput_reset (ready present : Bool) (wire : Option TxFrame) :
    (if (Line.reset ready wire).readyLevel = present then Line.reset ready wire
      else Line.readyChanged { Line.reset ready wire with readyLevel := present }) = Line.reset present wire := by
  split_ifs with h
  · cases h
    rfl
  · rfl

/-- Every row but the resets and the end of the self-check. -/
theorem Idle.effect {s : State} (h : Idle s) (hpart : s.partState ≠ .ready) {row : Instr} (hrow : changesPart row = false) :
    Idle (s.effect row) := by
  have same {t : State} (e : t = s) : Idle t := by rwa [e]
  have htaken (accepts : Command → Bool) (act : Command → State → State) : Idle (s.takeCommand accepts act) :=
    same (h.takeCommand accepts act)
  cases row with
  | powerOnReset => cases hrow
  | portReset value answered => cases hrow
  | selfCheckEnd v b p => cases hrow
  | dataWrite w => exact same (State.writeData_discarded w (.inl hpart))
  | dataRead => exact h.readData
  | setInterruptEnables c => exact h.writeControl c
  | clearStateChangeFlag c => exact h.writeControl _
  | clearOverflow c => exact h.writeControl _
  | assemblyTimerExpiry => exact same (by simp [State.effect, effectAssemblyTimerExpiry, State.truncateCommand, h.assembler])
  | assemblyResultPost => exact same (by simp [State.effect, effectAssemblyResultPost, State.postOwed, h.nextGrant])
  | transferStart => exact same (State.startTransfer_of_empty h.busQueue)
  | formFetchEnd bytes => exact same (h.transferEnd bytes 0).1
  | profileFetchEnd bytes => exact same (h.transferEnd bytes 0).2.1
  | presetFetchEnd bytes => exact same (h.transferEnd bytes 0).2.2.1
  | deliveryComplete => exact same (h.transferEnd [] 0).2.2.2.1
  | busFault answered bytes => exact same (h.transferEnd bytes answered).2.2.2.2
  | characterReceived l c => exact same (h.lineRows l c).1
  | breakEnd l => exact h.modLine (f := fun x => { x with breakState := .idle }) fun ready wire => ⟨ready, wire, rfl⟩
  | readyInputChange l present =>
    exact h.modLine (f := fun x => if x.readyLevel = present then x else Line.readyChanged { x with readyLevel := present })
      fun ready wire => ⟨present, wire, readyInput_reset ready present wire⟩
  | settleTimerExpiry l => exact same (h.lineRows l ⟨0, false, false⟩).2.1
  | stallTimerExpiry l => exact same (h.lineRows l ⟨0, false, false⟩).2.2.1
  | byteTransmitStart l => exact h.modLine fun ready wire => ⟨ready, wire, rfl⟩
  | byteTaken l => exact same (h.lineRows l ⟨0, false, false⟩).2.2.2.1
  | gapTimerExpiry l => exact same (h.lineRows l ⟨0, false, false⟩).2.2.2.2.1
  | keyClaimGrant l => exact same (by simp [State.effect, effectKeyClaimGrant, h.nextGrant])
  | lineEvent l => exact same (by simp [State.effect, effectLineEvent, h.nextGrant])
  | inactivityTimerExpiry l =>
    exact same (by simp [State.effect, effectInactivityTimerExpiry, h.instOf, Inst.blank, Timer.isRunning])
  | verdictTimerExpiry l => exact same (by simp [State.effect, effectVerdictTimerExpiry, h.instOf, Inst.blank, Timer.isRunning])
  | unitComposition l => exact same (h.lineRows l ⟨0, false, false⟩).2.2.2.2.2
  | receivedStreamIdleSeen l =>
    exact h.modLine (f := fun x => if x.on = true then { x with idleSeen := true } else x) fun ready wire => ⟨ready, wire, rfl⟩
  | _ => exact htaken _ _

/-- A tick of a line as a reset leaves it counts nothing. -/
theorem Idle.tick {s : State} (h : Idle s) : Idle s.tick := by
  have hframe := s.tick_frame
  refine h.congr (congrArg State.commandQueue hframe :) ?_ (congrArg State.answerQueue hframe :) (congrArg State.busQueue hframe :)
    (congrArg State.transfer hframe :) fun l => ?_
  · rw [congrArg State.assembler hframe, h.assembler]
    rfl
  · obtain ⟨ready, wire, hx⟩ := h.lines l
    rw [State.tick_line, hx]
    exact ⟨ready, wire, rfl⟩

/-- Settles O56: on an idle part only a reset and the end of the self-check do more than follow an input or clear a flag, and after a
reset the part is idle. -/
theorem quietUntilReady : Obligations.QuietUntilReady := by
  refine fun s t hs h => step_keeps (fun s _ hs => hs) (fun s row hs => ?_) (fun s hs => ?_) hs h
  · by_cases hrow : changesPart row = false
    · rw [quiet_iff] at hs ⊢
      intro hpart
      have hpart' : s.partState ≠ .ready := fun e => hpart ((opClosed_partState .ready).effect s hrow False.elim e)
      exact (hs hpart').effect hpart' hrow
    · cases row
      case powerOnReset => exact (quiet_iff _).2 fun _ => s.resetBy_idle .power
      case portReset value answered => exact (quiet_iff _).2 fun _ => State.resetBy_idle _ .port
      case selfCheckEnd v b p =>
        show Quiet (effectSelfCheckEnd v b p s)
        unfold effectSelfCheckEnd
        split
        next hstart =>
          refine (quiet_iff _).2 fun _ => ?_
          have hidle := (quiet_iff s).1 hs (by rw [hstart]; decide)
          exact hidle.congr rfl rfl rfl rfl rfl hidle.lines
        · exact hs
      all_goals exact absurd rfl hrow
  · rw [quiet_iff] at hs ⊢
    intro hpart
    refine (hs fun e => hpart ?_).tick
    rw [congrArg State.partState s.tick_frame]
    exact e

end Sys2Proof.Machine
end

section
/-! PROOFS. The books as a ledger: for each slot, profile and line what it holds reserved, the request it has placed, and whether it
waits for a buffer (R127, R168, R187). An operation changes the entry of one of them, and the queues with it. -/

namespace Sys2Proof.Machine

open Sys2Proof.Safety

-- The proofs of the whole text share one memory limit, and each thread takes its part of it.
set_option Elab.async false

variable {B C : Prop}

/-! ## The ledger -/

/-- Who may own requests and reserved words: a slot, a profile or a line. -/
abbrev Subject := SlotId ⊕ ProfileId ⊕ LineId

/-- The slot, the profile or the line that a request belongs to. -/
def ownerSubject : Owner → Subject
  | .formFetch k => .inl k
  | .profileFetch p => .inr (.inl p)
  | .presetFetch l => .inr (.inr l)
  | .delivery l => .inr (.inr l)

/-- What a slot, a profile or a line holds: its reserved words, the owner of the request it waits for, whether it waits for a buffer,
whether its request must be the transfer in progress, and what else is true of it. -/
structure Desk where
  words : Nat
  asks : Option Owner
  waits : Bool
  runs : Bool
  sound : Prop

/-- Nothing is held and nothing waited for. -/
def Desk.idle : Desk := ⟨0, none, false, false, True⟩

/-- R11: what a slot holds. -/
def SlotState.desk (k : SlotId) : SlotState → Desk
  | .loading _ r => ⟨r, some (.formFetch k), false, false, r = 4⟩
  | _ => .idle

/-- R149: what a profile holds. -/
def ProfileState.desk (p : ProfileId) : ProfileState → Desk
  | .loading _ r => ⟨r, some (.profileFetch p), false, false, r = 4⟩
  | .ready _ => .idle

/-- R33, R39, R128: the owner of the request that an instance waits for. -/
def Inst.asks (l : LineId) (i : Inst) : Option Owner :=
  match i.phase with
  | .presetting => some (.presetFetch l)
  | .delivering => some (.delivery l)
  | .closing => if i.pendingOpen.isSome then some (.presetFetch l) else some (.delivery l)
  | _ => none

/-- What the instance of a line holds. -/
def Inst.desk (l : LineId) (i : Inst) : Desk :=
  ⟨i.reservation + (i.pendingClose.map PendingClose.reservation).sum, i.asks l, decide (i.phase = .awaitBuffer),
    decide (i.phase = .closing), Holds i⟩

/-- What a line holds. -/
def lineDesk (l : LineId) : Option Inst → Desk
  | some i => i.desk l
  | none => .idle

/-- What a slot, a profile or a line holds. -/
def State.desk (s : State) : Subject → Desk
  | .inl k => (s.slot k).state.desk k
  | .inr (.inl p) => (s.profileSlot p).state.desk p
  | .inr (.inr l) => lineDesk l (s.inst l)

/-- R168: the owners of the transfer in progress and of the requests queued. -/
def State.owners (s : State) : List Owner := (s.transfer.toList ++ s.busQueue).map Request.owner

/-- All slots, profiles and lines. -/
def allSubjects : List Subject :=
  (List.finRange 24).map .inl ++ ((List.finRange 4).map (.inr ∘ .inl) ++ allLines.map (.inr ∘ .inr))

/-- R127, R168, R187: the books of the part while `n` granted words are still to be used. -/
structure Ledger (n : Nat) (s : State) : Prop where
  nodup : s.waiting.Nodup
  waiting : ∀ l, l ∈ s.waiting ↔ (s.desk (.inr (.inr l))).waits = true
  once : s.owners.Nodup
  asked : ∀ o, o ∈ s.owners ↔ (s.desk (ownerSubject o)).asks = some o
  running : ∀ x, (s.desk x).runs = true → ∃ o, (s.desk x).asks = some o ∧ s.transfer.map Request.owner = some o
  sound : ∀ x, (s.desk x).sound
  reserved : s.reserved = (allSubjects.map fun x => (s.desk x).words).sum + n
  room : s.answerQueue.length + s.reserved ≤ 256

theorem nodup_allSubjects : allSubjects.Nodup := by
  have hlines : (allLines.map (.inr ∘ .inr) : List Subject).Nodup := allLines_nodup.map fun a b h => Sum.inr.inj (Sum.inr.inj h)
  have hprofiles : ((List.finRange 4).map (.inr ∘ .inl) : List Subject).Nodup :=
    (List.nodup_finRange 4).map fun a b h => Sum.inl.inj (Sum.inr.inj h)
  have hslots : ((List.finRange 24).map .inl : List Subject).Nodup := (List.nodup_finRange 24).map fun a b h => Sum.inl.inj h
  refine hslots.append (hprofiles.append hlines ?_) ?_
  · intro x hp hl
    obtain ⟨p, -, rfl⟩ := List.mem_map.1 hp
    obtain ⟨l, -, h⟩ := List.mem_map.1 hl
    cases h
  · intro x hk hrest
    obtain ⟨k, -, rfl⟩ := List.mem_map.1 hk
    rcases List.mem_append.1 hrest with h | h
    · obtain ⟨p, -, h⟩ := List.mem_map.1 h
      cases h
    · obtain ⟨l, -, h⟩ := List.mem_map.1 h
      cases h

theorem mem_allSubjects (x : Subject) : x ∈ allSubjects := by
  rcases x with k | p | l
  · exact List.mem_append_left _ (List.mem_map_of_mem (List.mem_finRange k))
  · exact List.mem_append_right _ (List.mem_append_left _ (List.mem_map_of_mem (f := Sum.inr ∘ Sum.inl) (List.mem_finRange p)))
  · exact List.mem_append_right _ (List.mem_append_right _ (List.mem_map_of_mem (f := Sum.inr ∘ Sum.inr) (mem_allLines l)))

/-- The words held are those that R187 counts. -/
theorem owed_eq (s : State) : owed s = (allSubjects.map fun x => (s.desk x).words).sum := by
  rw [owed, allSubjects, List.map_append, List.map_append, List.sum_append, List.sum_append, List.map_map, List.map_map, List.map_map,
    Nat.add_assoc]
  refine congrArg₂ (· + ·) (congrArg List.sum (List.map_congr_left fun k _ => ?_))
    (congrArg₂ (· + ·) (congrArg List.sum (List.map_congr_left fun p _ => ?_)) (congrArg List.sum (List.map_congr_left fun l _ => ?_)))
  · show _ = ((s.slot k).state.desk k).words
    cases (s.slot k).state <;> rfl
  · show _ = ((s.profileSlot p).state.desk p).words
    cases (s.profileSlot p).state <;> rfl
  · show _ = (lineDesk l (s.inst l)).words
    cases s.inst l <;> rfl

/-- The sum of the words held, where one entry changes. -/
theorem sum_words_update {f g : Subject → Nat} {x : Subject} (h : ∀ y, y ≠ x → g y = f y) :
    (allSubjects.map g).sum + f x = (allSubjects.map f).sum + g x := by
  obtain ⟨front, back, hsplit⟩ := List.append_of_mem (mem_allSubjects x)
  have hnodup := nodup_allSubjects
  rw [hsplit, List.nodup_append] at hnodup
  obtain ⟨-, hback, hapart⟩ := hnodup
  have hfront : front.map g = front.map f := List.map_congr_left fun y hy => h y (hapart y hy x List.mem_cons_self)
  have hrest : back.map g = back.map f := List.map_congr_left fun y hy => h y fun e => (List.nodup_cons.1 hback).1 (e ▸ hy)
  simp only [hsplit, List.map_append, List.map_cons, List.sum_append, List.sum_cons, hfront, hrest]
  omega

/-! ## The ledger is the books -/

theorem SlotState.asks_iff (k : SlotId) (st : SlotState) :
    (st.desk k).asks = some (.formFetch k) ↔ ∃ tag r, st = .loading tag r := by
  cases st <;> simp [SlotState.desk, Desk.idle]

theorem ProfileState.asks_iff (p : ProfileId) (st : ProfileState) :
    (st.desk p).asks = some (.profileFetch p) ↔ ∃ tag r, st = .loading tag r := by
  cases st <;> simp [ProfileState.desk, Desk.idle]

theorem asks_preset_iff (l : LineId) (x : Option Inst) :
    (lineDesk l x).asks = some (.presetFetch l) ↔
      ∃ i, x = some i ∧ (i.phase = .presetting ∨ i.phase = .closing ∧ i.pendingOpen.isSome = true) := by
  cases x with
  | none => simp [lineDesk, Desk.idle]
  | some i =>
    cases hp : i.phase
    case closing => cases ho : i.pendingOpen <;> simp [lineDesk, Inst.desk, Inst.asks, hp, ho]
    all_goals simp [lineDesk, Inst.desk, Inst.asks, hp]

theorem asks_delivery_iff (l : LineId) (x : Option Inst) :
    (lineDesk l x).asks = some (.delivery l) ↔
      ∃ i, x = some i ∧ (i.phase = .delivering ∨ i.phase = .closing ∧ i.pendingOpen = none) := by
  cases x with
  | none => simp [lineDesk, Desk.idle]
  | some i =>
    cases hp : i.phase
    case closing => cases ho : i.pendingOpen <;> simp [lineDesk, Inst.desk, Inst.asks, hp, ho]
    all_goals simp [lineDesk, Inst.desk, Inst.asks, hp]

theorem waits_iff (l : LineId) (x : Option Inst) :
    (lineDesk l x).waits = true ↔ ∃ i, x = some i ∧ i.phase = .awaitBuffer := by
  cases x <;> simp [lineDesk, Inst.desk, Desk.idle]

theorem runs_iff (l : LineId) (x : Option Inst) :
    (lineDesk l x).runs = true ↔ ∃ i, x = some i ∧ i.phase = .closing := by
  cases x <;> simp [lineDesk, Inst.desk, Desk.idle]

theorem sound_iff (l : LineId) (x : Option Inst) : (lineDesk l x).sound ↔ ∀ i, x = some i → Holds i := by
  cases x <;> simp [lineDesk, Inst.desk, Desk.idle]

theorem SlotState.sound_iff (k : SlotId) (st : SlotState) : (st.desk k).sound ↔ ∀ tag r, st = .loading tag r → r = 4 := by
  cases st with
  | loading tag r =>
    refine ⟨fun h tag' r' e => ?_, fun h => h tag r rfl⟩
    cases e
    exact h
  | _ => exact ⟨fun _ _ _ e => (by cases e), fun _ => trivial⟩

theorem ProfileState.sound_iff (p : ProfileId) (st : ProfileState) : (st.desk p).sound ↔ ∀ tag r, st = .loading tag r → r = 4 := by
  cases st with
  | loading tag r =>
    refine ⟨fun h tag' r' e => ?_, fun h => h tag r rfl⟩
    cases e
    exact h
  | _ => exact ⟨fun _ _ _ e => (by cases e), fun _ => trivial⟩

theorem Ledger.of_booked {s : State} (h : Booked s) : Ledger 0 s := by
  refine ⟨h.waiting.1, fun l => (h.waiting.2 l).trans (waits_iff l _).symm, h.once, fun o => ?_, fun x hx => ?_, fun x => ?_,
    by rw [Nat.add_zero, h.reserved, owed_eq], h.room⟩
  · cases o with
    | formFetch k =>
      refine (h.forms k).trans (Iff.trans ?_ (SlotState.asks_iff k _).symm)
      exact ⟨fun ⟨tag, e⟩ => ⟨tag, 4, e⟩, fun ⟨tag, r, e⟩ => ⟨tag, h.loading.1 k tag r e ▸ e⟩⟩
    | profileFetch p =>
      refine (h.profiles p).trans (Iff.trans ?_ (ProfileState.asks_iff p _).symm)
      exact ⟨fun ⟨tag, e⟩ => ⟨tag, 4, e⟩, fun ⟨tag, r, e⟩ => ⟨tag, h.loading.2 p tag r e ▸ e⟩⟩
    | presetFetch l => exact (h.presets l).trans (asks_preset_iff l _).symm
    | delivery l => exact (h.deliveries l).trans (asks_delivery_iff l _).symm
  · rcases x with k | p | l
    · have hk : ((s.slot k).state.desk k).runs = true := hx
      cases hst : (s.slot k).state <;> simp [hst, SlotState.desk, Desk.idle] at hk
    · have hp : ((s.profileSlot p).state.desk p).runs = true := hx
      cases hst : (s.profileSlot p).state <;> simp [hst, ProfileState.desk, Desk.idle] at hp
    · obtain ⟨i, hi, hp⟩ := (runs_iff l _).1 hx
      obtain ⟨r, hr, ho⟩ := h.closing l i hi hp
      have hasked : Asked s r.owner := by simp [Asked, hr]
      rcases ho with ho | ho
      · rw [ho] at hasked
        exact ⟨_, (asks_preset_iff l _).2 ((h.presets l).1 hasked), by simp [hr, ho]⟩
      · rw [ho] at hasked
        exact ⟨_, (asks_delivery_iff l _).2 ((h.deliveries l).1 hasked), by simp [hr, ho]⟩
  · rcases x with k | p | l
    · exact (SlotState.sound_iff k _).2 fun tag r e => h.loading.1 k tag r e
    · exact (ProfileState.sound_iff p _).2 fun tag r e => h.loading.2 p tag r e
    · exact (sound_iff l _).2 fun i hi => h.instances l i hi

theorem Ledger.booked {s : State} (h : Ledger 0 s) : Booked s := by
  have hslots : ∀ k tag r, (s.slot k).state = .loading tag r → r = 4 := fun k => (SlotState.sound_iff k _).1 (h.sound (.inl k))
  have hprofiles : ∀ p tag r, (s.profileSlot p).state = .loading tag r → r = 4 := fun p =>
    (ProfileState.sound_iff p _).1 (h.sound (.inr (.inl p)))
  refine ⟨⟨h.nodup, fun l => (h.waiting l).trans (waits_iff l _)⟩, h.once, fun k => ?_, fun p => ?_,
    fun l => (h.asked (.presetFetch l)).trans (asks_preset_iff l _), fun l => (h.asked (.delivery l)).trans (asks_delivery_iff l _),
    ⟨hslots, hprofiles⟩, fun l i hi => (sound_iff l _).1 (h.sound (.inr (.inr l))) i hi, fun l i hi hp => ?_,
    by rw [h.reserved, owed_eq, Nat.add_zero], h.room⟩
  · refine (h.asked (.formFetch k)).trans ((SlotState.asks_iff k _).trans ?_)
    exact ⟨fun ⟨tag, r, e⟩ => ⟨tag, hslots k tag r e ▸ e⟩, fun ⟨tag, e⟩ => ⟨tag, 4, e⟩⟩
  · refine (h.asked (.profileFetch p)).trans ((ProfileState.asks_iff p _).trans ?_)
    exact ⟨fun ⟨tag, r, e⟩ => ⟨tag, hprofiles p tag r e ▸ e⟩, fun ⟨tag, e⟩ => ⟨tag, 4, e⟩⟩
  · obtain ⟨o, ho, hr⟩ := h.running (.inr (.inr l)) ((runs_iff l _).2 ⟨i, hi, hp⟩)
    obtain ⟨r, htransfer, rfl⟩ := Option.map_eq_some_iff.1 hr
    refine ⟨r, htransfer, ?_⟩
    have ho' : (lineDesk l (some i)).asks = some r.owner := hi ▸ ho
    simp only [lineDesk, Inst.desk, Inst.asks, hp] at ho'
    split_ifs at ho'
    · exact .inl (Option.some.inj ho').symm
    · exact .inr (Option.some.inj ho').symm

/-! ## What changes nothing in the books -/

/-- R22: in the phases in which it waits for nothing an instance holds nothing. -/
theorem Inst.desk_congr {i j : Inst} (h : SameBook i j) (l : LineId) : j.desk l = i.desk l := by
  obtain ⟨hres, hopen, hheld, hclose, hphase⟩ := h
  have hwords : j.reservation + (j.pendingClose.map PendingClose.reservation).sum =
      i.reservation + (i.pendingClose.map PendingClose.reservation).sum := by rw [hres, hclose]
  rcases hphase with hphase | ⟨hi, hj⟩
  · have hholds : Holds j = Holds i := by simp only [Holds, hphase, hres, hopen, hheld, hclose]
    simp only [Inst.desk, Inst.asks, hwords, hphase, hopen, hholds]
  · have hquiet {k : Inst} (hk : waitless k.phase) : k.asks l = none ∧ k.phase ≠ .awaitBuffer ∧ k.phase ≠ .closing ∧
        Holds k = (k.reservation = 0 ∧ k.pendingOpen = none ∧ k.heldBuffer = none ∧ k.pendingClose = []) := by
      rcases hk with e | e | e <;> simp [Inst.asks, Holds, e]
    obtain ⟨hi1, hi2, hi3, hi4⟩ := hquiet hi
    obtain ⟨hj1, hj2, hj3, hj4⟩ := hquiet hj
    simp only [Inst.desk, hi1, hj1, hi2, hj2, hi3, hj3, hi4, hj4, hres, hopen, hheld, hclose]

theorem Kept.desk {s t : State} (h : Kept True C s t) (x : Subject) : t.desk x = s.desk x := by
  rcases x with k | p | l
  · simp only [State.desk, State.slot, h.slots]
  · simp only [State.desk, State.profileSlot, h.profiles]
  · rcases (h.lines l).inst with ⟨hs, ht⟩ | ⟨i, j, hs, ht, hij⟩
    · simp only [State.desk, State.inst, hs, ht]
    · simp only [State.desk, State.inst, hs, ht, lineDesk]
      exact Inst.desk_congr (hij.book trivial) l

/-- The ledger of a state whose entries and queues are the same. -/
theorem Ledger.congr {n m : Nat} {s t : State} (h : Ledger n s) (hdesk : ∀ x, t.desk x = s.desk x) (hwaiting : t.waiting = s.waiting)
    (htransfer : t.transfer = s.transfer) (hbus : t.busQueue = s.busQueue) (hreserved : t.reserved + n = s.reserved + m)
    (hroom : t.answerQueue.length + t.reserved ≤ 256) : Ledger m t := by
  have howners : t.owners = s.owners := by rw [State.owners, State.owners, htransfer, hbus]
  refine ⟨hwaiting ▸ h.nodup, fun l => ?_, howners ▸ h.once, fun o => ?_, fun x hx => ?_, fun x => ?_, ?_, hroom⟩
  · rw [hwaiting, hdesk]
    exact h.waiting l
  · rw [howners, hdesk]
    exact h.asked o
  · rw [hdesk] at hx ⊢
    rw [htransfer]
    exact h.running x hx
  · rw [hdesk]
    exact h.sound x
  · simp only [hdesk]
    have := h.reserved
    omega

theorem Ledger.kept {n : Nat} {s t : State} (h : Ledger n s) (hk : Kept True C s t) : Ledger n t := by
  obtain ⟨hwaiting, htransfer, hbus, hreserved, hanswers⟩ := hk.queues trivial
  refine h.congr hk.desk hwaiting htransfer hbus (by rw [hreserved]) ?_
  rw [hreserved]
  have := h.room
  omega

/-- R187: a record is posted into granted words. -/
theorem Ledger.post {n k : Nat} {s : State} {r : List Word} (h : Ledger (n + k) s) (hr : r.length ≤ k) : Ledger n (s.post k r) := by
  have hsum := h.reserved
  have hroom := h.room
  refine h.congr (fun _ => rfl) rfl rfl rfl ?_ ?_
  · show s.reserved - k + (n + k) = s.reserved + n
    omega
  · show (s.answerQueue ++ r).length + (s.reserved - k) ≤ 256
    rw [List.length_append]
    omega

theorem Ledger.release {n k : Nat} {s : State} (h : Ledger (n + k) s) : Ledger n (s.release k) := by
  have hsum := h.reserved
  have hroom := h.room
  refine h.congr (fun _ => rfl) rfl rfl rfl ?_ ?_
  · show s.reserved - k + (n + k) = s.reserved + n
    omega
  · show s.answerQueue.length + (s.reserved - k) ≤ 256
    omega

/-- R188: a claim that the free room covers is granted. -/
theorem Ledger.grant {n k : Nat} {s : State} (h : Ledger n s) (c : Claimant) (hk : k ≤ s.freeRoom) : Ledger (n + k) (s.grant c k) := by
  have hfree : k ≤ 256 - (s.answerQueue.length + s.reserved) := hk
  refine h.congr (fun _ => rfl) rfl rfl rfl ?_ ?_
  · show s.reserved + k + n = s.reserved + (n + k)
    omega
  · show s.answerQueue.length + (s.reserved + k) ≤ 256
    have := h.room
    omega

theorem Ledger.replied {n : Nat} {s t : State} (h : Ledger n s) (hr : Replied C n s t) : Ledger 0 t := by
  obtain ⟨u, r, hu, hlen, ht⟩ := hr
  exact (Ledger.post (n := 0) (by rw [Nat.zero_add]; exact h.kept hu) hlen).kept ht

/-! ## What one entry of the ledger becomes -/

/-- A request belongs to the slot, profile or line that waits for it. -/
theorem asks_subject {s : State} {x : Subject} {o : Owner} (h : (s.desk x).asks = some o) : ownerSubject o = x := by
  rcases x with k | p | l
  · have hk : ((s.slot k).state.desk k).asks = some o := h
    cases hst : (s.slot k).state <;> simp only [hst, SlotState.desk, Desk.idle, Option.some.injEq, reduceCtorEq] at hk
    rw [← hk]
    rfl
  · have hp : ((s.profileSlot p).state.desk p).asks = some o := h
    cases hst : (s.profileSlot p).state <;> simp only [hst, ProfileState.desk, Desk.idle, Option.some.injEq, reduceCtorEq] at hp
    rw [← hp]
    rfl
  · have hl : (lineDesk l (s.inst l)).asks = some o := h
    cases hi : s.inst l with
    | none =>
      rw [hi] at hl
      cases hl
    | some i =>
      rw [hi] at hl
      simp only [lineDesk, Inst.desk, Inst.asks] at hl
      split at hl
      · cases hl; rfl
      · cases hl; rfl
      · split_ifs at hl
        · cases hl; rfl
        · cases hl; rfl
      · cases hl

/-- Who waits for a request does not wait for a buffer. -/
theorem asks_waits {s : State} {x : Subject} {o : Owner} (ho : (s.desk x).asks = some o)
    (hw : (s.desk x).waits = true) : False := by
  rcases x with k | p | l
  · have hk : ((s.slot k).state.desk k).waits = true := hw
    cases hst : (s.slot k).state <;> simp [hst, SlotState.desk, Desk.idle] at hk
  · have hp : ((s.profileSlot p).state.desk p).waits = true := hw
    cases hst : (s.profileSlot p).state <;> simp [hst, ProfileState.desk, Desk.idle] at hp
  · obtain ⟨i, hi, hp⟩ := (waits_iff l _).1 hw
    have hl : (lineDesk l (s.inst l)).asks = some o := ho
    rw [hi] at hl
    simp only [lineDesk, Inst.desk, Inst.asks, hp, reduceCtorEq] at hl

/-- One entry changes, and the queues with it. -/
theorem Ledger.update {n m : Nat} {s t : State} {x : Subject} (h : Ledger n s) (hdesk : ∀ y, y ≠ x → t.desk y = s.desk y)
    (hothers : ∀ o, ownerSubject o ≠ x → (o ∈ t.owners ↔ o ∈ s.owners)) (honce : t.owners.Nodup)
    (hasked : ∀ o, ownerSubject o = x → (o ∈ t.owners ↔ (t.desk x).asks = some o)) (hnodup : t.waiting.Nodup)
    (hwaiting : ∀ l, .inr (.inr l) ≠ x → (l ∈ t.waiting ↔ l ∈ s.waiting))
    (hwaits : ∀ l, .inr (.inr l) = x → (l ∈ t.waiting ↔ (t.desk x).waits = true))
    (hrunning : ∀ o, ownerSubject o ≠ x → s.transfer.map Request.owner = some o → t.transfer.map Request.owner = some o)
    (hruns : (t.desk x).runs = true → ∃ o, (t.desk x).asks = some o ∧ t.transfer.map Request.owner = some o)
    (hsound : (t.desk x).sound) (hwords : t.reserved + (s.desk x).words + n = s.reserved + (t.desk x).words + m)
    (hroom : t.answerQueue.length + t.reserved ≤ 256) : Ledger m t := by
  refine ⟨hnodup, fun l => ?_, honce, fun o => ?_, fun y hy => ?_, fun y => ?_, ?_, hroom⟩
  · by_cases hl : .inr (.inr l) = x
    · rw [hl]
      exact hwaits l hl
    · rw [hdesk _ hl]
      exact (hwaiting l hl).trans (h.waiting l)
  · by_cases ho : ownerSubject o = x
    · rw [ho]
      exact hasked o ho
    · rw [hdesk _ ho]
      exact (hothers o ho).trans (h.asked o)
  · by_cases hyx : y = x
    · subst hyx
      exact hruns hy
    · rw [hdesk y hyx] at hy ⊢
      obtain ⟨o, ho, hr⟩ := h.running y hy
      exact ⟨o, ho, hrunning o (asks_subject ho ▸ hyx) hr⟩
  · by_cases hyx : y = x
    · subst hyx
      exact hsound
    · rw [hdesk y hyx]
      exact h.sound y
  · have hsum := sum_words_update (f := fun y => (s.desk y).words) (g := fun y => (t.desk y).words) (x := x) fun y hy => by
      rw [hdesk y hy]
    have := h.reserved
    omega

/-- Nothing is held and waited for any longer: the request is gone, and the place in the waiting-lines queue. -/
theorem Ledger.toIdle {n m : Nat} {s t : State} {x : Subject} (h : Ledger n s) (hdesk : ∀ y, y ≠ x → t.desk y = s.desk y)
    (hidle : t.desk x = .idle) (hsub : t.owners.Sublist s.owners) (hothers : ∀ o ∈ s.owners, ownerSubject o ≠ x → o ∈ t.owners)
    (hgone : ∀ o ∈ t.owners, ownerSubject o ≠ x) (hwsub : t.waiting.Sublist s.waiting)
    (hwothers : ∀ l ∈ s.waiting, .inr (.inr l) ≠ x → l ∈ t.waiting) (hwgone : ∀ l ∈ t.waiting, .inr (.inr l) ≠ x)
    (hrunning : ∀ o, ownerSubject o ≠ x → s.transfer.map Request.owner = some o → t.transfer.map Request.owner = some o)
    (hwords : t.reserved + (s.desk x).words + n = s.reserved + m) (hroom : t.answerQueue.length + t.reserved ≤ 256) : Ledger m t := by
  refine h.update hdesk (fun o ho => ⟨fun hm => hsub.subset hm, fun hm => hothers o hm ho⟩) (hsub.nodup h.once)
    (fun o ho => ⟨fun hm => absurd ho (hgone o hm), fun e => ?_⟩) (hwsub.nodup h.nodup)
    (fun l hl => ⟨fun hm => hwsub.subset hm, fun hm => hwothers l hm hl⟩) (fun l hl => ⟨fun hm => absurd hl (hwgone l hm), fun e => ?_⟩)
    hrunning (fun e => ?_) ?_ ?_ hroom
  · rw [hidle] at e
    cases e
  · rw [hidle] at e
    cases e
  · rw [hidle] at e
    cases e
  · rw [hidle]
    trivial
  · rw [hidle]
    exact hwords

/-- A request is placed. -/
theorem Ledger.place {n m : Nat} {s t : State} {r : Request} (h : Ledger n s)
    (hdesk : ∀ y, y ≠ ownerSubject r.owner → t.desk y = s.desk y) (hidle : s.desk (ownerSubject r.owner) = .idle)
    (hasks : (t.desk (ownerSubject r.owner)).asks = some r.owner) (hwaits : (t.desk (ownerSubject r.owner)).waits = false)
    (hruns : (t.desk (ownerSubject r.owner)).runs = false) (hsound : (t.desk (ownerSubject r.owner)).sound)
    (hbus : t.busQueue = s.busQueue ++ [r]) (htransfer : t.transfer = s.transfer) (hwaiting : t.waiting = s.waiting)
    (hwords : t.reserved + n = s.reserved + (t.desk (ownerSubject r.owner)).words + m)
    (hroom : t.answerQueue.length + t.reserved ≤ 256) : Ledger m t := by
  have howners : t.owners = s.owners ++ [r.owner] := by simp [State.owners, htransfer, hbus]
  have hnew : ∀ o ∈ s.owners, ownerSubject o ≠ ownerSubject r.owner := fun o ho e => by
    have := (h.asked o).1 ho
    rw [e, hidle] at this
    cases this
  refine h.update hdesk (fun o ho => ?_) ?_ (fun o ho => ?_) (hwaiting ▸ h.nodup) (fun l _ => by rw [hwaiting]) (fun l hl => ?_)
    (fun o _ hr => by rwa [htransfer]) (fun e => ?_) hsound ?_ hroom
  · rw [howners, List.mem_append, List.mem_singleton]
    exact ⟨fun hm => hm.resolve_right fun e => ho (e ▸ rfl), .inl⟩
  · rw [howners]
    refine List.nodup_append.2 ⟨h.once, List.nodup_singleton _, fun o ho o' ho' e => hnew o ho ?_⟩
    rw [e, List.mem_singleton.1 ho']
  · rw [howners, List.mem_append, List.mem_singleton, hasks]
    exact ⟨fun hm => by rw [hm.resolve_left fun hm => hnew o hm ho], fun e => .inr (Option.some.inj e).symm⟩
  · rw [hwaits, hwaiting, h.waiting, hl, hidle]
    rfl
  · rw [hruns] at e
    cases e
  · rw [hidle]
    exact hwords

/-- R172: the end of a transfer in progress, on which its owner has acted. -/
theorem Ledger.ended {n m : Nat} {s t : State} {r : Request} (h : Ledger n s) (hr : s.transfer = some r)
    (hdesk : ∀ y, y ≠ ownerSubject r.owner → t.desk y = s.desk y) (hidle : t.desk (ownerSubject r.owner) = .idle)
    (htransfer : t.transfer = none) (hbus : t.busQueue.Sublist s.busQueue)
    (hall : ∀ q ∈ s.busQueue, ownerSubject q.owner ≠ ownerSubject r.owner → q ∈ t.busQueue)
    (hwsub : t.waiting.Sublist s.waiting)
    (hwothers : ∀ l ∈ s.waiting, .inr (.inr l) ≠ ownerSubject r.owner → l ∈ t.waiting)
    (hwords : t.reserved + (s.desk (ownerSubject r.owner)).words + n = s.reserved + m)
    (hroom : t.answerQueue.length + t.reserved ≤ 256) : Ledger m t := by
  have hs : s.owners = r.owner :: s.busQueue.map Request.owner := by simp [State.owners, hr]
  have ht : t.owners = t.busQueue.map Request.owner := by simp [State.owners, htransfer]
  have honce := h.once
  rw [hs, List.nodup_cons] at honce
  have hasks : (s.desk (ownerSubject r.owner)).asks = some r.owner := (h.asked r.owner).1 (hs ▸ List.mem_cons_self)
  have hgone : ∀ o ∈ s.busQueue.map Request.owner, ownerSubject o ≠ ownerSubject r.owner := fun o ho e => by
    have hboth := (h.asked o).1 (hs ▸ List.mem_cons_of_mem _ ho)
    rw [e, hasks] at hboth
    exact honce.1 (Option.some.inj hboth ▸ ho)
  have hnowait : ∀ l ∈ s.waiting, .inr (.inr l) ≠ ownerSubject r.owner := fun l hl e => by
    have hwaits := (h.waiting l).1 hl
    rw [e] at hwaits
    exact asks_waits hasks hwaits
  refine h.toIdle hdesk hidle ?_ (fun o ho hne => ?_) (fun o ho => ?_) hwsub hwothers (fun l hl => hnowait l (hwsub.subset hl))
    (fun o hne ho => ?_) hwords hroom
  · rw [hs, ht]
    exact (hbus.map _).cons _
  · rw [hs] at ho
    rcases List.mem_cons.1 ho with rfl | ho
    · exact absurd rfl hne
    · obtain ⟨q, hq, rfl⟩ := List.mem_map.1 ho
      rw [ht]
      exact List.mem_map_of_mem (hall q hq hne)
  · rw [ht] at ho
    exact hgone o ((hbus.map _).subset ho)
  · rw [hr] at ho
    exact absurd (congrArg ownerSubject (Option.some.inj ho)).symm hne

end Sys2Proof.Machine
end

section
/-! PROOFS. The books, row by row: the commands, each of which uses the words granted to it for its answer, or leaves them with the slot,
profile or instance that will answer (R127, R168, R186, R187). -/

namespace Sys2Proof.Machine

open Sys2Proof.Safety

-- The proofs of the whole text share one memory limit, and each thread takes its part of it.
set_option Elab.async false

variable {C : Prop}

/-! ## Entries -/

/-- The ledger after a change of one line. -/
theorem State.desk_setLine {s t : State} {l : LineId} {x : Line} (hlines : t.lines = s.lines)
    (hslots : ∀ k, (t.slot k).state = (s.slot k).state) (hprofiles : ∀ p, (t.profileSlot p).state = (s.profileSlot p).state)
    (y : Subject) : (t.setLine l x).desk y = if y = .inr (.inr l) then lineDesk l x.inst else s.desk y := by
  rcases y with k | p | m
  · rw [if_neg (by simp)]
    exact congrArg (SlotState.desk k) (hslots k)
  · rw [if_neg (by simp)]
    exact congrArg (ProfileState.desk p) (hprofiles p)
  · show lineDesk m ((t.setLine l x).inst m) = _
    rw [State.inst_setLine hlines]
    by_cases hm : m = l
    · subst hm
      simp
    · rw [if_neg hm, if_neg (by simpa using hm)]
      rfl

/-- The ledger after a change of one slot. -/
theorem State.desk_setSlot (s : State) (k : SlotId) (v : Slot) (y : Subject) :
    (s.setSlot k v).desk y = if y = .inl k then v.state.desk k else s.desk y := by
  rcases y with j | p | m
  · by_cases hj : j = k
    · subst hj
      rw [if_pos rfl]
      show ((s.setSlot j v).slot j).state.desk j = _
      rw [State.setSlot_slot_self]
    · rw [if_neg (by simpa using hj)]
      show ((s.setSlot k v).slot j).state.desk j = _
      rw [State.setSlot_slot_of_ne _ _ hj]
      rfl
  · rw [if_neg (by simp)]
    rfl
  · rw [if_neg (by simp)]
    rfl

/-- The ledger after a change of one profile. -/
theorem State.desk_setProfile (s : State) (p : ProfileId) (v : ProfileSlot) (y : Subject) :
    (s.setProfile p v).desk y = if y = .inr (.inl p) then v.state.desk p else s.desk y := by
  rcases y with k | q | m
  · rw [if_neg (by simp)]
    rfl
  · by_cases hq : q = p
    · subst hq
      rw [if_pos rfl]
      show ((s.setProfile q v).profileSlot q).state.desk q = _
      rw [State.setProfile_profileSlot_self]
    · rw [if_neg (by simpa using hq)]
      show ((s.setProfile p v).profileSlot q).state.desk q = _
      rw [State.setProfile_profileSlot_of_ne _ _ hq]
      rfl
  · rw [if_neg (by simp)]
    rfl

theorem Slot.desk_of_not_loading {v : Slot} (h : v.isLoading = false) (k : SlotId) : v.state.desk k = .idle := by
  cases hst : v.state with
  | loading tag r => simp [Slot.isLoading, hst] at h
  | _ => rfl

theorem ProfileSlot.desk_of_not_loading {v : ProfileSlot} (h : v.isLoading = false) (p : ProfileId) : v.state.desk p = .idle := by
  cases hst : v.state with
  | loading tag r => simp [ProfileSlot.isLoading, hst] at h
  | ready r => rfl

/-- R22: an instance that waits for nothing holds nothing. -/
theorem Inst.desk_of_waitless {i : Inst} (h : Holds i) (hp : waitless i.phase) (l : LineId) : i.desk l = .idle := by
  have hholds : i.reservation = 0 ∧ i.pendingOpen = none ∧ i.heldBuffer = none ∧ i.pendingClose = [] := by
    rcases hp with e | e | e <;> simpa [Holds, e] using h
  have hsound : Holds i = True := eq_true h
  obtain ⟨hres, hopen, hheld, hclose⟩ := hholds
  rcases hp with e | e | e <;> simp [Inst.desk, Inst.asks, Desk.idle, e, hres, hclose, hsound]

/-- What the instance of a line holds. -/
theorem Ledger.holds {n : Nat} {s : State} (h : Ledger n s) {l : LineId} {i : Inst} (hi : s.inst l = some i) : Holds i :=
  (sound_iff l _).1 (h.sound (.inr (.inr l))) i hi

theorem State.desk_line {s : State} {l : LineId} {i : Inst} (hi : s.inst l = some i) : s.desk (.inr (.inr l)) = i.desk l := by
  simp only [State.desk, hi, lineDesk]

/-- The words held are among those reserved. -/
theorem Ledger.words_le {n : Nat} {s : State} (h : Ledger n s) (x : Subject) : (s.desk x).words + n ≤ s.reserved := by
  have hle : (s.desk x).words ≤ (allSubjects.map fun y => (s.desk y).words).sum :=
    List.single_le_sum (by simp) _ (List.mem_map_of_mem (mem_allSubjects x))
  rw [h.reserved]
  exact Nat.add_le_add_right hle n

/-! ## Taking a command -/

/-- R189: the words of the command that is granted next fit the free room. -/
theorem State.grantedCommand_room {s : State} {c : Command} (h : s.grantedCommand = some c) : c.code.reservation ≤ s.freeRoom := by
  unfold State.grantedCommand at h
  split at h
  next words hnext =>
    unfold State.headCommand at h
    split at h
    next code _ t rest hassembler _ =>
      cases h
      unfold State.nextGrant at hnext
      split at hnext
      · cases hnext
      next w _ =>
        split at hnext
        · cases hnext
        next n hclaim =>
          split_ifs at hnext with hroom
          cases hnext
          simp only [State.claimOf, hassembler, Option.some.injEq] at hclaim
          exact (Nat.le_of_eq hclaim).trans hroom
    · cases h
  · cases h

theorem Ledger.beginTaking {s : State} (h : Ledger 0 s) {c : Command} (hc : s.grantedCommand = some c) :
    Ledger c.code.reservation (s.beginTaking c) := by
  have hgrant : Ledger c.code.reservation (s.grant .commandUnit c.code.reservation) := by
    rw [← Nat.zero_add c.code.reservation]
    simpa using h.grant .commandUnit (State.grantedCommand_room hc)
  exact hgrant.congr (fun _ => rfl) rfl rfl rfl rfl hgrant.room

/-- R186: the taking of a command that accounts for the words granted to it. -/
theorem Ledger.taken {s : State} (h : Ledger 0 s) (hs : Stands WholeOn s) {accepts : Command → Bool} {act : Command → State → State}
    (hact : ∀ c t, accepts c = true → Stands WholeOn t → Ledger c.code.reservation t → Ledger 0 (act c t)) :
    Ledger 0 (s.takeCommand accepts act) := by
  rcases s.takeCommand_cases accepts act with e | ⟨c, hc, ha, e⟩
  · rwa [e]
  · rw [e]
    exact (hact c _ ha (rowClosed_recordsWhole.kept _ _ (Kept.beginTaking s c) hs) (h.beginTaking hc)).kept (C := True) (Kept.assemble _)

/-- R28: an instance command that accounts for the words granted to it. -/
theorem Ledger.named {s : State} {c : Command} (h : Ledger c.code.reservation s) {act : LineId → Inst → State → State}
    (hact : ∀ l i, s.inst l = some i → phaseCheck c.code i = none → Ledger 0 (act l i s)) : Ledger 0 (s.onInst c act) := by
  rcases s.onInst_cases c act with ⟨st, -, e⟩ | ⟨l, i, hcheck, hi, e⟩
  · rw [e]
    exact h.replied (C := True) (Replied.refusal s c st)
  · rw [e]
    exact (hact l i hi (State.instCheck_phase hcheck)).kept (C := True) (Kept.settle _ l)

/-- R187: a result is posted into the words of its command. -/
theorem Ledger.reply {s : State} {c : Command} (h : Ledger c.code.reservation s) (st : Status) {data : List Word}
    (hdata : data.length + 2 ≤ c.code.reservation) : Ledger 0 (s.reply c st data) :=
  h.replied (C := True) (Replied.reply s c st hdata)

theorem Ledger.refusal {s : State} {c : Command} (h : Ledger c.code.reservation s) (st : Status) : Ledger 0 (s.reply c st []) :=
  h.replied (C := True) (Replied.refusal s c st)

/-! ## The form library and the profile store -/

theorem Ledger.loadForm {s : State} {c : Command} (hc : c.code = .loadForm) (h : Ledger c.code.reservation s) :
    Ledger 0 (loadForm c s) := by
  unfold Machine.loadForm
  split
  · exact h.refusal _
  next k _ =>
    dsimp only
    split
    · exact h.refusal _
    next hchecks =>
      have hfree := (firstOf_eq_none_iff _).1 hchecks ((s.slot k).isLoading, .slotBusy) (by simp)
      have hdesk := State.desk_setSlot s k ⟨.loading c.tag c.code.reservation, 0⟩
      have hnew := (hdesk (.inl k)).trans (if_pos rfl)
      rw [hc] at h hnew hdesk ⊢
      refine h.place (r := ⟨.formFetch k, _, _⟩) (fun y hy => (hdesk y).trans (if_neg hy)) (Slot.desk_of_not_loading hfree k)
        (congrArg Desk.asks hnew) (congrArg Desk.waits hnew) (congrArg Desk.runs hnew) ?_ rfl rfl rfl ?_ h.room
      · exact (congrArg Desk.sound hnew).mpr rfl
      · exact congrArg (fun w => s.reserved + w) (congrArg Desk.words hnew).symm

theorem Ledger.setProfile {s : State} {c : Command} (hc : c.code = .setProfile) (h : Ledger c.code.reservation s) :
    Ledger 0 (setProfile c s) := by
  unfold Machine.setProfile
  split
  · exact h.refusal _
  next p _ =>
    dsimp only
    split
    · exact h.refusal _
    next hchecks =>
      have hfree := (firstOf_eq_none_iff _).1 hchecks ((s.profileSlot p).isLoading, .profileBusy) (by simp)
      have hdesk := State.desk_setProfile s p { s.profileSlot p with state := .loading c.tag c.code.reservation }
      have hnew := (hdesk (.inr (.inl p))).trans (if_pos rfl)
      rw [hc] at h hnew hdesk ⊢
      refine h.place (r := ⟨.profileFetch p, _, _⟩) (fun y hy => (hdesk y).trans (if_neg hy)) (ProfileSlot.desk_of_not_loading hfree p)
        (congrArg Desk.asks hnew) (congrArg Desk.waits hnew) (congrArg Desk.runs hnew) ?_ rfl rfl rfl ?_ h.room
      · exact (congrArg Desk.sound hnew).mpr rfl
      · exact congrArg (fun w => s.reserved + w) (congrArg Desk.words hnew).symm

theorem Ledger.discardForm {s : State} {c : Command} (h : Ledger c.code.reservation s) : Ledger 0 (discardForm c s) := by
  unfold Machine.discardForm
  split
  · exact h.refusal _
  next k _ =>
    split
    · exact h.refusal _
    next hchecks =>
      have hfree := (firstOf_eq_none_iff _).1 hchecks ((s.slot k).isLoading, .slotBusy) (by simp)
      refine Ledger.refusal ?_ .ok
      refine h.congr (fun y => (State.desk_setSlot s k ⟨.empty, 0⟩ y).trans ?_) rfl rfl rfl rfl h.room
      split_ifs with hy
      · rw [hy]
        exact (Slot.desk_of_not_loading hfree k).symm
      · rfl

/-- R195: the figures of a slot. -/
theorem Slot.length_figures {v : Slot} (h : ∀ d, v.state = .ready d → FormSound d) : v.figures.length = 6 := by
  unfold Slot.figures
  split
  next d hd => simp [length_wordsOfBytes, (h d hd).name]
  · rfl

theorem Ledger.queryForm {s : State} {c : Command} (hc : c.code = .queryForm) (hs : Stands WholeOn s)
    (h : Ledger c.code.reservation s) : Ledger 0 (queryForm c s) := by
  unfold Machine.queryForm
  split
  · exact h.refusal _
  next k _ =>
    refine h.reply _ ?_
    rw [Slot.length_figures (hs.sound k), hc]
    exact Nat.le_refl 8

/-! ## The lines -/

/-- A change of a line that leaves its instance. -/
theorem Ledger.modLine {n : Nat} {s t : State} (h : Ledger n s) {l : LineId} {f : Line → Line}
    (hline : (f (s.line l)).inst = (s.line l).inst) (hlines : t.lines = s.lines) (hslots : ∀ k, (t.slot k).state = (s.slot k).state)
    (hprofiles : ∀ p, (t.profileSlot p).state = (s.profileSlot p).state) (hqueues : SameQueues s t) :
    Ledger n (t.setLine l (f (s.line l))) := by
  obtain ⟨hwaiting, htransfer, hbus, hreserved, hanswers⟩ := hqueues
  refine h.congr (fun y => (State.desk_setLine hlines hslots hprofiles y).trans ?_) hwaiting htransfer hbus ?_ ?_
  · split_ifs with hy
    · rw [hy, hline]
      rfl
    · rfl
  · rw [show (t.setLine l (f (s.line l))).reserved = t.reserved from rfl, hreserved]
  · have := h.room
    show t.answerQueue.length + t.reserved ≤ 256
    rw [hreserved]
    omega

theorem Ledger.configureLine {s : State} {c : Command} (h : Ledger c.code.reservation s) : Ledger 0 (configureLine c s) := by
  unfold Machine.configureLine
  split
  · exact h.refusal _
  · split_ifs
    · exact h.refusal _
    · split
      · exact h.refusal _
      next cfg _ =>
        exact Ledger.refusal (h.modLine (t := s) (f := fun x => { x with config := cfg }) rfl rfl (fun _ => rfl) (fun _ => rfl)
          (SameQueues.refl s)) .ok

/-- R148: a user more or less leaves the state of a profile. -/
theorem State.countUser_state (s : State) (p q : ProfileId) (f : Nat → Nat) :
    ((s.countUser p f).profileSlot q).state = (s.profileSlot q).state := by
  by_cases hq : q = p
  · subst hq
    rw [State.countUser, State.setProfile_profileSlot_self]
  · rw [State.countUser, State.setProfile_profileSlot_of_ne _ _ hq]

theorem Ledger.enableLine {s : State} {c : Command} (h : Ledger c.code.reservation s) : Ledger 0 (enableLine c s) := by
  unfold Machine.enableLine
  split
  · exact h.refusal _
  next l _ =>
    split_ifs
    · exact h.refusal _
    · exact h.refusal _
    · exact Ledger.refusal (h.modLine (t := s.countUser (s.line l).config.profile (· + 1)) (f := Line.enabled) rfl rfl (fun _ => rfl)
        (fun q => s.countUser_state _ q _) ⟨rfl, rfl, rfl, rfl, Nat.le_refl _⟩) .ok

theorem Ledger.disableLine {s : State} {c : Command} (h : Ledger c.code.reservation s) : Ledger 0 (disableLine c s) := by
  unfold Machine.disableLine
  split
  · exact h.refusal _
  next l _ =>
    split_ifs
    · exact h.refusal _
    · exact h.refusal _
    · refine Ledger.refusal (Ledger.kept (C := True) ?_ (Kept.discardDisplay _ l)) .ok
      exact h.modLine (t := s.countUser (s.line l).config.profile (· - 1)) (f := Line.disabled) rfl rfl (fun _ => rfl)
        (fun q => s.countUser_state _ q _) ⟨rfl, rfl, rfl, rfl, Nat.le_refl _⟩

theorem Ledger.readField {s : State} {c : Command} (hc : c.code = .readField) (hs : Stands WholeOn s)
    (h : Ledger c.code.reservation s) : Ledger 0 (readField c s) := by
  refine h.named fun l i hi _ => ?_
  dsimp only
  split_ifs with hfield
  · exact h.refusal _
  · refine h.reply _ ?_
    have hlt : c.fieldWord < (s.form i).fields.length := Nat.lt_of_not_le hfield
    obtain ⟨⟨hlen, hvalues⟩, -⟩ := hs.inst l i hi
    have hmem : (s.form i).field c.fieldWord ∈ (s.form i).fields := by
      rw [show (s.form i).field c.fieldWord = (s.form i).fields[c.fieldWord] from List.getD_eq_getElem _ _ hlt]
      exact List.getElem_mem hlt
    obtain ⟨-, -, -, hle, -⟩ := (hs.form_sound hi).field _ hmem
    have hvalue := hvalues c.fieldWord (hlen ▸ hlt)
    rw [List.length_cons, length_wordsOfBytes, State.value_length, State.instOf_of_inst hi, hc]
    show ((i.field c.fieldWord).valueLength + 1) / 2 + 1 + 2 ≤ 43
    omega

/-! ## Opening, retiring and closing -/

/-- The ledger after an operation on the instance of a line. -/
theorem State.desk_modInst {s : State} {l : LineId} {i : Inst} (hi : s.inst l = some i) (f : Inst → Inst) (y : Subject) :
    (s.modInst l f).desk y = if y = .inr (.inr l) then (f i).desk l else s.desk y := by
  have hline : (s.line l).inst = some i := hi
  rw [State.modInst_eq, State.desk_setLine rfl (fun _ => rfl) (fun _ => rfl), hline]
  rfl

theorem State.desk_open {s : State} {l : LineId} {k : SlotId} {d : FormDef} (hd : (s.slot k).state = .ready d) (base : Nat)
    (free : List Extent) (phase : Phase) (y : Subject) :
    (s.open_ l k base free phase).desk y =
      if y = .inr (.inr l) then (openedRecord d k s.takenSerial base phase).desk l else s.desk y := by
  rw [State.open_eq hd]
  refine State.desk_setLine (s := s) ?_ ?_ ?_ y
  · rfl
  · exact fun j => State.setSlot_count_state rfl k j _
  · exact fun _ => rfl

theorem State.open_queues {s : State} {l : LineId} {k : SlotId} {d : FormDef} (hd : (s.slot k).state = .ready d) (base : Nat)
    (free : List Extent) (phase : Phase) : SameQueues s (s.open_ l k base free phase) := by
  rw [State.open_eq hd]
  exact ⟨rfl, rfl, rfl, rfl, Nat.le_refl _⟩

/-- The instance just opened stands. -/
theorem State.open_inst {s : State} {l : LineId} {k : SlotId} {d : FormDef} (hd : (s.slot k).state = .ready d) (base : Nat)
    (free : List Extent) (phase : Phase) :
    (s.open_ l k base free phase).inst l = some (openedRecord d k s.takenSerial base phase) := by
  rw [State.open_eq hd, State.inst, State.setLine_line_self]
  rfl

theorem State.modInst_queues (s : State) (l : LineId) (f : Inst → Inst) : SameQueues s (s.modInst l f) := by
  rw [State.modInst_eq]
  exact ⟨rfl, rfl, rfl, rfl, Nat.le_refl _⟩

/-- R31 to R33: the instance opened holds nothing, or the words of its OPEN FORM while its preset is fetched. -/
theorem Ledger.opened {s : State} {c : Command} {l : LineId} {k : SlotId} {d : FormDef} (h : Ledger c.code.reservation s)
    (hc : c.code = .openForm) (hnone : s.inst l = none) (hd : (s.slot k).state = .ready d) (base : Nat) (free : List Extent)
    (address length : Nat) :
    Ledger 0 ((s.open_ l k base free (if length = 0 then .painting else .presetting)).beginOpen c l address length) := by
  have hidle : s.desk (.inr (.inr l)) = .idle := by simp only [State.desk, hnone, lineDesk]
  unfold State.beginOpen
  split_ifs with hlength
  · obtain ⟨hwaiting, htransfer, hbus, hreserved, hanswers⟩ := State.open_queues (l := l) hd base free .painting
    have hopened : Ledger c.code.reservation (s.open_ l k base free .painting) := by
      refine h.congr (fun y => (State.desk_open hd base free .painting y).trans ?_) hwaiting htransfer hbus (by rw [hreserved]) ?_
      · split_ifs with hy
        · rw [hy, hidle]
          exact Inst.desk_of_waitless (i := openedRecord d k s.takenSerial base .painting) ⟨rfl, rfl, rfl, rfl⟩ (.inl rfl) l
        · rfl
      · rw [hreserved]
        have := h.room
        omega
    exact (hopened.kept (C := True) (Kept.fullRepaint _ l)).reply .ok (by rw [hc]; exact (by decide : 3 ≤ 4))
  · have hqueues := (State.open_queues (l := l) hd base free .presetting).trans (State.modInst_queues _ l
      (fun i => { i with reservation := c.code.reservation, pendingOpen := some c.tag }))
    have hdesk (y : Subject) := State.desk_modInst (State.open_inst (l := l) hd base free .presetting)
      (fun i => { i with reservation := c.code.reservation, pendingOpen := some c.tag }) y
    rw [hc] at h hdesk hqueues ⊢
    generalize (s.open_ l k base free .presetting).modInst l _ = u at hdesk hqueues
    obtain ⟨hwaiting, htransfer, hbus, hreserved, hanswers⟩ := hqueues
    have hnew := (hdesk (.inr (.inr l))).trans (if_pos rfl)
    refine h.place (t := u.placeRequest ⟨.presetFetch l, _, _⟩) (r := ⟨.presetFetch l, _, _⟩)
      (fun y hy => ((hdesk y).trans (if_neg hy)).trans ((State.desk_open hd base free .presetting y).trans (if_neg hy))) hidle
      (congrArg Desk.asks hnew) (congrArg Desk.waits hnew) (congrArg Desk.runs hnew)
      ((congrArg Desk.sound hnew).mpr ⟨rfl, rfl, rfl, rfl⟩) (congrArg (· ++ _) hbus) htransfer hwaiting ?_ ?_
    · have hwords : (u.desk (.inr (.inr l))).words = 4 := congrArg Desk.words hnew
      show u.reserved + 4 = s.reserved + (u.desk (.inr (.inr l))).words + 0
      omega
    · have := h.room
      show u.answerQueue.length + u.reserved ≤ 256
      omega

theorem Ledger.openForm {s : State} {c : Command} (hc : c.code = .openForm) (h : Ledger c.code.reservation s) :
    Ledger 0 (openForm c s) := by
  unfold Machine.openForm
  dsimp only
  split
  · exact h.refusal _
  next l _ =>
    by_cases hon : (!(s.line l).on) = true
    · rw [if_pos hon]
      exact h.refusal _
    rw [if_neg hon]
    by_cases hi : (s.inst l).isSome = true
    · rw [if_pos hi]
      exact h.refusal _
    · rw [if_neg hi]
      split
      · exact h.refusal _
      next k _ =>
        split
        · exact h.refusal _
        next hchecks =>
          split
          · exact h.refusal _
          next base free _ =>
            have hchecks := (firstOf_eq_none_iff _).1 hchecks
            obtain ⟨d, hd⟩ := Slot.ready_of_checks (hchecks ((s.slot k).isEmpty, .slotEmpty) List.mem_cons_self)
              (hchecks ((s.slot k).isLoading, .slotBusy) (List.mem_cons_of_mem _ List.mem_cons_self))
            exact (h.opened hc (by simpa using hi) hd base free _ _).kept (C := True) (Kept.settle _ l)

/-- A retired instance gives back what it holds, its place in the waiting-lines queue and its request. -/
theorem Ledger.retiring {n m : Nat} {s : State} {l : LineId} {i : Inst} {x : Line} {w : Nat} {q : List Word} (h : Ledger n s)
    (hi : s.inst l = some i) (hx : x.inst = none) (hfree : ∀ r, s.transfer = some r → ownerSubject r.owner ≠ .inr (.inr l))
    (hwords : w + (i.desk l).words + n = s.reserved + m) (hroom : q.length + w ≤ 256) :
    Ledger m (State.setLine { retired s l i with reserved := w, answerQueue := q } l x) := by
  have hdesk (y : Subject) := State.desk_setLine (s := s) (t := { retired s l i with reserved := w, answerQueue := q }) (l := l) (x := x)
    rfl (fun j => State.setSlot_count_state (s := s) rfl i.slot j _) (fun _ => rfl) y
  have howner (o : Owner) : (o != .presetFetch l && o != .delivery l) = true ↔ ownerSubject o ≠ .inr (.inr l) := by
    cases o <;> simp [ownerSubject]
  have hbus (r : Request) (hr : r ∈ s.busQueue.filter fun r => r.owner != .presetFetch l && r.owner != .delivery l) :
      ownerSubject r.owner ≠ .inr (.inr l) := (howner r.owner).1 (List.mem_filter.1 hr).2
  refine h.toIdle (x := .inr (.inr l)) (fun y hy => (hdesk y).trans (if_neg hy)) ?_ ?_ (fun o ho hne => ?_) (fun o ho => ?_)
    List.filter_sublist (fun m hm hne => ?_) (fun m hm e => ?_) (fun o _ ho => ho) ?_ hroom
  · refine (hdesk _).trans ((if_pos rfl).trans ?_)
    rw [hx]
    rfl
  · exact (List.Sublist.append (List.Sublist.refl _) List.filter_sublist).map _
  · obtain ⟨r, hr, rfl⟩ := List.mem_map.1 ho
    refine List.mem_map_of_mem (List.mem_append.2 ((List.mem_append.1 hr).imp id fun hr => ?_))
    exact List.mem_filter.2 ⟨hr, (howner r.owner).2 hne⟩
  · obtain ⟨r, hr, rfl⟩ := List.mem_map.1 ho
    rcases List.mem_append.1 hr with hr | hr
    · exact hfree r (Option.mem_toList.1 hr)
    · exact hbus r hr
  · refine List.mem_filter.2 ⟨hm, ?_⟩
    have hml : m ≠ l := fun e => hne (e ▸ rfl)
    simpa using hml
  · have hml : m = l := Sum.inr.inj (Sum.inr.inj e)
    have hmem := (List.mem_filter.1 hm).2
    rw [hml] at hmem
    simp at hmem
  · rw [State.desk_line hi]
    exact hwords

/-- The transfer in progress belongs to nobody who waits for none, or whose request is still queued. -/
theorem Ledger.free {n : Nat} {s : State} {l : LineId} {i : Inst} (h : Ledger n s) (hi : s.inst l = some i)
    (hasks : ∀ o, i.asks l = some o → s.inProgress o = false) :
    ∀ r, s.transfer = some r → ownerSubject r.owner ≠ .inr (.inr l) := by
  intro r hr e
  have hmem : r.owner ∈ s.owners := by simp [State.owners, hr]
  have ho : i.asks l = some r.owner := by
    have := (h.asked r.owner).1 hmem
    rwa [e, State.desk_line hi] at this
  exact absurd ((s.inProgress_iff r.owner).2 ⟨r, hr, rfl⟩) (by simp [hasks r.owner ho])

/-- R39: an instance that is retired at once, with the result of its close. -/
theorem Ledger.closeNow {n : Nat} {s : State} {l : LineId} {i : Inst} {k : Closer} {data : List Word}
    (h : Ledger (n + k.reservation) s) (hi : s.inst l = some i) (hclose : i.pendingClose = [])
    (hasks : ∀ o, i.asks l = some o → s.inProgress o = false) (hdata : data.length + 2 ≤ k.reservation) :
    Ledger n (s.closeNow l k data) := by
  rw [State.closeNow_eq hi]
  have hle := h.words_le (.inr (.inr l))
  have hroom := h.room
  have hwords : (i.desk l).words = i.reservation := by simp [Inst.desk, hclose]
  rw [State.desk_line hi, hwords] at hle
  refine h.retiring hi rfl (h.free hi hasks) ?_ ?_
  · rw [hwords]
    omega
  · rw [List.length_append, show (result k.tag 0 data).length = data.length + 2 from rfl]
    omega

/-- R39: a close that waits for the transfer in progress keeps its words in the instance. -/
theorem Ledger.closeLater {n : Nat} {s : State} {l : LineId} {i : Inst} {k : Closer} (h : Ledger (n + k.reservation) s)
    (hk : k.reservation = 5) (hi : s.inst l = some i) (hlater : i.phase = .closing ∨ waitsFor s l i) :
    Ledger n (s.closeInst l i k) := by
  rw [State.closeInst_later hi hlater]
  let j : Inst := { i with phase := .closing, pendingClose := i.pendingClose ++ [⟨k.tag, k.clear, k.reservation⟩] }
  have hdesk (y : Subject) := State.desk_setLine (s := s) (t := s) (l := l) (x := lineWith s l j) rfl (fun _ => rfl) (fun _ => rfl) y
  have hnew : (s.setLine l (lineWith s l j)).desk (.inr (.inr l)) = j.desk l := (hdesk _).trans (if_pos rfl)
  have hold := State.desk_line (s := s) hi
  have hholds := h.holds hi
  have hkept : (∃ o, i.asks l = some o ∧ s.transfer.map Request.owner = some o) ∧ j.asks l = i.asks l ∧ Holds j := by
    rcases hlater with hp | ⟨r, hr, ⟨hp, ho⟩ | ⟨hp, ho⟩⟩
    · have hrun := h.running (.inr (.inr l)) (by simp [hold, Inst.desk, hp])
      rw [hold] at hrun
      simp only [Holds, hp] at hholds
      refine ⟨hrun, by simp [Inst.asks, j, hp], hholds.1, fun p hp => ?_⟩
      rcases List.mem_append.1 hp with hp | hp
      · exact hholds.2 p hp
      · rw [List.mem_singleton.1 hp]
        exact hk
    · simp only [Holds, hp] at hholds
      obtain ⟨hres, hopen, hheld, hclose⟩ := hholds
      refine ⟨⟨.presetFetch l, by simp [Inst.asks, hp], by simp [hr, ho]⟩, by simp [Inst.asks, j, hp, hopen], .inl ⟨hres, hopen, hheld⟩, ?_⟩
      simp [j, hclose, hk]
    · simp only [Holds, hp] at hholds
      obtain ⟨hres, hopen, hheld, hclose⟩ := hholds
      refine ⟨⟨.delivery l, by simp [Inst.asks, hp], by simp [hr, ho]⟩, by simp [Inst.asks, j, hp, hopen], .inr ⟨hres, hopen, hheld⟩, ?_⟩
      simp [j, hclose, hk]
  obtain ⟨⟨o, ho, hr⟩, hasks, hsound⟩ := hkept
  have hnowait : i.phase ≠ .awaitBuffer := fun e => by
    rw [Inst.asks, e] at ho
    cases ho
  refine h.update (x := .inr (.inr l)) (fun y hy => (hdesk y).trans (if_neg hy)) (fun _ _ => Iff.rfl) h.once (fun o ho => ?_) h.nodup
    (fun _ _ => Iff.rfl) (fun m hm => ?_) (fun _ _ e => e) (fun _ => ?_) (hnew ▸ hsound) ?_ h.room
  · rw [hnew]
    refine (h.asked o).trans ?_
    rw [ho, hold]
    exact Eq.congr hasks.symm rfl
  · rw [hnew]
    refine (h.waiting m).trans ?_
    rw [hm, hold]
    simp [Inst.desk, j, hnowait]
  · rw [hnew]
    exact ⟨o, hasks.trans ho, hr⟩
  · rw [hnew, hold]
    show s.reserved + (i.reservation + _) + (n + k.reservation) = s.reserved + (i.reservation + (List.map _ (_ ++ [_])).sum) + n
    simp only [List.map_append, List.sum_append, List.map_cons, List.map_nil, List.sum_cons, List.sum_nil]
    omega

/-- R129: a descriptor that is offered stays on the list, or goes to the oldest waiting instance that it fits. -/
theorem Ledger.offer {n : Nat} {s : State} (h : Ledger n s) (d : Descriptor) (join : List Descriptor → List Descriptor) :
    Ledger n (s.offer d join) := by
  unfold State.offer
  split
  next l htaker =>
    have hl := State.takerOf_mem htaker
    obtain ⟨i, hi, hp⟩ := (waits_iff l _).1 ((h.waiting l).1 hl)
    have hholds := h.holds hi
    simp only [Holds, hp] at hholds
    obtain ⟨hres, hopen, hheld, hclose⟩ := hholds
    have hold := State.desk_line hi
    have hdesk (y : Subject) := State.desk_modInst (s := s.leaveWaiting l) (i := i) hi
      (fun i => { i with phase := .delivering, heldBuffer := some d }) y
    have hqueues := State.modInst_queues (s.leaveWaiting l) l (fun i => { i with phase := .delivering, heldBuffer := some d })
    unfold State.startDelivery
    generalize State.modInst (s.leaveWaiting l) l _ = u at hdesk hqueues
    obtain ⟨hwaiting, htransfer, hbus, hreserved, hanswers⟩ := hqueues
    have hplaced : (u.placeRequest ⟨.delivery l, d.address, ((s.leaveWaiting l).instOf l).imageSize⟩).desk (.inr (.inr l)) =
        Inst.desk l { i with phase := .delivering, heldBuffer := some d } := (hdesk _).trans (if_pos rfl)
    have howners : (u.placeRequest ⟨.delivery l, d.address, ((s.leaveWaiting l).instOf l).imageSize⟩).owners =
        s.owners ++ [.delivery l] := by
      simp [State.owners, State.placeRequest, htransfer, hbus, State.leaveWaiting]
    have hnone : ∀ o ∈ s.owners, ownerSubject o ≠ .inr (.inr l) := fun o ho e => by
      have := (h.asked o).1 ho
      rw [e, hold] at this
      simp [Inst.desk, Inst.asks, hp] at this
    have hleft (m : LineId) : m ∈ u.waiting ↔ m ∈ s.waiting ∧ m ≠ l := by
      rw [hwaiting]
      simp [State.leaveWaiting]
    refine h.update (x := .inr (.inr l)) (fun y hy => (hdesk y).trans (if_neg hy)) (fun o ho => ?_) ?_ (fun o ho => ?_) ?_
      (fun m hm => ?_) (fun m hm => ?_) (fun o _ e => ?_) (fun e => ?_) ?_ ?_ ?_
    · rw [howners, List.mem_append, List.mem_singleton]
      exact ⟨fun hm => hm.resolve_right fun e => ho (e ▸ rfl), .inl⟩
    · rw [howners]
      refine List.nodup_append.2 ⟨h.once, List.nodup_singleton _, fun o ho o' ho' e => hnone o ho ?_⟩
      rw [e, List.mem_singleton.1 ho']
      rfl
    · rw [howners, List.mem_append, List.mem_singleton]
      rw [hplaced]
      exact ⟨fun hm => by rw [hm.resolve_left fun hm => hnone o hm ho]; rfl, fun e => .inr (Option.some.inj e).symm⟩
    · show u.waiting.Nodup
      rw [hwaiting]
      exact h.nodup.filter _
    · exact (hleft m).trans ⟨fun hm' => hm'.1, fun hm' => ⟨hm', fun e => hm (e ▸ rfl)⟩⟩
    · have hml : m = l := Sum.inr.inj (Sum.inr.inj hm)
      refine (hleft m).trans ?_
      rw [hplaced]
      simp [Inst.desk, hml]
    · exact (congrArg (Option.map Request.owner) htransfer).trans e
    · rw [hplaced] at e
      simp [Inst.desk] at e
    · rw [hplaced]
      exact ⟨hres, hopen, rfl, hclose⟩
    · rw [hplaced, hold]
      exact congrArg (fun w => w + (i.desk l).words + n) hreserved
    · show u.answerQueue.length + u.reserved ≤ 256
      rw [hreserved]
      exact (Nat.add_le_add_right hanswers _).trans h.room
  · exact h.congr (fun _ => rfl) rfl rfl rfl rfl h.room

theorem State.offer_transfer (s : State) (d : Descriptor) (join : List Descriptor → List Descriptor) :
    (s.offer d join).transfer = s.transfer := by
  unfold State.offer
  split
  · rw [State.startDelivery, State.modInst_eq]
    rfl
  · rfl

/-- R39: an instance in DELIVERING whose request is still queued gives its descriptor back and is retired. -/
theorem Ledger.closeOffering {n : Nat} {s : State} {l : LineId} {i : Inst} {k : Closer} (h : Ledger (n + k.reservation) s)
    (hk : k.reservation = 5) (hi : s.inst l = some i) (hp : i.phase = .delivering) (hidle : s.inProgress (.delivery l) = false)
    (d : Descriptor) (join : List Descriptor → List Descriptor) :
    Ledger n (((s.withdraw (.delivery l)).offer d join).closeNow l k []) := by
  have hholds := h.holds hi
  simp only [Holds, hp] at hholds
  obtain ⟨hres, hopen, hheld, hclose⟩ := hholds
  have hline : (s.line l).inst = some i := hi
  have hwords : (i.desk l).words = 6 := by simp [Inst.desk, hres, hclose]
  have hasks (o : Owner) (ho : i.asks l = some o) : s.inProgress o = false := by
    simp only [Inst.asks, hp, Option.some.injEq] at ho
    rw [← ho]
    exact hidle
  have hnowait : l ∉ s.waiting := fun hm => by
    obtain ⟨j, hj, hphase⟩ := (waits_iff l _).1 ((h.waiting l).1 hm)
    obtain rfl : i = j := Option.some.inj (hi.symm.trans hj)
    rw [hp] at hphase
    cases hphase
  let j : Inst := { i with phase := .editing, heldBuffer := none, reservation := 0 }
  let w := s.withdraw (.delivery l)
  have hfreed : Ledger (n + k.reservation + 6) (w.setLine l (lineWith s l j)) := by
    have hdesk (y : Subject) := State.desk_setLine (s := s) (t := w) (l := l) (x := lineWith s l j) rfl (fun _ => rfl) (fun _ => rfl) y
    have hbus (q : Request) (hq : q ∈ w.busQueue) : ownerSubject q.owner ≠ .inr (.inr l) := fun e => by
      obtain ⟨hmem, hne⟩ := List.mem_filter.1 hq
      have hall : q.owner ∈ s.owners := List.mem_map_of_mem (List.mem_append_right _ hmem)
      have := (h.asked q.owner).1 hall
      rw [e, State.desk_line hi, Inst.desk, Inst.asks, hp] at this
      rw [← Option.some.inj this] at hne
      simp at hne
    refine h.toIdle (x := .inr (.inr l)) (fun y hy => (hdesk y).trans (if_neg hy)) ?_ ?_ (fun o ho hne => ?_) (fun o ho => ?_)
      (List.Sublist.refl _) (fun m hm _ => hm) (fun m hm e => ?_) (fun o _ ho => ho) ?_ h.room
    · refine (hdesk _).trans ((if_pos rfl).trans ?_)
      exact Inst.desk_of_waitless (i := j) ⟨rfl, hopen, rfl, hclose⟩ (.inr (.inl rfl)) l
    · exact (List.Sublist.append (List.Sublist.refl _) List.filter_sublist).map _
    · obtain ⟨r, hr, rfl⟩ := List.mem_map.1 ho
      refine List.mem_map_of_mem (List.mem_append.2 ((List.mem_append.1 hr).imp id fun hr => ?_))
      refine List.mem_filter.2 ⟨hr, ?_⟩
      have : r.owner ≠ .delivery l := fun e => hne (by rw [e]; rfl)
      simpa using this
    · obtain ⟨r, hr, rfl⟩ := List.mem_map.1 ho
      rcases List.mem_append.1 hr with hr | hr
      · exact h.free hi hasks r (Option.mem_toList.1 hr)
      · exact hbus r hr
    · exact hnowait ((Sum.inr.inj (Sum.inr.inj e) : m = l) ▸ hm)
    · rw [State.desk_line hi, hwords]
      show s.reserved + 6 + _ = s.reserved + _
      omega
  have hoffered := hfreed.offer d join
  rw [State.offer_setLine (s := w) hnowait] at hoffered
  have hv : ((w.offer d join).line l).inst = some i := (congrArg Line.inst (State.offer_line_of_not_waiting (s := w) hnowait d join)).trans hline
  rw [State.closeNow_eq hv]
  have hj : ((w.offer d join).setLine l (lineWith s l j)).inst l = some j := by
    rw [State.inst, State.setLine_line_self]
    rfl
  have htransfer : (w.offer d join).transfer = s.transfer := State.offer_transfer w d join
  have hle := hoffered.words_le (.inr (.inr l))
  have hroom := hoffered.room
  have hsame : ∀ a q, State.setLine { Safety.retired ((w.offer d join).setLine l (lineWith s l j)) l j with reserved := a, answerQueue := q } l
      (retiredLine ((w.offer d join).line l) k.clear).clearKeys =
        State.setLine { Safety.retired (w.offer d join) l i with reserved := a, answerQueue := q } l
          (retiredLine ((w.offer d join).line l) k.clear).clearKeys := by
    intro a q
    simp [Safety.retired, State.setLine, State.setSlot, State.slot, j]
  rw [← hsame]
  rw [State.desk_line hj, Inst.desk_of_waitless (i := j) ⟨rfl, hopen, rfl, hclose⟩ (.inr (.inl rfl)) l] at hle
  have hle' : n + k.reservation + 6 ≤ (w.offer d join).reserved := by simpa [Desk.idle] using hle
  refine hoffered.retiring hj rfl (fun r hr => ?_) ?_ ?_
  · exact h.free hi hasks r (htransfer ▸ hr)
  · rw [Inst.desk_of_waitless (i := j) ⟨rfl, hopen, rfl, hclose⟩ (.inr (.inl rfl)) l, hres]
    show (w.offer d join).reserved - 6 - k.reservation + 0 + (n + k.reservation + 6) = (w.offer d join).reserved + n
    omega
  · have hroom' : (w.offer d join).answerQueue.length + (w.offer d join).reserved ≤ 256 := hroom
    rw [List.length_append, hres, show (result k.tag 0 []).length = 2 from rfl]
    omega

/-- R39, R44: an instance is ended, at once or later. -/
theorem Ledger.closeInst {n : Nat} {s : State} {l : LineId} {i : Inst} {k : Closer} (h : Ledger (n + k.reservation) s)
    (hk : k.reservation = 5) (hi : s.inst l = some i) : Ledger n (s.closeInst l i k) := by
  have hholds := h.holds hi
  have hnow (hquiet : i.phase = .painting ∨ i.phase = .editing ∨ i.phase = .awaitBuffer ∨ i.phase = .awaitVerdict) :
      Ledger n (s.closeInst l i k) := by
    rw [State.closeInst_now hquiet]
    refine h.closeNow hi ?_ (fun o ho => ?_) (by rw [hk]; exact (by decide : 2 ≤ 5))
    · rcases hquiet with e | e | e | e <;> simp only [Holds, e] at hholds <;> exact hholds.2.2.2
    · rcases hquiet with e | e | e | e <;> simp [Inst.asks, e] at ho
  by_cases hlater : i.phase = .closing ∨ waitsFor s l i
  · exact h.closeLater hk hi hlater
  · obtain ⟨hclosing, hwait⟩ := not_or.1 hlater
    cases hp : i.phase with
    | painting => exact hnow (.inl hp)
    | editing => exact hnow (.inr (.inl hp))
    | awaitBuffer => exact hnow (.inr (.inr (.inl hp)))
    | awaitVerdict => exact hnow (.inr (.inr (.inr hp)))
    | closing => exact absurd hp hclosing
    | presetting =>
      simp only [Holds, hp] at hholds
      obtain ⟨hres, hopen, -, hclose⟩ := hholds
      obtain ⟨tag, htag⟩ := Option.isSome_iff_exists.1 hopen
      have hidle : s.inProgress (.presetFetch l) = false := Bool.eq_false_iff.2 (mt (waitsFor_presetting hp).2 hwait)
      have hwords : (i.desk l).words = 4 := by simp [Inst.desk, hres, hclose]
      have hle := h.words_le (.inr (.inr l))
      have hroom := h.room
      rw [State.desk_line hi, hwords] at hle
      rw [State.closeInst_presetting hi hp htag hwait]
      refine h.retiring hi rfl (h.free hi fun o ho => ?_) ?_ ?_
      · simp only [Inst.asks, hp, Option.some.injEq] at ho
        rw [← ho]
        exact hidle
      · rw [hwords, hres]
        omega
      · rw [List.length_append, List.length_append, hres, show (result tag 29 []).length = 2 from rfl,
          show (result k.tag 0 []).length = 2 from rfl]
        omega
    | delivering =>
      have hidle : s.inProgress (.delivery l) = false := Bool.eq_false_iff.2 (mt (waitsFor_delivering hp).2 hwait)
      have hboth := hholds
      simp only [Holds, hp] at hboth
      obtain ⟨hres, hopen, hheld, hclose⟩ := hboth
      obtain ⟨d, hd⟩ := Option.isSome_iff_exists.1 hheld
      rw [State.closeInst_delivering hp hd hwait]
      split_ifs
      · exact h.closeOffering hk hi hp hidle d _
      · have hwords : (i.desk l).words = 6 := by simp [Inst.desk, hres, hclose]
        have hle := h.words_le (.inr (.inr l))
        have hroom := h.room
        rw [State.desk_line hi, hwords] at hle
        rw [State.closeNow_eq (s := s.withdraw (.delivery l)) hi, retired_withdraw]
        refine h.retiring hi rfl (h.free hi fun o ho => ?_) ?_ ?_
        · simp only [Inst.asks, hp, Option.some.injEq] at ho
          rw [← ho]
          exact hidle
        · rw [hwords, hres]
          show s.reserved - 6 - k.reservation + 6 + (n + k.reservation) = s.reserved + n
          omega
        · rw [List.length_append, hres, show (result k.tag 0 (descriptorWords d)).length = 5 from rfl]
          show s.answerQueue.length + 5 + (s.reserved - 6 - k.reservation) ≤ 256
          omega

theorem Ledger.closeForm {s : State} {c : Command} (hc : c.code = .closeForm) (h : Ledger c.code.reservation s) :
    Ledger 0 (closeForm c s) :=
  h.named fun l i hi _ => Ledger.closeInst (n := 0) (k := ⟨c.tag, c.clearFlag 1, c.code.reservation⟩) (by rwa [Nat.zero_add])
    (by rw [hc]; rfl) hi

theorem Ledger.resetLine {s : State} {c : Command} (hc : c.code = .resetLine) (h : Ledger c.code.reservation s) :
    Ledger 0 (resetLine c s) := by
  unfold Machine.resetLine
  split
  · exact h.refusal _
  next l _ =>
    refine Ledger.kept (C := True) ?_ (Kept.settle _ l)
    have hflush : Kept True True s (s.modLine l Line.flushed) := Kept.ofLine rfl rfl rfl (fun _ => Nat.zero_le _) (Nat.zero_le _)
    have hflushed := h.kept (hflush.trans (Kept.discardDisplay _ l))
    unfold State.resetInst
    split
    · exact (hflushed.kept (C := True) (Kept.queueClear _ l _)).refusal .ok
    next i hi =>
      exact Ledger.closeInst (n := 0) (k := ⟨c.tag, c.clearFlag 0, c.code.reservation⟩) (by rwa [Nat.zero_add]) (by rw [hc]; rfl) hi

theorem Ledger.acceptEntry {s : State} {c : Command} (hc : c.code = .acceptEntry) (h : Ledger c.code.reservation s) :
    Ledger 0 (acceptEntry c s) := by
  refine h.named fun l i hi hphase => ?_
  have hp := waitless_of_acceptEntry hc hphase
  split
  · have hholds := h.holds hi
    simp only [Holds, hp] at hholds
    refine Ledger.reply (Ledger.kept (C := True) ?_ (Kept.queueClear _ l _)) .ok (by rw [hc]; exact Nat.le_refl 3)
    have hline : (s.line l).inst = some i := hi
    rw [State.retire_eq hline]
    refine h.retiring (w := s.reserved - i.reservation) (q := s.answerQueue) hi rfl (h.free hi fun o ho => ?_) ?_ ?_
    · simp [Inst.asks, hp] at ho
    · simp [Inst.desk, hholds]
    · exact (Nat.add_le_add_left (Nat.sub_le _ _) _).trans h.room
  · refine h.replied (C := True) (Replied.acceptRenew hc ?_)
    rw [State.instOf_of_inst hi]
    exact .inr (.inr hp)
  · exact h.refusal _

theorem Ledger.postBuffer {s : State} {c : Command} (hc : c.code = .postBuffer) (h : Ledger c.code.reservation s) :
    Ledger 0 (postBuffer c s) := by
  unfold Machine.postBuffer
  dsimp only
  split
  · exact h.refusal _
  · exact (h.offer _ _).reply .ok (by rw [hc]; exact Nat.le_refl 3)

/-- R136: an entry that returns gives its place and its words back. -/
theorem Ledger.returnEntry {s : State} {c : Command} (hc : c.code = .returnEntry) (h : Ledger c.code.reservation s) :
    Ledger 0 (returnEntry c s) := by
  refine h.named fun l i hi hphase => ?_
  split
  · exact h.refusal _
  · refine Ledger.refusal ?_ .ok
    have hp : i.phase = .awaitBuffer ∨ i.phase = .awaitVerdict := by
      rw [hc] at hphase
      cases hp : i.phase <;> simp [phaseCheck, hp] at hphase
      · split_ifs at hphase
      · exact .inl rfl
      · exact .inr rfl
    have hholds := h.holds hi
    have hrest : i.pendingOpen = none ∧ i.heldBuffer = none ∧ i.pendingClose = [] := by
      rcases hp with e | e <;> simp only [Holds, e] at hholds <;> exact hholds.2
    obtain ⟨hopen, hheld, hclose⟩ := hrest
    have hasks : i.asks l = none := by rcases hp with e | e <;> simp [Inst.asks, e]
    let m := carriedBytes c.highArg c.tailWords
    have hdesk (y : Subject) := State.desk_modInst (s := (s.leaveWaiting l).release i.reservation) (i := i) hi
      (fun i => i.returned c.fieldByte m) y
    have hqueues := State.modInst_queues ((s.leaveWaiting l).release i.reservation) l (fun i => i.returned c.fieldByte m)
    have hidle : (i.returned c.fieldByte m).desk l = .idle := by
      have hphase : (i.returned c.fieldByte m).phase = .editing := by rw [Inst.returned_eq]
      refine Inst.desk_of_waitless ?_ (.inr (.inl hphase)) l
      rw [Inst.returned_eq]
      exact ⟨rfl, hopen, hheld, hclose⟩
    show Ledger _ (State.modInst ((s.leaveWaiting l).release i.reservation) l fun i => i.returned c.fieldByte m)
    generalize State.modInst ((s.leaveWaiting l).release i.reservation) l _ = u at hdesk hqueues
    obtain ⟨hwaiting, htransfer, hbus, hreserved, hanswers⟩ := hqueues
    have howners : u.owners = s.owners := by rw [State.owners, htransfer, hbus]; rfl
    have hle := h.words_le (.inr (.inr l))
    have hwords : (i.desk l).words = i.reservation := by simp [Inst.desk, hclose]
    have hroom := h.room
    rw [State.desk_line hi, hwords] at hle
    have hreserved' : u.reserved = s.reserved - i.reservation := hreserved
    have hanswers' : u.answerQueue.length ≤ s.answerQueue.length := hanswers
    have hwaiting' : u.waiting = s.waiting.filter (· != l) := hwaiting
    refine h.toIdle (x := .inr (.inr l)) (fun y hy => (hdesk y).trans (if_neg hy)) ((hdesk _).trans ((if_pos rfl).trans hidle))
      (howners ▸ List.Sublist.refl _) (fun o ho _ => howners ▸ ho) (fun o ho e => ?_) (hwaiting' ▸ List.filter_sublist)
      (fun m hm hne => ?_) (fun m hm e => ?_) (fun o _ ho => (congrArg (Option.map Request.owner) htransfer).trans ho) ?_ ?_
    · have := (h.asked o).1 (howners ▸ ho)
      rw [e, State.desk_line hi, Inst.desk, hasks] at this
      cases this
    · rw [hwaiting']
      refine List.mem_filter.2 ⟨hm, ?_⟩
      have hml : m ≠ l := fun e => hne (e ▸ rfl)
      simpa using hml
    · have hml : m = l := Sum.inr.inj (Sum.inr.inj e)
      rw [hwaiting', hml] at hm
      simp at hm
    · rw [State.desk_line hi, hwords]
      omega
    · omega

end Sys2Proof.Machine
end

section
/-! PROOFS. The books, row by row: the ends of the transfers, at which the owner uses the words it holds (R13, R34, R40, R131, R132, R150, R174). -/

namespace Sys2Proof.Machine

open Sys2Proof.Safety

-- The proofs of the whole text share one memory limit, and each thread takes its part of it.
set_option Elab.async false

variable {C : Prop}

/-! ## The start and the end of a transfer -/

theorem Ledger.startTransfer {s : State} (h : Ledger 0 s) : Ledger 0 s.startTransfer := by
  unfold State.startTransfer
  split
  next r rest hr hbus =>
    have howners : ({ s with transfer := some r, busQueue := rest } : State).owners = s.owners := by
      simp [State.owners, hr, hbus]
    refine ⟨h.nodup, h.waiting, howners ▸ h.once, fun o => howners ▸ h.asked o, fun x hx => ?_, h.sound, h.reserved, h.room⟩
    obtain ⟨o, -, ho⟩ := h.running x hx
    rw [hr] at ho
    cases ho
  · exact h

/-- What is kept is kept at the end of a transfer too. -/
theorem Kept.endTransfer_congr {s t : State} (h : Kept True C s t) : Kept True C s.endTransfer t.endTransfer := by
  obtain ⟨hwaiting, -, hbus, hreserved, hanswers⟩ := h.queues trivial
  exact ⟨h.partState, h.slots, h.profiles, h.freeList, h.memory, h.commandQueue, h.bufferList,
    fun _ => ⟨hwaiting, rfl, hbus, hreserved, hanswers⟩,
    fun m => ⟨(h.lines m).on, (h.lines m).config, (h.lines m).typeAhead, (h.lines m).output, (h.lines m).inst⟩⟩

/-- R172: the owner of the transfer in progress waits for it. -/
theorem Ledger.asks_transfer {n : Nat} {s : State} (h : Ledger n s) {r : Request} (hr : s.transfer = some r) :
    (s.desk (ownerSubject r.owner)).asks = some r.owner :=
  (h.asked r.owner).1 (by simp [State.owners, hr])

/-- The owner no longer waits, and its words are used. -/
theorem Ledger.endedHere {s u : State} {r : Request} (h : Ledger 0 s) (hr : s.transfer = some r)
    (hdesk : ∀ y, u.desk y = if y = ownerSubject r.owner then .idle else s.desk y) (hwaiting : u.waiting = s.waiting)
    (hbus : u.busQueue = s.busQueue) (hwords : u.reserved = s.reserved - (s.desk (ownerSubject r.owner)).words)
    (hanswers : u.answerQueue.length ≤ s.answerQueue.length + (s.desk (ownerSubject r.owner)).words) : Ledger 0 u.endTransfer := by
  have hle := h.words_le (ownerSubject r.owner)
  have hroom := h.room
  refine h.ended hr (fun y hy => (hdesk y).trans (if_neg hy)) ((hdesk _).trans (if_pos rfl)) rfl (hbus ▸ List.Sublist.refl _)
    (fun q hq _ => hbus ▸ hq) (hwaiting ▸ List.Sublist.refl _) (fun l hl _ => hwaiting ▸ hl) ?_ ?_
  · show u.reserved + _ + 0 = s.reserved + 0
    omega
  · show u.answerQueue.length + u.reserved ≤ 256
    omega

/-! ## Fetches of forms and profiles -/

theorem Ledger.endLoad {s : State} {r : Request} {k : SlotId} (h : Ledger 0 s) (hr : s.transfer = some r) (ho : r.owner = .formFetch k)
    {new : SlotState} (hnew : new.desk k = .idle) (st : Status) {data : List Word} (hdata : data.length ≤ 2) :
    Ledger 0 (s.endLoad k new st data).endTransfer := by
  have hasks := h.asks_transfer hr
  rw [ho] at hasks
  obtain ⟨tag, w, hstate⟩ := (SlotState.asks_iff k _).1 hasks
  have hw : w = 4 := (SlotState.sound_iff k _).1 (h.sound (.inl k)) tag w hstate
  have hdesk (y : Subject) := State.desk_setSlot s k ⟨new, 0⟩ y
  have hold : s.desk (.inl k) = ⟨w, some (.formFetch k), false, false, w = 4⟩ := by simp only [State.desk, hstate, SlotState.desk]
  simp only [State.endLoad, hstate]
  rw [hnew] at hdesk
  refine h.endedHere hr (u := (s.setSlot k ⟨new, 0⟩).post w (resultRecord tag st data)) (by rw [ho]; exact hdesk) rfl rfl ?_ ?_
  · rw [ho]
    show s.reserved - w = s.reserved - (s.desk (.inl k)).words
    rw [hold]
  · rw [ho]
    show (s.answerQueue ++ resultRecord tag st data).length ≤ s.answerQueue.length + (s.desk (.inl k)).words
    rw [hold, List.length_append, length_resultRecord, hw]
    show s.answerQueue.length + (data.length + 2) ≤ s.answerQueue.length + 4
    omega

theorem Ledger.endSetProfile {s : State} {r : Request} {p : ProfileId} (h : Ledger 0 s) (hr : s.transfer = some r)
    (ho : r.owner = .profileFetch p) (new : Profile) (st : Status) {data : List Word} (hdata : data.length ≤ 2) :
    Ledger 0 (s.endSetProfile p new st data).endTransfer := by
  have hasks := h.asks_transfer hr
  rw [ho] at hasks
  obtain ⟨tag, w, hstate⟩ := (ProfileState.asks_iff p _).1 hasks
  have hw : w = 4 := (ProfileState.sound_iff p _).1 (h.sound (.inr (.inl p))) tag w hstate
  have hdesk (y : Subject) := State.desk_setProfile s p { s.profileSlot p with state := .ready new } y
  have hold : s.desk (.inr (.inl p)) = ⟨w, some (.profileFetch p), false, false, w = 4⟩ := by
    simp only [State.desk, hstate, ProfileState.desk]
  simp only [State.endSetProfile, hstate]
  refine h.endedHere hr (u := (s.setProfile p { s.profileSlot p with state := .ready new }).post w (resultRecord tag st data))
    (by rw [ho]; exact hdesk) rfl rfl ?_ ?_
  · rw [ho]
    show s.reserved - w = s.reserved - (s.desk (.inr (.inl p))).words
    rw [hold]
  · rw [ho]
    show (s.answerQueue ++ resultRecord tag st data).length ≤ s.answerQueue.length + (s.desk (.inr (.inl p))).words
    rw [hold, List.length_append, length_resultRecord, hw]
    show s.answerQueue.length + (data.length + 2) ≤ s.answerQueue.length + 4
    omega

theorem Ledger.formFetched {s : State} {r : Request} {k : SlotId} (h : Ledger 0 s) (hr : s.transfer = some r) (ho : r.owner = .formFetch k)
    (img : List Byte) (n : Nat) : Ledger 0 (s.formFetched k img n).endTransfer := by
  unfold State.formFetched
  split
  · exact h.endLoad hr ho (new := .empty) rfl _ (Nat.le_refl _)
  · exact h.endLoad hr ho (new := .ready (formOfImage img)) rfl _ (Nat.le_refl _)

theorem Ledger.profileFetched {s : State} {r : Request} {p : ProfileId} (h : Ledger 0 s) (hr : s.transfer = some r)
    (ho : r.owner = .profileFetch p) (img : List Byte) : Ledger 0 (s.profileFetched p img).endTransfer := by
  unfold State.profileFetched
  split
  · exact h.endSetProfile hr ho _ _ (Nat.le_refl _)
  · exact h.endSetProfile hr ho _ _ (Nat.zero_le _)

/-! ## Fetches of presets, and deliveries -/

/-- The instance of the line whose transfer is in progress. -/
theorem Ledger.inst_of_transfer {n : Nat} {s : State} (h : Ledger n s) {r : Request} (hr : s.transfer = some r) {l : LineId}
    (hl : ownerSubject r.owner = .inr (.inr l)) : ∃ i, s.inst l = some i ∧ i.asks l = some r.owner := by
  have hasks := h.asks_transfer hr
  rw [hl] at hasks
  cases hi : s.inst l with
  | none => simp [State.desk, hi, lineDesk, Desk.idle] at hasks
  | some i => exact ⟨i, rfl, by simpa [State.desk, hi, lineDesk, Inst.desk] using hasks⟩

/-- R40: the answers to the pending closes fit the words kept for them. -/
theorem length_closeAnswers {ps : List PendingClose} (h : ∀ p ∈ ps, p.reservation = 5) :
    ((ps.map fun p => result p.tag 0 []).flatten).length ≤ (ps.map PendingClose.reservation).sum := by
  induction ps with
  | nil => exact Nat.le_refl _
  | cons p ps ih =>
    have hp := h p List.mem_cons_self
    have := ih fun q hq => h q (List.mem_cons_of_mem p hq)
    simp only [List.map_cons, List.flatten_cons, List.length_append, List.sum_cons, hp]
    rw [show (result p.tag 0 []).length = 2 from rfl]
    omega

/-- An instance retired at the end of its transfer. -/
theorem Ledger.retiringAtEnd {s : State} {r : Request} {l : LineId} {i : Inst} {x : Line} {q : List Word} (h : Ledger 0 s)
    (hr : s.transfer = some r) (hl : ownerSubject r.owner = .inr (.inr l)) (hi : s.inst l = some i) (hx : x.inst = none)
    (hq : q.length ≤ s.answerQueue.length + (i.desk l).words) :
    Ledger 0 (State.setLine { Safety.retired s l i with reserved := s.reserved - (i.desk l).words, answerQueue := q } l x).endTransfer := by
  have hdesk (y : Subject) := State.desk_setLine (s := s)
    (t := { Safety.retired s l i with reserved := s.reserved - (i.desk l).words, answerQueue := q, transfer := none }) (l := l) (x := x)
    rfl (fun j => State.setSlot_count_state (s := s) rfl i.slot j _) (fun _ => rfl) y
  have hle := h.words_le (.inr (.inr l))
  have hroom := h.room
  rw [State.desk_line hi] at hle
  refine h.ended hr (fun y hy => (hdesk y).trans (if_neg (hl ▸ hy))) ?_ rfl List.filter_sublist (fun q hq hne => ?_)
    List.filter_sublist (fun m hm hne => ?_) ?_ ?_
  · rw [hl]
    refine (hdesk _).trans ((if_pos rfl).trans ?_)
    rw [hx]
    rfl
  · refine List.mem_filter.2 ⟨hq, ?_⟩
    rw [hl] at hne
    have hpreset : q.owner ≠ .presetFetch l := fun e => hne (by rw [e]; rfl)
    have hdelivery : q.owner ≠ .delivery l := fun e => hne (by rw [e]; rfl)
    simp [hpreset, hdelivery]
  · refine List.mem_filter.2 ⟨hm, ?_⟩
    have hml : m ≠ l := fun e => hne (by rw [e, hl])
    simpa using hml
  · rw [hl, State.desk_line hi]
    show s.reserved - (i.desk l).words + (i.desk l).words + 0 = s.reserved + 0
    omega
  · show q.length + (s.reserved - (i.desk l).words) ≤ 256
    omega

/-- R40: the end of a transfer that an instance in CLOSING waited for. -/
theorem Ledger.endClosing {s : State} {r : Request} {l : LineId} {i : Inst} (h : Ledger 0 s) (hr : s.transfer = some r)
    (hl : ownerSubject r.owner = .inr (.inr l)) (hi : s.inst l = some i) (hp : i.phase = .closing) {owed : List Word}
    (howed : owed.length ≤ i.reservation) : Ledger 0 (s.endClosing l owed).endTransfer := by
  have hholds := h.holds hi
  simp only [Holds, hp] at hholds
  have hcloses := length_closeAnswers hholds.2
  rw [State.endClosing_eq hi]
  refine Ledger.kept (C := True) ?_ (Kept.endTransfer_congr (Kept.settle _ l))
  have hend := h.retiringAtEnd (x := (retiredLine (s.line l) (i.pendingClose.any PendingClose.clear)).clearKeys)
    (q := s.answerQueue ++ owed ++ (i.pendingClose.map fun p => result p.tag 0 []).flatten) hr hl hi rfl (by
      rw [List.length_append, List.length_append]
      show _ ≤ s.answerQueue.length + (i.reservation + _)
      omega)
  rwa [show s.reserved - (i.desk l).words = s.reserved - i.reservation - (i.pendingClose.map PendingClose.reservation).sum from
    (Nat.sub_sub _ _ _).symm] at hend

/-- R40: an instance in CLOSING whose preset was fetched owes CLOSED_EARLY. -/
theorem Ledger.endClosingPreset {s : State} {r : Request} {l : LineId} {i : Inst} (h : Ledger 0 s) (hr : s.transfer = some r)
    (hl : ownerSubject r.owner = .inr (.inr l)) (hi : s.inst l = some i) (hp : i.phase = .closing)
    (hopen : i.pendingOpen.isSome = true) : Ledger 0 (s.endClosing l (s.closedEarlyRecord l)).endTransfer := by
  refine h.endClosing hr hl hi hp ?_
  have hholds := h.holds hi
  simp only [Holds, hp] at hholds
  rcases hholds.1 with ⟨hres, -⟩ | ⟨-, hnone, -⟩
  · rw [hres]
    exact (by decide : 2 ≤ 4)
  · rw [hnone] at hopen
    cases hopen

/-- R36: a preset that fails. -/
theorem Ledger.presetFailed {s : State} {r : Request} {l : LineId} {i : Inst} (h : Ledger 0 s) (hr : s.transfer = some r)
    (hl : ownerSubject r.owner = .inr (.inr l)) (hi : s.inst l = some i) (hp : i.phase = .presetting) (st : Status) {data : List Word}
    (hdata : data.length ≤ 2) : Ledger 0 ((s.presetFailed l st data).settle l).endTransfer := by
  have hholds := h.holds hi
  simp only [Holds, hp] at hholds
  obtain ⟨hres, hopen, -, hclose⟩ := hholds
  obtain ⟨tag, htag⟩ := Option.isSome_iff_exists.1 hopen
  have hwords : (i.desk l).words = i.reservation := by simp [Inst.desk, hclose]
  rw [State.presetFailed_eq hi htag]
  refine Ledger.kept (C := True) ?_ (Kept.endTransfer_congr (Kept.settle _ l))
  have hend := h.retiringAtEnd (x := (retiredLine (s.line l) false).clearKeys) (q := s.answerQueue ++ result tag st.code data) hr hl hi rfl
    (by
      rw [List.length_append, hwords, hres, show (result tag st.code data).length = data.length + 2 from rfl]
      omega)
  rwa [hwords] at hend

/-- Where the books are the same, the instance holds what it held. -/
theorem Kept.inst_some {s t : State} (h : Kept True C s t) {l : LineId} {i : Inst} (hi : s.inst l = some i) :
    ∃ j, t.inst l = some j ∧ SameBook i j := by
  rcases (h.lines l).inst with ⟨hs, -⟩ | ⟨i', j, hs, ht, hij⟩
  · rw [State.inst, hs] at hi
    cases hi
  · obtain rfl : i' = i := Option.some.inj (hs.symm.trans hi)
    exact ⟨j, ht, hij.book trivial⟩

/-- The instance comes to wait for nothing, its words used. -/
theorem Ledger.settledAtEnd {s u : State} {r : Request} {l : LineId} {i j : Inst} {f : Inst → Inst} (h : Ledger 0 s)
    (hr : s.transfer = some r) (hl : ownerSubject r.owner = .inr (.inr l)) (hi : s.inst l = some i) (hj : u.inst l = some j)
    (hdesk : ∀ y, y ≠ .inr (.inr l) → u.desk y = s.desk y) (hidle : (f j).desk l = .idle) (hwaiting : u.waiting = s.waiting)
    (hbus : u.busQueue = s.busQueue) (hwords : u.reserved = s.reserved - (i.desk l).words)
    (hanswers : u.answerQueue.length ≤ s.answerQueue.length + (i.desk l).words) : Ledger 0 (u.modInst l f).endTransfer := by
  have hnew (y : Subject) := State.desk_modInst hj f y
  obtain ⟨hwaiting', -, hbus', hreserved', hanswers'⟩ := State.modInst_queues u l f
  have hold := State.desk_line hi
  refine h.endedHere hr (fun y => (hnew y).trans ?_) (hwaiting'.trans hwaiting) (hbus'.trans hbus) ?_ ?_
  · rw [hl]
    split_ifs with hy
    · exact hidle
    · exact hdesk y hy
  · rw [hl, hold]
    exact hreserved'.trans hwords
  · rw [hl, hold]
    exact hanswers'.trans hanswers

/-- R35: a preset that passes. -/
theorem Ledger.presetPassed {s : State} {r : Request} {l : LineId} {i : Inst} (h : Ledger 0 s) (hr : s.transfer = some r)
    (hl : ownerSubject r.owner = .inr (.inr l)) (hi : s.inst l = some i) (hp : i.phase = .presetting)
    {entries : List (Nat × List Byte)} (hfits : PresetFits (s.formOf l) entries) :
    Ledger 0 ((s.presetPassed l entries).settle l).endTransfer := by
  have hholds := h.holds hi
  simp only [Holds, hp] at hholds
  obtain ⟨hres, hopen, hheld, hclose⟩ := hholds
  have hwords : (i.desk l).words = 4 := by simp [Inst.desk, hclose, hres]
  refine Ledger.kept (C := True) ?_ (Kept.endTransfer_congr (Kept.settle _ l))
  have hkept : Kept True False s (s.applyPreset l entries) := Kept.applyPreset rfl hfits False.elim
  obtain ⟨j, hj, hij⟩ := hkept.inst_some hi
  let painting : Inst → Inst := fun i => { i with phase := .painting }
  have hpaint : ((s.applyPreset l entries).modInst l painting).inst l = some (painting j) := by
    have hline : ((s.applyPreset l entries).line l).inst = some j := hj
    rw [State.modInst_eq, State.inst, State.setLine_line_self, hline]
    rfl
  have hrepaint : Kept True False _ (((s.applyPreset l entries).modInst l painting).fullRepaint l) := Kept.fullRepaint _ l
  obtain ⟨j', hj', hpj⟩ := hrepaint.inst_some hpaint
  have hqueues := ((hkept.queues trivial).trans (State.modInst_queues _ l painting)).trans (hrepaint.queues trivial)
  obtain ⟨hres', hopen', hheld', hclose', hphase'⟩ := hpj
  obtain ⟨hresj, hopenj, hheldj, hclosej, -⟩ := hij
  have hwait : waitless j'.phase := by
    rcases hphase' with e | ⟨-, e⟩
    · exact .inl e
    · exact e
  have hdesk (y : Subject) (hy : y ≠ .inr (.inr l)) :
      (((s.applyPreset l entries).modInst l painting).fullRepaint l).desk y = s.desk y :=
    ((hrepaint.desk y).trans ((State.desk_modInst hj painting y).trans (if_neg hy))).trans (hkept.desk y)
  show Ledger 0 (State.endTransfer (State.postOpen (((s.applyPreset l entries).modInst l painting).fullRepaint l) l .ok _))
  generalize ((s.applyPreset l entries).modInst l painting).fullRepaint l = v at hj' hdesk hqueues
  obtain ⟨hwaiting, -, hbus, hreserved, hanswers⟩ := hqueues
  have hresv : j'.reservation = 4 := hres'.trans (hresj.trans hres)
  unfold State.postOpen
  dsimp only
  rw [State.instOf_of_inst hj', hresv]
  refine h.settledAtEnd hr hl hi (j := j') hj' hdesk ?_ hwaiting hbus ?_ ?_
  · exact Inst.desk_of_waitless (i := { j' with reservation := 0, pendingOpen := none })
      (by
        have hheld'' : j'.heldBuffer = none := hheld'.trans (hheldj.trans hheld)
        have hclose'' : j'.pendingClose = [] := hclose'.trans (hclosej.trans hclose)
        rcases hwait with e | e | e <;> simp [Holds, e, hheld'', hclose'']) hwait l
  · rw [hwords]
    exact congrArg (· - 4) hreserved
  · rw [hwords]
    show (v.answerQueue ++ _).length ≤ _
    rw [List.length_append, length_resultRecord]
    exact Nat.add_le_add hanswers (by decide : 3 ≤ 4)

theorem Ledger.presetFetched {s : State} {r : Request} {l : LineId} (h : Ledger 0 s) (hr : s.transfer = some r)
    (ho : r.owner = .presetFetch l) (img : List Byte) (n : Nat) : Ledger 0 (s.presetFetched l img n).endTransfer := by
  have hl : ownerSubject r.owner = .inr (.inr l) := by rw [ho]; rfl
  obtain ⟨i, hi, hasks⟩ := h.inst_of_transfer hr hl
  obtain ⟨j, hj, hphase⟩ := (asks_preset_iff l (some i)).1 (hasks.trans (congrArg some ho))
  cases hj
  unfold State.presetFetched
  rw [State.instOf_of_inst hi]
  rcases hphase with hp | ⟨hp, hopen⟩
  · rw [if_neg (by rw [hp]; decide)]
    split
    next entries hentries => exact h.presetPassed hr hl hi hp (presetImage_fits hentries)
    · exact h.presetFailed hr hl hi hp _ (Nat.le_refl _)
  · rw [if_pos hp]
    exact h.endClosingPreset hr hl hi hp hopen

theorem Ledger.presetFaulted {s : State} {r : Request} {l : LineId} (h : Ledger 0 s) (hr : s.transfer = some r)
    (ho : r.owner = .presetFetch l) : Ledger 0 (s.presetFaulted l).endTransfer := by
  have hl : ownerSubject r.owner = .inr (.inr l) := by rw [ho]; rfl
  obtain ⟨i, hi, hasks⟩ := h.inst_of_transfer hr hl
  obtain ⟨j, hj, hphase⟩ := (asks_preset_iff l (some i)).1 (hasks.trans (congrArg some ho))
  cases hj
  unfold State.presetFaulted
  rw [State.instOf_of_inst hi]
  rcases hphase with hp | ⟨hp, hopen⟩
  · rw [if_neg (by rw [hp]; decide)]
    exact h.presetFailed hr hl hi hp _ (Nat.zero_le _)
  · rw [if_pos hp]
    exact h.endClosingPreset hr hl hi hp hopen

/-- R131, R132: what a delivery in progress holds. -/
theorem Ledger.delivering {n : Nat} {s : State} (h : Ledger n s) {r : Request} {l : LineId} (hr : s.transfer = some r)
    (ho : r.owner = .delivery l) :
    ∃ i, s.inst l = some i ∧ i.reservation = 6 ∧ (i.phase = .closing ∨ i.phase = .delivering ∧ i.pendingOpen = none ∧ i.pendingClose = []) := by
  obtain ⟨i, hi, hasks⟩ := h.inst_of_transfer (l := l) hr (by rw [ho]; rfl)
  obtain ⟨j, hj, hphase⟩ := (asks_delivery_iff l (some i)).1 (hasks.trans (congrArg some ho))
  cases hj
  have hholds := h.holds hi
  refine ⟨i, hi, ?_⟩
  rcases hphase with hp | ⟨hp, hopen⟩
  · simp only [Holds, hp] at hholds
    exact ⟨hholds.1, .inr ⟨hp, hholds.2.1, hholds.2.2.2⟩⟩
  · simp only [Holds, hp] at hholds
    rcases hholds.1 with ⟨-, hsome, -⟩ | ⟨hres, -, -⟩
    · rw [hopen] at hsome
      cases hsome
    · exact ⟨hres, .inl hp⟩

theorem Ledger.delivered {s : State} {r : Request} {l : LineId} (h : Ledger 0 s) (hr : s.transfer = some r)
    (ho : r.owner = .delivery l) : Ledger 0 (s.delivered l).endTransfer := by
  have hl : ownerSubject r.owner = .inr (.inr l) := by rw [ho]; rfl
  obtain ⟨i, hi, hres, hphase⟩ := h.delivering hr ho
  unfold State.delivered
  dsimp only
  rw [State.instOf_of_inst hi]
  rcases hphase with hp | ⟨hp, hopen, hclose⟩
  · rw [if_pos hp]
    exact h.endClosing hr hl hi hp (hres ▸ Nat.le_refl 6)
  · rw [if_neg (by rw [hp]; decide)]
    have hwords : (i.desk l).words = i.reservation := by simp [Inst.desk, hclose]
    refine Ledger.kept (C := True) ?_ (Kept.endTransfer_congr (Kept.settle _ l))
    refine h.settledAtEnd hr hl hi (j := i) hi (fun _ _ => rfl) ?_ rfl rfl ?_ ?_
    · refine Inst.desk_of_waitless ?_ (.inr (.inr rfl)) l
      exact ⟨rfl, hopen, rfl, hclose⟩
    · rw [hwords]
      rfl
    · rw [hwords, hres]
      show (s.answerQueue ++ deliveredRecord l i false).length ≤ _
      rw [List.length_append]
      exact Nat.le_refl _

theorem Ledger.deliveryFaulted {s : State} {r : Request} {l : LineId} (h : Ledger 0 s) (hr : s.transfer = some r)
    (ho : r.owner = .delivery l) : Ledger 0 (s.deliveryFaulted l).endTransfer := by
  have hl : ownerSubject r.owner = .inr (.inr l) := by rw [ho]; rfl
  obtain ⟨i, hi, hres, hphase⟩ := h.delivering hr ho
  unfold State.deliveryFaulted
  dsimp only
  rw [State.instOf_of_inst hi]
  rcases hphase with hp | ⟨hp, hopen, hclose⟩
  · rw [if_pos hp]
    exact h.endClosing hr hl hi hp (hres ▸ (by decide : 5 ≤ 6))
  · rw [if_neg (by rw [hp]; decide)]
    have hwords : (i.desk l).words = i.reservation := by simp [Inst.desk, hclose]
    refine Ledger.kept (C := True) ?_ (Kept.endTransfer_congr ((Kept.bell _ l).trans (Kept.settle _ l)))
    refine h.settledAtEnd hr hl hi (j := i) hi (fun _ _ => rfl) ?_ rfl rfl ?_ ?_
    · refine Inst.desk_of_waitless ?_ (.inr (.inl rfl)) l
      exact ⟨rfl, hopen, rfl, hclose⟩
    · rw [hwords]
      rfl
    · rw [hwords, hres]
      show (s.answerQueue ++ deliveryFaultRecord l i).length ≤ _
      rw [List.length_append]
      exact Nat.add_le_add_left (by decide : 5 ≤ 6) _

/-! ## The rows -/

theorem Ledger.endRead {s : State} (h : Ledger 0 s) (n : Nat) (bytes : List Byte) {owner : State → List Byte → State}
    (howner : ∀ img, Ledger 0 (s.fillBuffer (bytes.take n)) → Ledger 0 (owner (s.fillBuffer (bytes.take n)) img).endTransfer) :
    Ledger 0 (s.endRead n bytes owner) := by
  unfold State.endRead
  split_ifs
  · exact howner _ (h.kept (C := True) (Kept.fillBuffer s _))
  · exact h

theorem Ledger.transferEnd {s : State} (h : Ledger 0 s) :
    (∀ bytes, Ledger 0 (effectFormFetchEnd bytes s)) ∧ (∀ bytes, Ledger 0 (effectProfileFetchEnd bytes s)) ∧
      (∀ bytes, Ledger 0 (effectPresetFetchEnd bytes s)) ∧ Ledger 0 (effectDeliveryComplete s) := by
  refine ⟨fun bytes => ?_, fun bytes => ?_, fun bytes => ?_, ?_⟩
  · unfold effectFormFetchEnd
    split
    next k a n hr => exact h.endRead n bytes fun img ht => ht.formFetched (r := ⟨.formFetch k, a, n⟩) hr rfl img n
    · exact h
  · unfold effectProfileFetchEnd
    split
    next p a n hr => exact h.endRead n bytes fun img ht => ht.profileFetched (r := ⟨.profileFetch p, a, n⟩) hr rfl img
    · exact h
  · unfold effectPresetFetchEnd
    split
    next l a n hr => exact h.endRead n bytes fun img ht => ht.presetFetched (r := ⟨.presetFetch l, a, n⟩) hr rfl img n
    · exact h
  · unfold effectDeliveryComplete
    split
    next l a n hr => exact (h.kept (C := True) (Kept.writeHost s _ _)).delivered (r := ⟨.delivery l, a, n⟩) hr rfl
    · exact h

theorem Ledger.busFault {s : State} (h : Ledger 0 s) (answered : Nat) (bytes : List Byte) : Ledger 0 (effectBusFault answered bytes s) := by
  unfold effectBusFault
  split
  next r hr =>
    split_ifs
    · have hkept : Kept True True s (s.partialTransfer r answered bytes) := Kept.partialTransfer s r answered bytes
      have ht := h.kept hkept
      obtain ⟨-, htransfer, -⟩ := hkept.queues trivial
      have hr' := htransfer.trans hr
      cases ho : r.owner with
      | formFetch k => exact ht.endLoad hr' ho (new := .empty) rfl _ (Nat.zero_le _)
      | profileFetch p => exact ht.endSetProfile hr' ho _ _ (Nat.zero_le _)
      | presetFetch l => exact ht.presetFaulted hr' ho
      | delivery l => exact ht.deliveryFaulted hr' ho
    · exact h
  · exact h

end Sys2Proof.Machine
end

section
/-! PROOFS. The books and the runs. A run needs the same words whatever the Key Interpreter, the display and the host port hold (R77), so that
it uses no more words than were granted for it (R78). -/

namespace Sys2Proof.Machine

open Sys2Proof.Safety

-- The proofs of the whole text share one memory limit, and each thread takes its part of it.
set_option Elab.async false

variable {C : Prop}

/-! ## What a run depends on -/

/-- The instance of the line, the forms, value memory and the buffer list are the same. -/
structure SameEntry (l : LineId) (s t : State) : Prop where
  inst : t.inst l = s.inst l
  slots : t.slots = s.slots
  values : t.valueMemory = s.valueMemory
  buffers : t.bufferList = s.bufferList

namespace SameEntry

variable {l : LineId} {s t : State}

theorem instOf (h : SameEntry l s t) : t.instOf l = s.instOf l := by rw [State.instOf, State.instOf, h.inst]

theorem formOf (h : SameEntry l s t) : t.formOf l = s.formOf l :=
  State.form_congr h.slots (congrArg Inst.slot h.instOf)

theorem value (h : SameEntry l s t) (n : Nat) : t.value l n = s.value l n := by
  simp only [State.value, State.valueAddress, State.form, State.slot, h.instOf, h.values, h.slots]

theorem address (h : SameEntry l s t) (n : Nat) : t.valueAddress (t.instOf l) n = s.valueAddress (s.instOf l) n := by
  simp only [State.valueAddress, State.form, State.slot, h.instOf, h.slots]

theorem modInst (h : SameEntry l s t) (f : Inst → Inst) : SameEntry l (s.modInst l f) (t.modInst l f) := by
  have hinst : (t.line l).inst = (s.line l).inst := h.inst
  rw [State.modInst_eq, State.modInst_eq]
  refine ⟨?_, h.slots, h.values, h.buffers⟩
  rw [State.inst, State.inst, State.setLine_line_self, State.setLine_line_self, hinst]

theorem modLine (h : SameEntry l s t) {f g : Line → Line} (hf : (f (s.line l)).inst = (s.line l).inst)
    (hg : (g (t.line l)).inst = (t.line l).inst) : SameEntry l (s.modLine l f) (t.modLine l g) := by
  refine ⟨?_, h.slots, h.values, h.buffers⟩
  rw [State.inst, State.inst, State.modLine_line_self, State.modLine_line_self, hf, hg]
  exact h.inst

/-- Changes of the host port, the bus and the waiting-lines queue. -/
theorem of_frame (h : SameEntry l s t) {u v : State} (hl : u.lines = s.lines) (hl' : v.lines = t.lines) (hs : u.slots = s.slots)
    (hs' : v.slots = t.slots) (hv : u.valueMemory = s.valueMemory) (hv' : v.valueMemory = t.valueMemory)
    (hb : u.bufferList = s.bufferList) (hb' : v.bufferList = t.bufferList) : SameEntry l u v := by
  refine ⟨?_, by rw [hs, hs', h.slots], by rw [hv, hv', h.values], by rw [hb, hb', h.buffers]⟩
  rw [State.inst, State.inst, State.line, State.line, hl, hl']
  exact h.inst

theorem setValues (h : SameEntry l s t) (m : Memory) : SameEntry l { s with valueMemory := m } { t with valueMemory := m } :=
  ⟨h.inst, h.slots, rfl, h.buffers⟩

theorem bell (h : SameEntry l s t) : SameEntry l (s.bell l) (t.bell l) := by
  rw [State.bell_eq, State.bell_eq]
  exact h.modLine (f := fun x => { x with bellPending := x.bellPending || !x.detached })
    (g := fun x => { x with bellPending := x.bellPending || !x.detached }) rfl rfl

theorem post (h : SameEntry l s t) (k k' : Nat) (r r' : List Word) : SameEntry l (s.post k r) (t.post k' r') :=
  h.of_frame rfl rfl rfl rfl rfl rfl rfl rfl

theorem recheck (h : SameEntry l s t) (n : Nat) : SameEntry l (s.recheck l n) (t.recheck l n) := by
  unfold State.recheck
  rw [h.formOf, h.value]
  exact h.modInst _

theorem clerkEdit (h : SameEntry l s t) (n : Nat) (v : List Byte) (p pos : Nat) :
    SameEntry l (s.clerkEdit l n v p pos) (t.clerkEdit l n v p pos) := by
  rw [State.clerkEdit_eq, State.clerkEdit_eq, h.values, h.address]
  exact (h.setValues _).modInst _

theorem exitCheck (h : SameEntry l s t) (n : Nat) :
    SameEntry l (s.exitCheck l n).1 (t.exitCheck l n).1 ∧ (t.exitCheck l n).2 = (s.exitCheck l n).2 := by
  refine ⟨?_, ?_⟩
  · rw [State.exitCheck_eq, State.exitCheck_eq]
    have hmemory : t.exitMemory l n = s.exitMemory l n := by
      simp only [State.exitMemory, h.formOf, h.value, h.values, h.address]
    rw [hmemory, h.value, h.formOf]
    exact (h.setValues _).modInst _
  · unfold State.exitCheck
    dsimp only
    rw [h.value, h.formOf]

theorem sweep (ns : List Nat) : ∀ {s t : State}, SameEntry l s t →
    SameEntry l (s.sweep l ns).1 (t.sweep l ns).1 ∧ (t.sweep l ns).2 = (s.sweep l ns).2 := by
  induction ns with
  | nil => exact fun h => ⟨h, rfl⟩
  | cons n ns ih =>
    intro s t h
    have hchecked := h.recheck n
    have hfails : (t.recheck l n).failsSweep l n = (s.recheck l n).failsSweep l n := by
      simp only [State.failsSweep, hchecked.instOf, hchecked.formOf, hchecked.value]
    simp only [State.sweep, hfails]
    split_ifs
    · exact ⟨hchecked, rfl⟩
    · exact ih hchecked

theorem refuse (h : SameEntry l s t) (n : Nat) : SameEntry l (s.refuseSubmission l n) (t.refuseSubmission l n) :=
  (h.modInst _).bell

theorem succeed (h : SameEntry l s t) : SameEntry l (s.succeedSubmission l) (t.succeedSubmission l) := by
  unfold State.succeedSubmission
  have hsent := h.modInst fun i =>
    { i with
      resubmit := i.late
      late := false
      imageSize := imageSizeOf i.fields
      message := []
      messageStale := true
      reservation := Config.deliveredWords }
  revert hsent
  generalize s.modInst l _ = u
  generalize t.modInst l _ = v
  intro hsent
  unfold State.matchSubmission State.startDelivery
  rw [hsent.instOf, hsent.buffers]
  split
  next d rest _ =>
    have hrest : SameEntry l { u with bufferList := rest } { v with bufferList := rest } := ⟨hsent.inst, hsent.slots, hsent.values, rfl⟩
    exact (hrest.modInst _).of_frame rfl rfl rfl rfl rfl rfl rfl rfl
  · exact (hsent.modInst _).of_frame rfl rfl rfl rfl rfl rfl rfl rfl

theorem refresh (h : SameEntry l s t) : SameEntry l (s.refresh l) (t.refresh l) := by
  have hdetached (x : Line) : (if x.detached = true then x else { x with clearPending := true }).inst = x.inst := by
    split_ifs <;> rfl
  exact (((h.modInst _).modLine (hdetached _) (hdetached _))).modInst _

end SameEntry

/-! ## Runs that need the same words -/

/-- Two runs under way on the same entry that have counted the same words. -/
structure RunsAlike (l : LineId) (r r' : Run) : Prop where
  need : r'.need = r.need
  entry : SameEntry l r.state r'.state

namespace RunsAlike

variable {l : LineId} {r r' : Run}

theorem map (h : RunsAlike l r r') {f g : State → State} (hf : SameEntry l (f r.state) (g r'.state)) : RunsAlike l (r.map f) (r'.map g) :=
  ⟨h.need, hf⟩

theorem bell (h : RunsAlike l r r') : RunsAlike l (r.bell l) (r'.bell l) := h.map h.entry.bell

theorem notice (h : RunsAlike l r r') (words : List Word) : RunsAlike l (r.notice words) (r'.notice words) :=
  ⟨congrArg (· + words.length) h.need, h.entry.post _ _ _ _⟩

theorem count (h : RunsAlike l r r') : RunsAlike l r.countSubmission r'.countSubmission :=
  ⟨congrArg (· + Config.deliveredWords) h.need, h.entry⟩

theorem leaveFor (h : RunsAlike l r r') (n m : Nat) : RunsAlike l (r.leaveFor l n m) (r'.leaveFor l n m) := by
  have hexit : RunsAlike l (r.fieldExit l n) (r'.fieldExit l n) := by
    unfold Run.fieldExit
    rw [h.entry.formOf, h.entry.instOf]
    split_ifs
    · exact h.notice _
    · exact h
  exact hexit.map (hexit.entry.modInst _)

theorem sweepAndSubmit (h : RunsAlike l r r') : RunsAlike l (r.sweepAndSubmit l) (r'.sweepAndSubmit l) := by
  unfold Run.sweepAndSubmit
  rw [h.entry.instOf, h.entry.formOf]
  obtain ⟨hentry, hfound⟩ := h.entry.sweep ((r.state.instOf l).openFields (r.state.formOf l))
  revert hentry hfound
  generalize r.state.sweep l _ = p
  generalize r'.state.sweep l _ = q
  obtain ⟨s, found⟩ := p
  obtain ⟨t, found'⟩ := q
  rintro hentry rfl
  cases found' with
  | none => exact ⟨h.need, hentry.succeed⟩
  | some n => exact ⟨h.need, hentry.refuse n⟩

theorem submit (h : RunsAlike l r r') : RunsAlike l (r.submit l) (r'.submit l) := by
  unfold Run.submit
  rw [h.entry.instOf]
  split
  · exact h.count.sweepAndSubmit
  next n _ =>
    obtain ⟨hentry, hpassed⟩ := h.entry.exitCheck n
    revert hentry hpassed
    generalize r.state.exitCheck l n = p
    generalize r'.state.exitCheck l n = q
    obtain ⟨s, passed⟩ := p
    obtain ⟨t, passed'⟩ := q
    rintro hentry rfl
    have hcounted : RunsAlike l { r.countSubmission with state := s } { r'.countSubmission with state := t } := ⟨h.count.need, hentry⟩
    cases passed' with
    | true => exact hcounted.sweepAndSubmit
    | false => exact hcounted.bell

theorem forward (h : RunsAlike l r r') (n : Nat) : RunsAlike l (r.forward l n) (r'.forward l n) := by
  unfold Run.forward
  rw [h.entry.instOf, h.entry.formOf]
  split
  · exact h.leaveFor _ _
  · split
    · exact h.bell
    · exact h.leaveFor _ _
    · exact h.count.sweepAndSubmit

theorem next (h : RunsAlike l r r') (n : Nat) : RunsAlike l (r.next l n) (r'.next l n) := by
  unfold Run.next
  obtain ⟨hentry, hpassed⟩ := h.entry.exitCheck n
  revert hentry hpassed
  generalize r.state.exitCheck l n = p
  generalize r'.state.exitCheck l n = q
  obtain ⟨s, passed⟩ := p
  obtain ⟨t, passed'⟩ := q
  rintro hentry rfl
  have hchecked : RunsAlike l { r with state := s } { r' with state := t } := ⟨h.need, hentry⟩
  cases passed' with
  | true => exact hchecked.forward n
  | false => exact hchecked.bell

theorem prev (h : RunsAlike l r r') (n : Nat) : RunsAlike l (r.prev l n) (r'.prev l n) := by
  unfold Run.prev
  rw [h.entry.instOf, h.entry.formOf]
  split
  · exact h.leaveFor _ _
  · split
    · exact h.leaveFor _ _
    · exact h.bell

theorem char (h : RunsAlike l r r') (n : Nat) (c : Byte) : RunsAlike l (r.char l n c) (r'.char l n c) := by
  unfold Run.char
  dsimp only
  rw [h.entry.instOf, h.entry.formOf, h.entry.value]
  split
  · split
    next v _ =>
      have hedit := h.entry.clerkEdit n v (r.state.instOf l).cursorPos ((r.state.instOf l).cursorPos + 1)
      have hadvance : (r'.state.clerkEdit l n v (r.state.instOf l).cursorPos ((r.state.instOf l).cursorPos + 1)).autoAdvances l n =
          (r.state.clerkEdit l n v (r.state.instOf l).cursorPos ((r.state.instOf l).cursorPos + 1)).autoAdvances l n := by
        simp only [State.autoAdvances, hedit.instOf, hedit.formOf]
      have hrun : RunsAlike l { r with state := r.state.clerkEdit l n v (r.state.instOf l).cursorPos ((r.state.instOf l).cursorPos + 1) }
          { r' with state := r'.state.clerkEdit l n v (r.state.instOf l).cursorPos ((r.state.instOf l).cursorPos + 1) } :=
        ⟨h.need, hedit⟩
      rw [hadvance]
      by_cases hfull : (r.state.clerkEdit l n v (r.state.instOf l).cursorPos ((r.state.instOf l).cursorPos + 1)).autoAdvances l n = true
      · rw [if_pos hfull, if_pos hfull]
        exact hrun.next n
      · rw [if_neg hfull, if_neg hfull]
        exact hrun
    · exact h.bell
  · exact h.bell

theorem onField (h : RunsAlike l r r') (n : Nat) (a : Action) : RunsAlike l (r.onField l n a) (r'.onField l n a) := by
  have hmove (pos : Nat) : RunsAlike l (r.map fun s => s.moveCursor l pos) (r'.map fun s => s.moveCursor l pos) :=
    h.map (h.entry.modInst _)
  have hedit (v : List Byte) (p pos : Nat) :
      RunsAlike l (r.map fun s => s.clerkEdit l n v p pos) (r'.map fun s => s.clerkEdit l n v p pos) := h.map (h.entry.clerkEdit n v p pos)
  unfold Run.onField
  dsimp only
  rw [h.entry.instOf, h.entry.value]
  split
  · exact h.next n
  · exact h.prev n
  · split_ifs
    · exact h.bell
    · exact hmove _
  · split_ifs
    · exact h.bell
    · exact hmove _
  · exact hmove _
  · exact hmove _
  · split_ifs
    · exact h.bell
    · exact hedit _ _ _
  · split_ifs
    · exact h.bell
    · exact hedit _ _ _
  · split_ifs
    · exact h
    · exact hedit _ _ _
  · exact h.map (h.entry.modInst _)
  · exact h

theorem inEditing (h : RunsAlike l r r') (e : Elem) : RunsAlike l (r.inEditing l e) (r'.inEditing l e) := by
  have hhelp : r'.state.helpCode l = r.state.helpCode l := by simp only [State.helpCode, h.entry.instOf, h.entry.formOf]
  unfold Run.inEditing
  split
  · exact h
  · exact h.submit
  · rw [h.entry.instOf]
    exact h.notice _
  · rw [h.entry.instOf, hhelp]
    exact h.notice _
  · exact h.map h.entry.refresh
  · dsimp only
    rw [h.entry.instOf]
    split
    · exact h.onField _ _
    · exact h.bell
  · dsimp only
    rw [h.entry.instOf]
    split
    · exact h.char _ _
    · exact h.bell

theorem elem (h : RunsAlike l r r') (e : Elem) : RunsAlike l (r.elem l e) (r'.elem l e) := by
  have hphase : RunsAlike l (r.byPhase l e) (r'.byPhase l e) := by
    have hawaits : RunsAlike l (if e = .action .refresh then r.map fun s => s.refresh l else r.bell l)
        (if e = .action .refresh then r'.map fun s => s.refresh l else r'.bell l) := by
      split_ifs
      · exact h.map h.entry.refresh
      · exact h.bell
    unfold Run.byPhase
    rw [h.entry.instOf]
    split
    · exact h.inEditing e
    · exact hawaits
    · exact hawaits
    · exact hawaits
    · exact h
  unfold Run.elem
  rw [h.entry.instOf]
  exact hphase.map (hphase.entry.modInst _)

theorem applyRun {s t : State} (h : SameEntry l s t) (es : List Elem) : RunsAlike l (s.applyRun l es) (t.applyRun l es) := by
  have hfold : ∀ r r' : Run, RunsAlike l r r' → RunsAlike l (es.foldl (Run.elem l) r) (es.foldl (Run.elem l) r') := by
    induction es with
    | nil => exact fun r r' h => h
    | cons e es ih => exact fun r r' h => ih _ _ (h.elem e)
  exact hfold _ _ ⟨rfl, h⟩

end RunsAlike

/-! ## The words a run uses -/

/-- An instance that is not that of an empty line. -/
theorem State.inst_of_editing {s : State} {l : LineId} (h : (s.instOf l).phase = .editing) :
    ∃ i, s.inst l = some i ∧ i.phase = .editing := by
  cases hi : s.inst l with
  | none =>
    rw [State.instOf, hi] at h
    cases h
  | some i =>
    rw [State.instOf_of_inst hi] at h
    exact ⟨i, rfl, h⟩

/-- The instance after an operation on it. -/
theorem State.inst_modInst {s : State} {l : LineId} {i : Inst} (hi : s.inst l = some i) (f : Inst → Inst) :
    (s.modInst l f).inst l = some (f i) := by
  have hline : (s.line l).inst = some i := hi
  rw [State.modInst_eq, State.inst, State.setLine_line_self, hline]
  rfl

/-- R123, R128: a submission that succeeds keeps its six words for the notice, and waits for a buffer or for its delivery. -/
theorem Ledger.succeed {n : Nat} {s : State} {l : LineId} (h : Ledger (n + 6) s) (hp : (s.instOf l).phase = .editing) :
    Ledger n (s.succeedSubmission l) := by
  obtain ⟨i, hi, hp⟩ := State.inst_of_editing hp
  have hholds := h.holds hi
  have hidle : s.desk (.inr (.inr l)) = .idle := (State.desk_line hi).trans (Inst.desk_of_waitless hholds (.inr (.inl hp)) l)
  simp only [Holds, hp] at hholds
  obtain ⟨-, hopen, hheld, hclose⟩ := hholds
  let sent : Inst → Inst := fun i =>
    { i with
      resubmit := i.late
      late := false
      imageSize := imageSizeOf i.fields
      message := []
      messageStale := true
      reservation := Config.deliveredWords }
  have hsent := State.inst_modInst hi sent
  have hdesk (y : Subject) := State.desk_modInst hi sent y
  have hqueues := State.modInst_queues s l sent
  show Ledger n ((s.modInst l sent).matchSubmission l)
  generalize s.modInst l sent = u at hsent hdesk hqueues
  have hroom := h.room
  unfold State.matchSubmission
  split
  next d rest _ =>
    unfold State.startDelivery
    let gone : Inst → Inst := fun i => { i with phase := .delivering, heldBuffer := some d }
    have hdesk' (y : Subject) := State.desk_modInst (s := { u with bufferList := rest }) hsent gone y
    have hqueues' := hqueues.trans (State.modInst_queues { u with bufferList := rest } l gone)
    show Ledger n ((State.modInst { u with bufferList := rest } l gone).placeRequest _)
    generalize State.modInst { u with bufferList := rest } l gone = v at hdesk' hqueues'
    obtain ⟨hwaiting, htransfer, hbus, hreserved, hanswers⟩ := hqueues'
    have hnew := (hdesk' (.inr (.inr l))).trans (if_pos rfl)
    refine h.place (t := v.placeRequest ⟨.delivery l, _, _⟩) (r := ⟨.delivery l, _, _⟩)
      (fun y hy => ((hdesk' y).trans (if_neg hy)).trans ((hdesk y).trans (if_neg hy))) hidle (congrArg Desk.asks hnew)
      (congrArg Desk.waits hnew) (congrArg Desk.runs hnew) ((congrArg Desk.sound hnew).mpr ⟨rfl, hopen, rfl, hclose⟩)
      (congrArg (· ++ _) hbus) htransfer hwaiting ?_ ?_
    · have hwords : (v.desk (.inr (.inr l))).words = 6 := by
        rw [hnew]
        simp [Inst.desk, gone, sent, hclose, Config.deliveredWords]
      show v.reserved + (n + 6) = s.reserved + (v.desk (.inr (.inr l))).words + n
      omega
    · show v.answerQueue.length + v.reserved ≤ 256
      omega
  · let waiting : Inst → Inst := fun i => { i with phase := .awaitBuffer }
    have hdesk' (y : Subject) := State.desk_modInst hsent waiting y
    have hqueues' := hqueues.trans (State.modInst_queues u l waiting)
    have hqueue : u.waiting = s.waiting := hqueues.1
    rw [hqueue]
    show Ledger n { u.modInst l waiting with waiting := s.waiting ++ [l] }
    generalize u.modInst l waiting = v at hdesk' hqueues'
    obtain ⟨-, htransfer, hbus, hreserved, hanswers⟩ := hqueues'
    have hnew : ({ v with waiting := s.waiting ++ [l] } : State).desk (.inr (.inr l)) = (waiting (sent i)).desk l :=
      (hdesk' _).trans (if_pos rfl)
    have howners : ({ v with waiting := s.waiting ++ [l] } : State).owners = s.owners := by
      simp only [State.owners, htransfer, hbus]
    have hout : l ∉ s.waiting := fun hm => by
      have := (h.waiting l).1 hm
      rw [hidle] at this
      cases this
    have hwords : ((waiting (sent i)).desk l).words = 6 := by simp [Inst.desk, waiting, sent, hclose, Config.deliveredWords]
    refine h.update (x := .inr (.inr l)) (fun y hy => ((hdesk' y).trans (if_neg hy)).trans ((hdesk y).trans (if_neg hy)))
      (fun o _ => by rw [howners]) (howners ▸ h.once) (fun o ho => ?_) ?_ (fun m hm => ?_) (fun m hm => ?_)
      (fun o _ e => (congrArg (Option.map Request.owner) htransfer).trans e) (fun e => ?_) ?_ ?_ ?_
    · rw [howners, hnew]
      refine (h.asked o).trans ?_
      rw [ho, hidle]
      exact Iff.rfl
    · refine List.nodup_append.2 ⟨h.nodup, List.nodup_singleton _, fun m hm m' hm' e => hout ?_⟩
      rwa [← List.mem_singleton.1 hm', ← e]
    · show m ∈ s.waiting ++ [l] ↔ _
      rw [List.mem_append, List.mem_singleton]
      exact ⟨fun hm' => hm'.resolve_right fun e => hm (by rw [e]), .inl⟩
    · rw [hnew]
      show m ∈ s.waiting ++ [l] ↔ _
      have hml : m = l := Sum.inr.inj (Sum.inr.inj hm)
      simp [hml, Inst.desk, waiting]
    · rw [hnew] at e
      simp [Inst.desk, waiting] at e
    · rw [hnew]
      exact ⟨rfl, hopen, hheld, hclose⟩
    · rw [hnew, hwords, hidle]
      show v.reserved + 0 + (n + 6) = s.reserved + 6 + n
      omega
    · show v.answerQueue.length + v.reserved ≤ 256
      omega

/-- R77, R78: a run uses no more words than it counts, and accounts for them where it has been granted as many. -/
def Accounted (w : Nat) (r : Run) : Prop := r.used ≤ r.need ∧ (r.need ≤ w → Ledger (w - r.used) r.state)

theorem Accounted.kept {w : Nat} {r : Run} {t : State} (h : Accounted w r) (hk : Kept True False r.state t) :
    Accounted w { r with state := t } := ⟨h.1, fun hw => (h.2 hw).kept hk⟩

theorem runClosed_accounted (l : LineId) (w : Nat) : RunClosed l (Accounted w) where
  bell _ h := h.kept (Kept.bell _ l)
  notice r words h := by
    obtain ⟨hused, hledger⟩ := h
    have hk : r.used + words.length ≤ r.need + words.length := Nat.add_le_add_right hused _
    refine ⟨hk, fun hw => ?_⟩
    have hw' : r.need + words.length ≤ w := hw
    have hgranted := hledger (by omega)
    rw [show w - r.used = w - (r.used + words.length) + words.length by omega] at hgranted
    exact hgranted.post (Nat.le_refl _)
  enter _ _ _ _ _ _ h := h.kept (Kept.enterField False.elim)
  exitCheck _ _ _ _ h := h.kept (Kept.exitCheck False.elim)
  count r h := ⟨h.1.trans (Nat.le_add_right _ _), fun hw => h.2 (Nat.le_of_add_right_le hw)⟩
  recheck _ n _ h := h.kept (Kept.recheck _ l n)
  refuse _ _ _ _ h := h.kept (Kept.refuseSubmission False.elim)
  succeed r hp h := by
    obtain ⟨hused, hledger⟩ := h
    refine ⟨Nat.add_le_add_right hused _, fun hw => ?_⟩
    have hw' : r.need + 6 ≤ w := hw
    have hgranted := hledger (by omega)
    rw [show w - r.used = w - (r.used + 6) + 6 by omega] at hgranted
    exact hgranted.succeed hp
  edit _ _ _ _ _ _ _ hv hpos h := h.kept (Kept.clerkEdit False.elim False.elim hv.symm hpos)
  move _ _ _ _ _ _ h := h.kept (Kept.modInst fun _ _ => ⟨rfl, rfl, fun _ h => h, fun _ => ⟨rfl, rfl, rfl, rfl, .inl rfl⟩, False.elim⟩)
  toggle _ _ _ h := h.kept (Kept.modInst_core fun _ => rfl)
  repaint _ _ _ h := h.kept (Kept.refresh _ l)
  noted _ _ h := h.kept (Kept.modInst_core fun _ => rfl)

/-- R77, R78: the run of a release, on a line whose Key Interpreter alone has changed. -/
theorem Ledger.applyRun {w : Nat} {s t : State} {l : LineId} (ht : Ledger w t) (hentry : SameEntry l s t) {es : List Elem}
    (hneed : s.runNeed l es ≤ w) : Accounted w (t.applyRun l es) ∧ Ledger (w - (t.applyRun l es).used) (t.applyRun l es).state := by
  have haccounted : Accounted w (t.applyRun l es) := (runClosed_accounted l w).applyRun es ⟨Nat.le_refl 0, fun _ => ht⟩
  refine ⟨haccounted, haccounted.2 ?_⟩
  rw [(RunsAlike.applyRun hentry es).need]
  exact hneed

theorem SameEntry.refl (l : LineId) (s : State) : SameEntry l s s := ⟨rfl, rfl, rfl, rfl⟩

/-- A change of the line that leaves its instance leaves the entry. -/
theorem SameEntry.ofLine {l : LineId} {s t : State} (h : SameEntry l s t) {f : Line → Line}
    (hf : (f (t.line l)).inst = (t.line l).inst) : SameEntry l s (t.modLine l f) := by
  refine ⟨?_, h.slots, h.values, h.buffers⟩
  rw [State.inst, State.modLine_line_self, hf]
  exact h.inst

theorem SameEntry.afterRelease {l : LineId} {s t : State} (h : SameEntry l s t) (rel : Released) :
    SameEntry l s (t.afterRelease l rel) := by
  have hkeys := h.ofLine (f := fun x => { x with pendingKeys := rel.pending, gapTimer := .stopped, releaseDue := false }) rfl
  unfold State.afterRelease
  dsimp only
  split_ifs
  · rw [State.bell_eq]
    exact hkeys.ofLine (f := fun x => { x with bellPending := x.bellPending || !x.detached }) rfl
  · exact hkeys

/-- R78: what is considered is taken within the words granted for it. -/
theorem Ledger.takeConsidered {w : Nat} {s : State} {l : LineId} {rel : Released} (h : Ledger w s) (hneed : s.runNeed l rel.run ≤ w) :
    (s.takeConsidered l rel).used ≤ w ∧ Ledger (w - (s.takeConsidered l rel).used) (s.takeConsidered l rel).state := by
  have hrun {t : State} (ht : Ledger w t) (hentry : SameEntry l s t) :
      (t.applyRelease l rel).used ≤ w ∧ Ledger (w - (t.applyRelease l rel).used) (t.applyRelease l rel).state := by
    obtain ⟨⟨hused, -⟩, hledger⟩ := Ledger.applyRun (ht.kept (C := True) (Kept.afterRelease t l rel)) (hentry.afterRelease rel) hneed
    have halike := (RunsAlike.applyRun (hentry.afterRelease rel) rel.run).need
    refine ⟨hused.trans ?_, hledger⟩
    rw [halike]
    exact hneed
  unfold State.takeConsidered
  split_ifs
  · exact hrun h (SameEntry.refl l s)
  · obtain ⟨hused, hledger⟩ := hrun (h.kept (C := True) (Kept.dropHead s l))
      ((SameEntry.refl l s).ofLine (f := fun x => { x with typeAhead := x.typeAhead.drop 1 }) rfl)
    exact ⟨hused, hledger.kept (C := True) (Kept.modInst_core fun _ => rfl)⟩

theorem Ledger.byteTaken {s : State} (h : Ledger 0 s) (l : LineId) : Ledger 0 (s.byteTaken l) := by
  unfold State.byteTaken
  split_ifs
  · exact h.kept (C := True) (Kept.dropHead s l)
  · split
    next rel _ =>
      split_ifs with hfree
      · have hneed : s.runNeed l rel.run = 0 := by
          simp only [State.takesFreely, Bool.and_eq_true, decide_eq_true_eq] at hfree
          exact hfree.1.2
        obtain ⟨-, hledger⟩ := h.takeConsidered (Nat.le_of_eq hneed)
        rw [Nat.zero_sub] at hledger
        exact hledger.kept (C := True) (Kept.settle _ l)
      · exact h.kept (C := True) (Kept.settle s l)
    · exact h

theorem Ledger.gapExpired {s : State} (h : Ledger 0 s) (l : LineId) : Ledger 0 (s.gapExpired l) := by
  unfold State.gapExpired
  dsimp only
  split_ifs with hneed
  · obtain ⟨-, hledger⟩ := Ledger.applyRun (h.kept (C := True) (Kept.afterRelease s l _)) ((SameEntry.refl l s).afterRelease _)
      (Nat.le_of_eq hneed)
    rw [Nat.zero_sub] at hledger
    exact hledger.kept (C := True) (Kept.settle _ l)
  · refine h.kept (C := True) (Kept.trans ?_ (Kept.settle _ l))
    exact Kept.ofLine rfl rfl rfl id (Nat.le_refl _)

theorem Ledger.useKeyGrant {w : Nat} {s : State} (h : Ledger w s) (l : LineId) : Ledger 0 (s.useKeyGrant l w) := by
  have hrelease : Ledger 0 (s.release w) := Ledger.release (by rwa [Nat.zero_add])
  unfold State.useKeyGrant
  split
  next rel _ =>
    split_ifs with hcovered
    · obtain ⟨-, hledger⟩ := h.takeConsidered hcovered.2
      exact Ledger.release (by rwa [Nat.zero_add])
    · exact hrelease
  · exact hrelease

/-- R189: the words of the claim that is granted next fit the free room. -/
theorem Ledger.granted {s : State} (h : Ledger 0 s) {c : Claimant} {n : Nat} (hnext : s.nextGrant = some (c, n)) (g : Claimant) :
    Ledger n (s.grant g n) := by
  simpa using h.grant g ((State.nextGrant_eq_some_iff s _ _).1 hnext).2.2

theorem Ledger.keyClaimGrant {s : State} (h : Ledger 0 s) (l : LineId) : Ledger 0 (effectKeyClaimGrant l s) := by
  unfold effectKeyClaimGrant
  split
  next m words n hnext _ =>
    split_ifs
    · refine Ledger.kept (C := True) (Ledger.useKeyGrant ?_ l) (Kept.settle _ l)
      refine (h.granted hnext (.line l)).kept (C := True) ?_
      exact Kept.ofLine rfl rfl rfl id (Nat.le_refl _)
    · exact h
  · exact h

/-- R167: an event record has the words its claim asks for. -/
theorem length_lineEventRecord (l : LineId) (x : Line) : (lineEventRecord l x).length = 4 := by
  unfold lineEventRecord
  split_ifs <;> rfl

theorem Ledger.lineEvent {s : State} (h : Ledger 0 s) (l : LineId) : Ledger 0 (effectLineEvent l s) := by
  unfold effectLineEvent
  split
  next m words hnext hclaim =>
    split_ifs with hm
    · have hwords : words = 4 := by
        have := ((State.nextGrant_eq_some_iff s _ _).1 hnext).2.1
        rw [hm, State.claimOf, hclaim] at this
        exact (Option.some.inj this).symm
      refine Ledger.kept (C := True) (Ledger.post (n := 0) ?_ ?_) ((Kept.afterEvent _ l).trans (Kept.settle _ l))
      · rw [Nat.zero_add]
        exact h.granted hnext (.line l)
      · rw [length_lineEventRecord, hwords]
    · exact h
  · exact h

theorem Ledger.postOwed {s : State} (h : Ledger 0 s) : Ledger 0 s.postOwed := by
  unfold State.postOwed
  split
  next words tag st n hnext howed =>
    refine Ledger.kept (C := True) ?_ (Kept.assemble _)
    have hclaim := ((State.nextGrant_eq_some_iff s _ _).1 hnext).2.1
    have hwords : words = 2 := by
      unfold State.owedResult at howed
      split at howed
      next _ _ hassembler =>
        rw [State.claimOf, hassembler] at hclaim
        exact (Option.some.inj hclaim).symm
      next _ hassembler =>
        rw [State.claimOf, hassembler] at hclaim
        exact (Option.some.inj hclaim).symm
      · cases howed
    rw [hwords] at hnext
    have hgranted := h.granted hnext .commandUnit
    refine Ledger.post (n := 0) (k := 2) ?_ (Nat.le_refl _)
    exact hgranted.congr (fun _ => rfl) rfl rfl rfl rfl hgranted.room
  · exact h

end Sys2Proof.Machine
end

section
/-! PROOFS. Every row and every step keeps the books, and the cursors with them (R83, R127, R168, R187). -/

namespace Sys2Proof.Machine

open Sys2Proof.Safety

-- The proofs of the whole text share one memory limit, and each thread takes its part of it.
set_option Elab.async false

/-- What the books and the cursors rest on. -/
structure Accounts (s : State) : Prop where
  whole : Stands WholeOn s
  books : Ledger 0 s

/-- Every row that leaves the part state keeps the books. -/
theorem Accounts.ledger {s : State} (h : Accounts s) {row : Instr} (hrow : changesPart row = false) : Ledger 0 (s.effect row) := by
  obtain ⟨hs, hl⟩ := h
  have hkept {t : State} (hk : Kept True True s t) : Ledger 0 t := hl.kept hk
  have hcode {c : Command} {k : CommandCode} (h : (c.code == k) = true) : c.code = k := by simpa using h
  have hcode' {c : Command} {k : CommandCode} {b : Bool} (h : (c.code == k && b) = true) : c.code = k :=
    hcode (Bool.and_eq_true_iff.1 h).1
  have hreplied {accepts : Command → Bool} {act : Command → State → State}
      (hact : ∀ c t, accepts c = true → Replied True c.code.reservation t (act c t)) : Ledger 0 (s.takeCommand accepts act) :=
    hl.taken hs fun c t ha _ ht => ht.replied (hact c t ha)
  obtain ⟨hform, hprofile, hpreset, hdelivery⟩ := hl.transferEnd
  cases row with
  | powerOnReset => cases hrow
  | portReset value answered => cases hrow
  | selfCheckEnd v b p => cases hrow
  | dataWrite w => exact hkept (Kept.writeData s w)
  | dataRead => exact hkept (Kept.readData s)
  | setInterruptEnables c => exact hkept (Kept.writeControl s c)
  | clearStateChangeFlag c => exact hkept (Kept.writeControl s _)
  | clearOverflow c => exact hkept (Kept.writeControl s _)
  | assemblyTimerExpiry => exact hkept (Kept.truncateCommand s)
  | assemblyResultPost => exact hl.postOwed
  | loadForm => exact hl.taken hs fun _ _ hc _ ht => ht.loadForm (hcode hc)
  | discardForm => exact hl.taken hs fun _ _ _ _ ht => ht.discardForm
  | queryForm => exact hl.taken hs fun _ _ hc hw ht => ht.queryForm (hcode hc) hw
  | setProfile => exact hl.taken hs fun _ _ hc _ ht => ht.setProfile (hcode hc)
  | configureLine => exact hl.taken hs fun _ _ _ _ ht => ht.configureLine
  | enableLine => exact hl.taken hs fun _ _ _ _ ht => ht.enableLine
  | disableLine => exact hl.taken hs fun _ _ _ _ ht => ht.disableLine
  | queryLine => exact hreplied fun _ t hc => Replied.queryLine (hcode hc) t
  | resetLine => exact hl.taken hs fun _ _ hc _ ht => ht.resetLine (hcode hc)
  | openForm => exact hl.taken hs fun _ _ hc _ ht => ht.openForm (hcode hc)
  | closeForm => exact hl.taken hs fun _ _ hc _ ht => ht.closeForm (hcode hc)
  | clearEntry => exact hreplied fun _ t hc => Replied.clearEntry (hcode hc) t
  | holdInput => exact hreplied fun c t _ => Replied.holdInput c t
  | resumeInput => exact hreplied fun c t _ => Replied.resumeInput c t
  | readField => exact hl.taken hs fun _ _ hc hw ht => ht.readField (hcode hc) hw
  | writeField => exact hreplied fun _ t hc => Replied.writeField (hcode hc) t
  | setFieldStateProtect => exact hreplied fun _ t hc => Replied.setFieldState (hcode' hc) t
  | setFieldStateUnprotect => exact hreplied fun _ t hc => Replied.setFieldState (hcode' hc) t
  | setFieldStateDefined => exact hreplied fun _ t hc => Replied.setFieldState (hcode' hc) t
  | setFieldStateMark => exact hreplied fun _ t hc => Replied.setFieldState (hcode' hc) t
  | setFieldStateUnmark => exact hreplied fun _ t hc => Replied.setFieldState (hcode' hc) t
  | placeCursor => exact hreplied fun _ t hc => Replied.placeCursor (hcode hc) t
  | showMessage => exact hreplied fun c t _ => Replied.showMessage c t
  | repaint => exact hreplied fun c t _ => Replied.repaint c t
  | postBuffer => exact hl.taken hs fun _ _ hc _ ht => ht.postBuffer (hcode hc)
  | withdrawBuffers => exact hreplied fun _ t hc => Replied.withdrawBuffers (hcode hc) t
  | acceptEntryClose => exact hl.taken hs fun _ _ hc _ ht => ht.acceptEntry (hcode' hc)
  | acceptEntryRenew => exact hl.taken hs fun _ _ hc _ ht => ht.acceptEntry (hcode' hc)
  | returnEntry => exact hl.taken hs fun _ _ hc _ ht => ht.returnEntry (hcode hc)
  | queryPart => exact hreplied fun _ t hc => Replied.queryPart (hcode hc) t
  | transferStart => exact hl.startTransfer
  | formFetchEnd bytes => exact hform bytes
  | profileFetchEnd bytes => exact hprofile bytes
  | presetFetchEnd bytes => exact hpreset bytes
  | deliveryComplete => exact hdelivery
  | busFault answered bytes => exact hl.busFault answered bytes
  | characterReceived l c => exact hkept (Kept.characterReceived s l c)
  | breakEnd l => exact hkept (Kept.breakEnd s l)
  | readyInputChange l present => exact hkept (Kept.readyInputChange s l present)
  | settleTimerExpiry l =>
    show Ledger 0 (effectSettleTimerExpiry l s)
    unfold effectSettleTimerExpiry
    split_ifs
    · exact hkept (Kept.settleExpired s l)
    · exact hl
  | stallTimerExpiry l => exact hkept (Kept.stallTimerExpiry s l)
  | byteTransmitStart l => exact hkept (Kept.byteTransmitStart s l)
  | byteTaken l => exact hl.byteTaken l
  | gapTimerExpiry l =>
    show Ledger 0 (effectGapTimerExpiry l s)
    unfold effectGapTimerExpiry
    split_ifs
    · exact hl.gapExpired l
    · exact hl
  | keyClaimGrant l => exact hl.keyClaimGrant l
  | lineEvent l => exact hl.lineEvent l
  | inactivityTimerExpiry l => exact hkept (Kept.inactivityTimerExpiry s l)
  | verdictTimerExpiry l => exact hkept (Kept.verdictTimerExpiry s l)
  | unitComposition l => exact hkept (Kept.compose s l)
  | receivedStreamIdleSeen l => exact hkept (Kept.streamIdleSeen s l)

/-- R179: after a reset nothing is held or waited for. -/
theorem Ledger.resetBy (s : State) (cause : ResetCause) : Ledger 0 (s.resetBy cause) := by
  refine (Ledger.of_booked booked_reset).congr (fun y => ?_) rfl rfl rfl rfl (by decide : 0 + 0 ≤ 256)
  rcases y with k | p | l
  · simp only [State.desk, State.resetBy_slot, State.reset_slot]
  · simp only [State.desk, State.resetBy_profileSlot, State.reset_profileSlot]
  · simp only [State.desk, State.resetBy_inst, State.reset_inst]

theorem Accounts.effect {s : State} (h : Accounts s) (row : Instr) : Accounts (s.effect row) := by
  refine ⟨rowClosed_recordsWhole.effect s row h.whole, ?_⟩
  by_cases hrow : changesPart row = false
  · exact h.ledger hrow
  · cases row
    case powerOnReset => exact Ledger.resetBy s .power
    case portReset value answered => exact Ledger.resetBy _ .port
    case selfCheckEnd v b p =>
      show Ledger 0 (effectSelfCheckEnd v b p s)
      unfold effectSelfCheckEnd
      split
      · exact h.books.congr (fun _ => rfl) rfl rfl rfl rfl h.books.room
      · exact h.books
    all_goals exact absurd rfl hrow

/-- R83: an instance whose preset fetch is in progress is in PRESETTING or CLOSING. -/
theorem Accounts.fetchesPresets {s : State} (h : Accounts s) : FetchesPresets s := by
  intro l a n hr hclosing
  obtain ⟨i, hi, hasks⟩ := h.books.inst_of_transfer (l := l) hr rfl
  obtain ⟨j, hj, hphase⟩ := (asks_preset_iff l (some i)).1 hasks
  cases hj
  rw [State.instOf_of_inst hi] at hclosing ⊢
  exact hphase.resolve_right fun e => hclosing e.1

/-- R83: the cursor of an instance just opened stands at the start of the first unprotected field. -/
theorem cursorFine_openedRecord (d : FormDef) (k : SlotId) (serial : Word) (base : Nat) (phase : Phase) :
    CursorFine d (openedRecord d k serial base phase) := by
  let i : Inst := { openedInst k serial ⟨base, d.extentSize⟩ phase with fields := freshFields d none }
  have h := cursorFine_enterFirst (d := d) (i := i) (by simp [i, freshFields])
  rw [Inst.enterFirst_opening (by simp [i, freshFields, FormDef.fieldNumbers, openingRec])] at h
  exact ⟨h.1, h.2⟩

theorem opClosed_cursors : OpClosed True (Stands CursorFine) :=
  opClosed_stands (fun _ _ _ _ hij h => hij.cursor trivial h) fun d k serial base phase _ => cursorFine_openedRecord d k serial base phase

/-- The books with the cursors. -/
structure CursorsFine (s : State) : Prop where
  accounts : Accounts s
  cursors : Stands CursorFine s

theorem CursorsFine.effect {s : State} (h : CursorsFine s) (row : Instr) : CursorsFine (s.effect row) := by
  refine ⟨h.accounts.effect row, ?_⟩
  by_cases hrow : changesPart row = false
  · exact opClosed_cursors.effect s hrow (fun _ => h.accounts.fetchesPresets) h.cursors
  · cases row
    case powerOnReset => exact h.cursors.reset .power
    case portReset value answered => exact (opClosed_cursors.kept _ _ (Kept.abandonTransfer s answered) h.cursors).reset .port
    case selfCheckEnd v b p =>
      show Stands CursorFine (effectSelfCheckEnd v b p s)
      unfold effectSelfCheckEnd
      split
      · exact h.cursors.selfCheck _ _
      · exact h.cursors
    all_goals exact absurd rfl hrow

/-- R83: the cursors of a state with its records stand as R83 says. -/
theorem stands_cursorFine_iff {s : State} (h : Stands WholeOn s) : Stands CursorFine s ↔ CursorWithin s := by
  refine ⟨fun hs l i n hi hn => (hs.inst l i hi).2 n hn, fun hc => ⟨h.counts, h.sound, fun l i hi => ⟨(h.inst l i hi).1.1, ?_⟩⟩⟩
  exact fun n hn => hc l i n hi hn

theorem accounts_iff (s : State) : Accounts s ↔ CountsExact s ∧ RecordsWhole s ∧ Booked s := by
  refine ⟨fun h => ?_, fun ⟨hcounts, hrecords, hbooks⟩ => ?_⟩
  · obtain ⟨hcounts, hrecords⟩ := (stands_wholeOn_iff s).1 h.whole
    exact ⟨hcounts, hrecords, h.books.booked⟩
  · exact ⟨(stands_wholeOn_iff s).2 ⟨hcounts, hrecords⟩, Ledger.of_booked hbooks⟩

/-- What waits as a command is no part of the accounts. -/
theorem Accounts.kept {s t : State} (h : Accounts s) (hk : Kept True True s t) : Accounts t :=
  ⟨rowClosed_recordsWhole.kept s t (hk.mono False.elim False.elim) h.whole, h.books.kept hk⟩

theorem CursorsFine.kept {s t : State} (h : CursorsFine s) (hk : Kept True True s t) : CursorsFine t :=
  ⟨h.accounts.kept hk, opClosed_cursors.kept s t hk.noBooks h.cursors⟩

theorem Kept.pending {B C : Prop} (s : State) (ps : List Instr) : Kept B C s { s with pending := ps } :=
  Kept.of_frame rfl rfl rfl rfl rfl rfl rfl (Nat.le_refl _) (Nat.le_refl _) rfl fun _ => SameQueues.refl s

/-- Settles O53: a ledger with an entry for each slot, profile and line, which each row changes in one entry at most, and the cursors,
which rest on it while a preset is fetched. -/
theorem booksAndCursorKept : Obligations.BooksAndCursorKept := by
  refine ⟨fun s t hcounts hrecords hbooks h => ?_, fun s t hcounts hrecords hbooks hcursor h => ?_⟩
  · have haccounts := (accounts_iff s).2 ⟨hcounts, hrecords, hbooks⟩
    exact (step_keeps (fun s ps hs => hs.kept (Kept.pending s ps)) (fun s row hs => Accounts.effect hs row)
      (fun s hs => hs.kept (Kept.tick s)) haccounts h).books.booked
  · have haccounts := (accounts_iff s).2 ⟨hcounts, hrecords, hbooks⟩
    have hfine : CursorsFine s := ⟨haccounts, (stands_cursorFine_iff haccounts.whole).2 hcursor⟩
    have hnext := step_keeps (fun s ps hs => hs.kept (Kept.pending s ps)) (fun s row hs => CursorsFine.effect hs row)
      (fun s hs => hs.kept (Kept.tick s)) hfine h
    exact (stands_cursorFine_iff hnext.accounts.whole).1 hnext.cursors

end Sys2Proof.Machine
end

section
/-! PROOFS. The update units (R105 to R114): which unit is chosen, what it holds, and what its composition leaves of the display work. -/

namespace Sys2Proof.Machine

open Sys2Proof.Safety

-- The proofs of the whole text share one memory limit, and each thread takes its part of it.
set_option Elab.async false

/-! ## The end of a paint -/

/-- R104, R110: no text item is left to paint. -/
theorem Inst.textToPaint_eq_none_iff (i : Inst) (d : FormDef) : i.textToPaint d = none ↔ ∀ k ∈ i.textIndex, d.texts.length ≤ k := by
  unfold Inst.textToPaint
  cases i.textIndex with
  | none => simp
  | some k => simp

/-- A change of the instance on a line whose record is known. -/
theorem State.modInst_onLine (s : State) (l : LineId) (x : Line) (f : Inst → Inst) :
    (s.setLine l x).modInst l f = s.setLine l { x with inst := x.inst.map f } := by
  rw [State.modInst_eq, State.setLine_line_self, State.setLine_setLine]

/-- R114: the end of a paint on a line whose record is known. -/
theorem State.endPaint_setLine {s : State} {l : LineId} {x : Line} (hslot : ∀ i ∈ x.inst, i.slot = (s.instOf l).slot) :
    (s.setLine l x).endPaint l = s.setLine l (painted (s.formOf l) x) := by
  cases hi : x.inst with
  | none =>
    have hpainted : painted (s.formOf l) x = x := by rw [painted, hi, Option.map_none, ← hi]
    have hphase : ((s.setLine l x).instOf l).phase ≠ .painting := by
      rw [State.instOf, State.inst, State.setLine_line_self, hi]
      decide
    rw [hpainted, State.endPaint, if_neg fun h => hphase h.1]
  | some i =>
    have hinst : (s.setLine l x).instOf l = i := State.instOf_of_inst (by rw [State.setLine_line_self, hi])
    have hform : (s.setLine l x).formOf l = s.formOf l := by
      rw [State.formOf, hinst, State.formOf]
      exact State.form_congr rfl (hslot i hi)
    have hdone : (s.setLine l x).paintDone l = true ↔
        x.clearPending = false ∧ (∀ k ∈ i.textIndex, (s.formOf l).texts.length ≤ k) ∧ ∀ r ∈ i.fields, r.staleFrom = none := by
      rw [State.paintDone, hinst, hform, State.setLine_line_self, Bool.and_eq_true, Bool.and_eq_true, Option.isNone_iff_eq_none,
        Inst.textToPaint_eq_none_iff, List.all_eq_true]
      simp [and_assoc]
    have hcond : (((s.setLine l x).instOf l).phase = .painting ∧ (!((s.setLine l x).line l).detached) = true ∧
        (s.setLine l x).paintDone l = true) ↔
          i.phase = .painting ∧ x.detached = false ∧ x.clearPending = false ∧ (∀ k ∈ i.textIndex, (s.formOf l).texts.length ≤ k) ∧
            ∀ r ∈ i.fields, r.staleFrom = none := by
      rw [hinst, State.setLine_line_self, hdone, Bool.not_eq_true']
    unfold State.endPaint
    by_cases h : i.phase = .painting ∧ x.detached = false ∧ x.clearPending = false ∧
        (∀ k ∈ i.textIndex, (s.formOf l).texts.length ≤ k) ∧ ∀ r ∈ i.fields, r.staleFrom = none
    · rw [if_pos (hcond.2 h), State.modInst_onLine, painted, hi, Option.map_some, Option.map_some, if_pos h]
      simp only [Inst.endPaint, Bool.or_eq_true]
    · rw [if_neg (mt hcond.1 h), painted, hi, Option.map_some, if_neg h, ← hi]

/-! ## The composition of a unit -/

/-- R105, R106: the unit chosen is placed whole, or not at all. -/
theorem composes_of {s : State} {l : LineId} {u : UnitKind} {bytes : List Byte} {y : Line} (hon : (s.line l).on = true)
    (hdetached : (s.line l).detached = false) (hroom : (s.line l).output.length ≤ 256) (hnext : s.nextUnit l = some u)
    (hbytes : (s.unitBytes l u).1 = bytes)
    (hmark : (s.setLine l { s.line l with output := (s.line l).output ++ bytes, knownCursor := (s.unitBytes l u).2 }).clearMark l u =
      s.setLine l { y with output := (s.line l).output ++ bytes })
    (hslot : ∀ i ∈ y.inst, i.slot = (s.instOf l).slot) : Composes s l bytes y := by
  have hsize : Config.outputRoom = 256 := rfl
  have hchosen : s.composable l =
      if bytes.length ≤ Config.outputRoom - (s.line l).output.length then some u else none := by
    rw [State.composable, hon, hdetached, hnext]
    simp only [Bool.not_false, Bool.and_self, if_true, hbytes]
  refine ⟨fun hfits => ?_, fun hfull => ?_⟩
  · have heffect : s.effect (.unitComposition l) =
        (s.setLine l (painted (s.formOf l) { y with output := (s.line l).output ++ bytes })).settle l := by
      show s.compose l = _
      rw [State.compose, hchosen, if_pos (by omega)]
      show ((State.clearMark (s.setLine l { s.line l with
        output := (s.line l).output ++ (s.unitBytes l u).1, knownCursor := (s.unitBytes l u).2 }) l u).endPaint l).settle l = _
      rw [hbytes, hmark, State.endPaint_setLine (x := { y with output := (s.line l).output ++ bytes }) hslot]
    exact leaves_of_setLine heffect rfl
  · have heffect : s.effect (.unitComposition l) = s := by
      show s.compose l = _
      rw [State.compose, hchosen, if_neg (by omega)]
    rw [exec_eq_prompted, heffect, State.prompted_self rfl]

/-- R105: where no unit is chosen nothing is composed. -/
theorem exec_unitComposition_of_none {s : State} {l : LineId} (h : s.composable l = none) :
    exec (.unitComposition l) s = .next s := by
  have heffect : s.effect (.unitComposition l) = s := by
    show s.compose l = _
    rw [State.compose, h]
  rw [exec_eq_prompted, heffect, State.prompted_self rfl]

/-- R105: with no work nothing is composed. -/
theorem exec_unitComposition_of_no_unit {s : State} {l : LineId} (h : s.nextUnit l = none) :
    exec (.unitComposition l) s = .next s := by
  refine exec_unitComposition_of_none ?_
  rw [State.composable, h, ite_self]

/-! ## The unit chosen -/

/-- R114: the field's work waits behind what a paint left. -/
theorem Inst.waitsBehind_iff (i : Inst) (n : Nat) : i.waitsBehind n = true ↔ Behind i n := by
  unfold Inst.waitsBehind Behind
  cases i.paintLeft <;> simp

/-- R111, R114: the lowest-numbered stale field that does not wait. -/
theorem Inst.staleField_false {i : Inst} {n start : Nat} (hn : n < i.fields.length) (hstale : (i.field n).staleFrom = some start)
    (hbehind : ¬ Behind i n) (hbefore : ∀ m, m < n → (i.field m).staleFrom = none ∨ Behind i m) : i.staleField false = some n := by
  refine List.find?_range_eq_some.2 ⟨?_, List.mem_range.2 hn, fun m hm => ?_⟩
  · have hwaits : i.waitsBehind n = false := Bool.eq_false_iff.2 (mt (i.waitsBehind_iff n).1 hbehind)
    simp [hstale, hwaits]
  · rcases hbefore m hm with h | h
    · simp [h]
    · simp [(i.waitsBehind_iff m).2 h]

/-- R111, R114: no stale field, or none that does not wait. -/
theorem Inst.staleField_eq_none {i : Inst} {behind : Bool}
    (h : ∀ m, m < i.fields.length → (i.field m).staleFrom = none ∨ i.waitsBehind m = !behind) : i.staleField behind = none := by
  refine List.find?_eq_none.2 fun m hm => ?_
  rcases h m (List.mem_range.1 hm) with h | h
  · simp [h]
  · cases behind <;> simp [h]

/-- R114: a stale field that waits, the lowest-numbered. -/
theorem Inst.staleField_true {i : Inst} {n start : Nat} (hn : n < i.fields.length) (hstale : (i.field n).staleFrom = some start)
    (hbehind : Behind i n) (hbefore : ∀ m, m < n → (i.field m).staleFrom = none) : i.staleField true = some n := by
  refine List.find?_range_eq_some.2 ⟨?_, List.mem_range.2 hn, fun m hm => ?_⟩
  · simp [hstale, (i.waitsBehind_iff n).2 hbehind]
  · simp [hbefore m hm]

/-- R105: without a clear or a bell the instance's display work decides. -/
theorem State.nextUnit_of_inst {s : State} {l : LineId} {i : Inst} (hclear : (s.line l).clearPending = false)
    (hbell : (s.line l).bellPending = false) (hi : (s.line l).inst = some i) : s.nextUnit l = i.nextUnit (s.form i) := by
  have hinst : s.inst l = some i := hi
  rw [State.nextUnit, hclear, hbell, hinst]
  rfl

/-- R110 to R114: a unit of the instance's display work, chosen, whose composition makes `j` of the instance. -/
theorem composes_inst {s : State} {l : LineId} {u : UnitKind} {bytes : List Byte} {known : Option (Nat × Nat)} {i j : Inst}
    (hon : (s.line l).on = true) (hdetached : (s.line l).detached = false) (hroom : (s.line l).output.length ≤ 256)
    (hi : (s.line l).inst = some i) (hnext : s.nextUnit l = some u) (hbytes : s.unitBytes l u = (bytes, known))
    (hmark : ∀ x, x.inst = some i → (s.setLine l x).clearMark l u = s.setLine l { x with inst := some j }) (hslot : j.slot = i.slot) :
    Composes s l bytes { lineWith s l j with knownCursor := known } := by
  refine composes_of hon hdetached hroom hnext (congrArg Prod.fst hbytes) ?_ fun k hk => ?_
  · rw [hbytes]
    exact hmark _ hi
  · rw [← Option.some.inj hk, State.instOf_of_inst hi, hslot]

/-- R111: the unit of a field, chosen. -/
theorem composesField_of {s : State} {l : LineId} {i : Inst} {n start : Nat} (hon : (s.line l).on = true)
    (hdetached : (s.line l).detached = false) (hroom : (s.line l).output.length ≤ 256) (hi : (s.line l).inst = some i)
    (hnext : s.nextUnit l = some (.field n)) (hstale : (i.field n).staleFrom = some start) : ComposesField s l i n start := by
  have hinst : s.instOf l = i := State.instOf_of_inst hi
  have hform : s.formOf l = s.form i := congrArg s.form hinst
  have hlength : (s.value l n).length = (i.field n).valueLength := by rw [State.value_length, hinst]
  refine composes_inst hon hdetached hroom hi hnext ?_ (fun x hx => ?_) rfl
  · simp only [State.unitBytes, hinst, hform, hstale, Option.getD_some, fieldChars, hlength]
    rfl
  · rw [State.clearMark, State.modField, State.modInst_onLine, hx]
    rfl

/-- R110: the unit of a text item, chosen. -/
theorem composes_text {s : State} {l : LineId} {i : Inst} {k : Nat} {t : TextItem} (hon : (s.line l).on = true)
    (hdetached : (s.line l).detached = false) (hroom : (s.line l).output.length ≤ 256) (hi : (s.line l).inst = some i)
    (hnext : s.nextUnit l = some (.text k)) (ht : (s.form i).texts[k]? = some t) :
    Composes s l
      (addressed s l t.row t.col ++
        highlit (s.lineProfile l) (decide (t.style = .highlight)) (((s.form i).pool.drop t.textOffset).take t.textLength))
      { lineWith s l { i with textIndex := if k + 1 < (s.form i).texts.length then some (k + 1) else none } with
        knownCursor := if t.col + t.textLength = (s.form i).columns then none else some (t.row, t.col + t.textLength) } := by
  have hform : s.formOf l = s.form i := congrArg s.form (State.instOf_of_inst hi)
  have hitem : (s.form i).texts.getD k TextItem.blank = t := by
    rw [List.getD_eq_getElem?_getD, ht]
    rfl
  refine composes_inst hon hdetached hroom hi hnext ?_ (fun x hx => ?_) rfl
  · simp only [State.unitBytes, hform, hitem]
    rfl
  · have hsame : (s.setLine l x).formOf l = s.form i := by
      rw [State.formOf, State.instOf_of_inst (i := i) (by rw [State.setLine_line_self]; exact hx)]
      rfl
    rw [State.clearMark, hsame, State.modInst_onLine, hx]
    rfl

/-- R112: the unit of the message row, chosen. -/
theorem composes_message {s : State} {l : LineId} {i : Inst} (hon : (s.line l).on = true)
    (hdetached : (s.line l).detached = false) (hroom : (s.line l).output.length ≤ 256) (hi : (s.line l).inst = some i)
    (hnext : s.nextUnit l = some .message) :
    ((s.form i).messageRow = none → Composes s l [] (lineWith s l (messageDone i))) ∧
    ∀ row w, (s.form i).messageRow = some row → w = min 80 ((s.form i).columns - 1) →
      Composes s l
        (addressed s l row 0 ++ highlit (s.lineProfile l) true (i.message.take w ++ List.replicate (w - i.message.length) 0x20))
        { lineWith s l (messageDone i) with knownCursor := some (row, w) } := by
  have hinst : s.instOf l = i := State.instOf_of_inst hi
  have hform : s.formOf l = s.form i := congrArg s.form hinst
  have hmark : ∀ x : Line, x.inst = some i →
      (s.setLine l x).clearMark l .message = s.setLine l { x with inst := some (messageDone i) } := fun x hx => by
    rw [State.clearMark, State.modInst_onLine, hx]
    rfl
  refine ⟨fun hrow => composes_inst (known := (s.line l).knownCursor) hon hdetached hroom hi hnext ?_ hmark rfl,
    fun row w hrow hw => composes_inst hon hdetached hroom hi hnext ?_ hmark rfl⟩
  · simp only [State.unitBytes, hform, hrow]
  · subst hw
    simp only [State.unitBytes, hinst, hform, hrow]
    rfl

/-- R113, R114: what the composition of a cursor placement leaves. -/
theorem Inst.cursorShown_eq (i : Inst) : i.cursorShown = cursorDone i := by
  unfold Inst.cursorShown cursorDone
  rcases i.paintLeft with _ | _ | _ <;> rfl

/-- R113: the unit of the cursor, chosen. -/
theorem composes_cursor {s : State} {l : LineId} {i : Inst} (hon : (s.line l).on = true)
    (hdetached : (s.line l).detached = false) (hroom : (s.line l).output.length ≤ 256) (hi : (s.line l).inst = some i)
    (hnext : s.nextUnit l = some .cursor) :
    (i.cursorField = none → Composes s l [] (lineWith s l (cursorDone i))) ∧
    ∀ n, i.cursorField = some n →
      Composes s l (addressed s l ((s.form i).field n).row (((s.form i).field n).col + i.cursorPos))
        { lineWith s l (cursorDone i) with
          knownCursor := some (((s.form i).field n).row, ((s.form i).field n).col + i.cursorPos) } := by
  have hinst : s.instOf l = i := State.instOf_of_inst hi
  have hform : s.formOf l = s.form i := congrArg s.form hinst
  have hmark : ∀ x : Line, x.inst = some i →
      (s.setLine l x).clearMark l .cursor = s.setLine l { x with inst := some (cursorDone i) } := fun x hx => by
    rw [State.clearMark, State.modInst_onLine, hx, Option.map_some, Inst.cursorShown_eq]
  refine ⟨fun hfield => composes_inst (known := (s.line l).knownCursor) hon hdetached hroom hi hnext ?_ hmark rfl,
    fun n hfield => composes_inst hon hdetached hroom hi hnext ?_ hmark rfl⟩
  · simp only [State.unitBytes, hinst, hfield]
  · simp only [State.unitBytes, hinst, hform, hfield]
    rfl

/-- Settles O52: each unit by the choice of R105, its bytes, and the mark that its composition takes out of the display work. -/
theorem unitsComposed : Obligations.UnitsComposed := by
  refine ⟨fun s l hoff => exec_unitComposition_of_none ?_, fun s l hon hdetached hroom => ⟨fun hclear => ?_, fun hclear hbell => ?_,
    fun hclear hbell => ⟨fun hnone => exec_unitComposition_of_no_unit ?_, fun i hi => ?_⟩⟩⟩
  · rw [State.composable]
    rcases hoff with h | h <;> simp [h]
  · refine composes_of (u := .clear) hon hdetached hroom (by rw [State.nextUnit, if_pos hclear]) rfl ?_ fun i hi => ?_
    · simp only [State.clearMark, State.modLine, State.setLine_line_self, State.setLine_setLine]
      rfl
    · rw [State.instOf_of_inst hi]
  · refine composes_of (u := .bell) hon hdetached hroom (by rw [State.nextUnit, hclear, hbell]; rfl) rfl ?_ fun i hi => ?_
    · simp only [State.clearMark, State.modLine, State.setLine_line_self, State.setLine_setLine]
      rfl
    · rw [State.instOf_of_inst hi]
  · have hinst : s.inst l = none := hnone
    rw [State.nextUnit, hclear, hbell, hinst]
    rfl
  · have hchosen := State.nextUnit_of_inst hclear hbell hi
    refine ⟨fun k t hk ht => ?_, fun htexts => ?_⟩
    · have hlt : k < (s.form i).texts.length := (List.getElem?_eq_some_iff.1 ht).1
      have htext : i.textToPaint (s.form i) = some k := by rw [Inst.textToPaint, hk]; exact if_pos hlt
      exact composes_text hon hdetached hroom hi (by rw [hchosen, Inst.nextUnit, htext]) ht
    · have htext : i.textToPaint (s.form i) = none := (i.textToPaint_eq_none_iff _).2 htexts
      refine ⟨fun n start hn hstale hbehind hbefore => ?_, fun hfields => ⟨fun hmessage => ?_, fun hmessage hcursor => ?_,
        fun hmessage hcursor => ⟨fun n start hn hstale hbefore => ?_, fun hnone => ?_⟩⟩⟩
      · have hfield := Inst.staleField_false hn hstale hbehind hbefore
        exact composesField_of hon hdetached hroom hi (by rw [hchosen, Inst.nextUnit, htext, hfield]) hstale
      all_goals
        have hfirst : i.staleField false = none := Inst.staleField_eq_none fun m hm =>
          (hfields m hm).imp id fun h => (i.waitsBehind_iff m).2 h
      · exact composes_message hon hdetached hroom hi (by rw [hchosen, Inst.nextUnit, htext, hfirst, hmessage]; rfl)
      · exact composes_cursor hon hdetached hroom hi (by rw [hchosen, Inst.nextUnit, htext, hfirst, hmessage, hcursor]; rfl)
      · by_cases hbehind : Behind i n
        · have hfield := Inst.staleField_true hn hstale hbehind hbefore
          refine composesField_of hon hdetached hroom hi ?_ hstale
          rw [hchosen, Inst.nextUnit, htext, hfirst, hmessage, hcursor, hfield]
          rfl
        · have hfield := Inst.staleField_false hn hstale hbehind fun m hm => .inl (hbefore m hm)
          rw [hfirst] at hfield
          cases hfield
      · have hrest : i.staleField true = none := Inst.staleField_eq_none fun m hm => .inl (hnone m hm)
        refine exec_unitComposition_of_no_unit ?_
        rw [hchosen, Inst.nextUnit, htext, hfirst, hmessage, hcursor, hrest]
        rfl

end Sys2Proof.Machine
end

section
/-! PROOFS. Amounts and their canonical form (R58, R59), the outcome of a forward-exit check, and the match with a buffer (R128). -/

namespace Sys2Proof.Machine

open Sys2Proof.Safety

-- The proofs of the whole text share one memory limit, and each thread takes its part of it.
set_option Elab.async false

/-! ## Amounts -/

theorem isDigit_ne_point {b : Byte} (h : isDigit b = true) : b ≠ point := by
  rintro rfl
  exact absurd h (by decide)

theorem isDigit_ne_minus {b : Byte} (h : isDigit b = true) : b ≠ minus := by
  rintro rfl
  exact absurd h (by decide)

theorem isDigit_ne_space {b : Byte} (h : isDigit b = true) : b ≠ space := by
  rintro rfl
  exact absurd h (by decide)

/-- R58: the digits before the point and what follows them are the two parts of a body that is digits, then nothing or a point and
digits. -/
structure AmountParts (neg : Bool) (whole fraction : List Byte) (dot : Bool) (v : List Byte) : Prop where
  value : v = (if neg then [minus] else []) ++ (whole ++ if dot then point :: fraction else [])
  wholeDigits : ∀ b ∈ whole, isDigit b = true
  fractionDigits : ∀ b ∈ fraction, isDigit b = true
  noPoint : dot = false → fraction = []

namespace AmountParts

variable {neg dot : Bool} {whole fraction v : List Byte}

theorem sign_of (h : AmountParts neg whole fraction dot v) : amountSign v = neg := by
  obtain ⟨rfl, hw, hf, -⟩ := h
  cases neg with
  | true => rfl
  | false =>
    cases whole with
    | cons b bs => simpa [amountSign] using isDigit_ne_minus (hw b (List.mem_cons_self ..))
    | nil => cases dot <;> rfl

theorem body_of (h : AmountParts neg whole fraction dot v) : amountBody v = whole ++ if dot then point :: fraction else [] := by
  rw [amountBody, h.sign_of, h.value]
  cases neg <;> rfl

theorem whole_of (h : AmountParts neg whole fraction dot v) : amountWhole v = whole := by
  rw [amountWhole, h.body_of, List.takeWhile_append_of_pos fun b hb => bne_iff_ne.2 (isDigit_ne_point (h.wholeDigits b hb))]
  cases dot
  · simp
  · simp

theorem tail_of (h : AmountParts neg whole fraction dot v) : amountTail v = if dot then point :: fraction else [] := by
  rw [amountTail, h.body_of, List.dropWhile_append_of_pos fun b hb => bne_iff_ne.2 (isDigit_ne_point (h.wholeDigits b hb))]
  cases dot
  · simp
  · simp

theorem fraction_of (h : AmountParts neg whole fraction dot v) : amountFraction v = fraction := by
  rw [amountFraction, h.tail_of]
  cases dot
  · rw [h.noPoint rfl]; rfl
  · rfl

/-- R58: which of these are amounts. -/
theorem isAmount_iff (h : AmountParts neg whole fraction dot v) (scale : Nat) :
    isAmount scale v = true ↔
      0 < whole.length + fraction.length ∧ (dot = true → 0 < scale ∧ fraction.length ≤ scale) := by
  have hw : whole.all isDigit = true := List.all_eq_true.2 h.wholeDigits
  have hf : fraction.all isDigit = true := List.all_eq_true.2 h.fractionDigits
  rw [isAmount, h.whole_of, h.fraction_of, h.tail_of, hw, hf]
  cases dot <;> simp

/-- R59: their canonical form. -/
theorem canonical_eq (h : AmountParts neg whole fraction dot v) (scale : Nat) :
    canonical scale v =
      (if neg && (whole ++ fraction).any (· != zero) then [minus] else []) ++ canonicalWhole whole ++
        (if scale = 0 then [] else point :: (fraction ++ List.replicate (scale - fraction.length) zero)) := by
  rw [canonical, h.sign_of, h.whole_of, h.fraction_of]

end AmountParts

/-- R58: an amount has such parts. -/
theorem amountParts_of_isAmount {scale : Nat} {v : List Byte} (h : isAmount scale v = true) :
    AmountParts (amountSign v) (amountWhole v) (amountFraction v) (!(amountTail v).isEmpty) v := by
  simp only [isAmount, Bool.and_eq_true, List.all_eq_true] at h
  obtain ⟨⟨⟨hw, hf⟩, -⟩, -⟩ := h
  refine ⟨?_, hw, hf, fun hdot => ?_⟩
  · have htail : (if !(amountTail v).isEmpty then point :: amountFraction v else []) = amountTail v := by
      unfold amountFraction
      cases ht : amountTail v with
      | nil => rfl
      | cons b bs =>
        have hb : b = point := by
          have hhead := List.head?_dropWhile_not (· != point) (amountBody v)
          rw [← amountTail, ht] at hhead
          simpa using hhead
        rw [hb]
        rfl
    have hbody : amountWhole v ++ amountTail v = amountBody v := List.takeWhile_append_dropWhile
    rw [htail, hbody, amountBody]
    cases v with
    | nil => rfl
    | cons b bs =>
      by_cases hb : b = minus
      · subst hb; rfl
      · simp [amountSign, hb]
  · have hempty : (amountTail v).isEmpty = true := by simpa using hdot
    rw [amountFraction, List.isEmpty_iff.1 hempty]
    rfl

/-- R59: the digits of the canonical form before the point: no leading zero but a single one. -/
theorem canonicalWhole_spec (ds : List Byte) :
    canonicalWhole ds = [zero] ∧ (∀ b ∈ ds, b = zero) ∨
      canonicalWhole ds = ds.dropWhile (· == zero) ∧ (canonicalWhole ds).head? ≠ some zero ∧ canonicalWhole ds ≠ [] := by
  unfold canonicalWhole
  cases h : ds.dropWhile (· == zero) with
  | nil => exact .inl ⟨rfl, fun b hb => by simpa using List.dropWhile_eq_nil_iff.1 h b hb⟩
  | cons b bs =>
    have hhead := List.head?_dropWhile_not (· == zero) ds
    rw [h] at hhead
    exact .inr ⟨rfl, fun hb => by simp [Option.some.inj hb] at hhead, by simp⟩

theorem mem_canonicalWhole {ds : List Byte} {b : Byte} (h : b ∈ canonicalWhole ds) : b = zero ∨ b ∈ ds := by
  rcases canonicalWhole_spec ds with ⟨e, -⟩ | ⟨e, -⟩
  · left; simpa [e] using h
  · right
    rw [e] at h
    exact (List.dropWhile_sublist _).subset h

theorem canonicalWhole_idem (ds : List Byte) : canonicalWhole (canonicalWhole ds) = canonicalWhole ds := by
  rcases canonicalWhole_spec ds with ⟨e, -⟩ | ⟨-, hhead, hne⟩
  · rw [e]; rfl
  · generalize canonicalWhole ds = w at hhead hne ⊢
    cases w with
    | nil => exact absurd rfl hne
    | cons b bs =>
      have hb : b ≠ zero := fun e => hhead (by rw [e]; rfl)
      simp [canonicalWhole, hb]

/-- R59: the digits that are not zero stay. -/
theorem any_canonicalWhole (ds : List Byte) : (canonicalWhole ds).any (· != zero) = ds.any (· != zero) := by
  have hdrop : ∀ ds : List Byte, (ds.dropWhile (· == zero)).any (· != zero) = ds.any (· != zero) := by
    intro ds
    induction ds with
    | nil => rfl
    | cons b bs ih =>
      by_cases hb : b = zero
      · simpa [hb] using ih
      · simp [hb]
  rcases canonicalWhole_spec ds with ⟨e, hzero⟩ | ⟨e, -⟩
  · rw [e]
    have : ds.any (· != zero) = false := by simpa using hzero
    rw [this]; rfl
  · rw [e, hdrop]

/-- R59: the parts of the canonical form of an amount. -/
theorem amountParts_canonical {scale : Nat} {v : List Byte} (h : isAmount scale v = true) :
    AmountParts (amountSign v && (amountWhole v ++ amountFraction v).any (· != zero)) (canonicalWhole (amountWhole v))
      (amountFraction v ++ List.replicate (scale - (amountFraction v).length) zero) (decide (scale ≠ 0)) (canonical scale v) ∧
    (amountFraction v ++ List.replicate (scale - (amountFraction v).length) zero).length = scale := by
  have hparts := amountParts_of_isAmount h
  obtain ⟨-, hdot⟩ := (hparts.isAmount_iff scale).1 h
  have hlength : (amountFraction v).length ≤ scale := by
    by_cases hd : (!(amountTail v).isEmpty) = true
    · exact (hdot hd).2
    · rw [hparts.noPoint (by simpa using hd)]
      exact Nat.zero_le _
  have hfull : (amountFraction v ++ List.replicate (scale - (amountFraction v).length) zero).length = scale := by
    rw [List.length_append, List.length_replicate]
    omega
  refine ⟨⟨?_, fun b hb => ?_, fun b hb => ?_, fun hd => ?_⟩, hfull⟩
  · rw [canonical, List.append_assoc]
    congr 2
    by_cases hs : scale = 0 <;> simp [hs]
  · rcases mem_canonicalWhole hb with rfl | hb
    · decide
    · exact hparts.wholeDigits b hb
  · rcases List.mem_append.1 hb with hb | hb
    · exact hparts.fractionDigits b hb
    · rw [(List.mem_replicate.1 hb).2]
      decide
  · exact List.length_eq_zero_iff.1 (hfull.trans (by simpa using hd))

theorem length_canonicalWhole_pos (ds : List Byte) : 0 < (canonicalWhole ds).length := by
  rcases canonicalWhole_spec ds with ⟨e, -⟩ | ⟨-, -, hne⟩
  · rw [e]; exact Nat.one_pos
  · exact List.length_pos_iff.2 hne

/-- R59: the canonical form of an amount is an amount and its own canonical form, with just the fraction digits of the scale. -/
theorem canonical_spec {scale : Nat} {v : List Byte} (h : isAmount scale v = true) :
    isAmount scale (canonical scale v) = true ∧ canonical scale (canonical scale v) = canonical scale v ∧
      (amountFraction (canonical scale v)).length = scale ∧
      ((amountWhole (canonical scale v)).head? = some 0x30 → amountWhole (canonical scale v) = [0x30]) := by
  obtain ⟨hparts, hfull⟩ := amountParts_canonical h
  refine ⟨(hparts.isAmount_iff scale).2 ⟨Nat.add_pos_left (length_canonicalWhole_pos _) _, fun hd => ?_⟩, ?_, ?_, fun hhead => ?_⟩
  · rw [hfull]
    exact ⟨Nat.pos_of_ne_zero (by simpa using hd), Nat.le_refl _⟩
  · rw [hparts.canonical_eq, hfull, Nat.sub_self, List.replicate_zero, List.append_nil, canonicalWhole_idem]
    conv_rhs => rw [canonical]
    congr 2
    simp only [List.any_append, any_canonicalWhole]
    cases amountSign v <;> simp
  · rw [hparts.fraction_of, hfull]
  · rw [hparts.whole_of] at hhead ⊢
    rcases canonicalWhole_spec (amountWhole v) with ⟨e, -⟩ | ⟨-, hne, -⟩
    · exact e
    · exact absurd hhead hne

/-- R59: the canonical form, from the sign, the leading zeros, the other digits and the fraction. -/
theorem canonical_of_parts (scale : Nat) {v sign zeros whole dot fraction : List Byte}
    (hv : v = sign ++ zeros ++ whole ++ dot ++ fraction) (hsign : sign = [] ∨ sign = [0x2D]) (hzeros : ∀ b ∈ zeros, b = 0x30)
    (hwhole : whole.head? ≠ some 0x30) (hdigits : ∀ b ∈ whole ++ fraction, 0x30 ≤ b.toNat ∧ b.toNat ≤ 0x39)
    (hdot : dot = [] ∧ fraction = [] ∨ dot = [0x2E]) :
    canonical scale v =
      (if ∃ b ∈ whole ++ fraction, b ≠ 0x30 then sign else []) ++ (if whole = [] then [0x30] else whole) ++
        (if scale = 0 then [] else 0x2E :: (fraction ++ List.replicate (scale - fraction.length) 0x30)) := by
  have hparts : AmountParts (decide (sign ≠ [])) (zeros ++ whole) fraction (decide (dot ≠ [])) v := by
    refine ⟨?_, fun b hb => ?_, fun b hb => decide_eq_true (hdigits b (List.mem_append_right _ hb)), fun hd => ?_⟩
    · subst hv
      rcases hsign with rfl | rfl <;> rcases hdot with ⟨rfl, rfl⟩ | rfl <;> simp [minus, point]
    · rcases List.mem_append.1 hb with hb | hb
      · rw [hzeros b hb]; decide
      · exact decide_eq_true (hdigits b (List.mem_append_left _ hb))
    · rcases hdot with ⟨-, rfl⟩ | rfl
      · rfl
      · simp at hd
  have hdrop : ∀ zs : List Byte, (∀ b ∈ zs, b = zero) → (zs ++ whole).dropWhile (· == zero) = whole := by
    intro zs hz
    rw [List.dropWhile_append_of_pos fun b hb => by simpa using hz b hb]
    cases whole with
    | nil => rfl
    | cons b bs =>
      have hb : b ≠ zero := fun e => hwhole (by rw [e]; rfl)
      simp [hb]
  have hcanonical : canonicalWhole (zeros ++ whole) = if whole = [] then [0x30] else whole := by
    rw [canonicalWhole, hdrop zeros hzeros]
    cases whole <;> rfl
  have hany : (zeros ++ whole ++ fraction).any (· != zero) = true ↔ ∃ b ∈ whole ++ fraction, b ≠ 0x30 := by
    simp only [List.any_eq_true, bne_iff_ne, List.append_assoc, List.mem_append (s := zeros)]
    exact ⟨fun ⟨b, hb, hne⟩ => ⟨b, hb.resolve_left fun hz => hne (hzeros b hz), hne⟩, fun ⟨b, hb, hne⟩ => ⟨b, .inr hb, hne⟩⟩
  rw [hparts.canonical_eq, hcanonical]
  congr 2
  by_cases hb : ∃ b ∈ whole ++ fraction, b ≠ 0x30
  · rw [if_pos hb, hany.2 hb]
    rcases hsign with rfl | rfl <;> rfl
  · rw [if_neg hb, Bool.eq_false_iff.2 (mt hany.1 hb), Bool.and_false]
    rfl

/-! ## The outcome of a forward-exit check -/

/-- R51: a value without spaces is all effective. -/
theorem effectiveLength_of_no_space {v : List Byte} (h : ∀ b ∈ v, b ≠ space) : effectiveLength v = v.length := by
  have hkept : v.reverse.dropWhile (· == space) = v.reverse := by
    cases hr : v.reverse with
    | nil => rfl
    | cons b bs =>
      have hb : b ≠ space := h b (List.mem_reverse.1 (by rw [hr]; exact List.mem_cons_self ..))
      simp [hb]
  rw [effectiveLength, hkept, List.length_reverse]

/-- R51: the effective length is 0 just where the value is nothing but spaces. -/
theorem effectiveLength_eq_zero_iff (v : List Byte) : effectiveLength v = 0 ↔ ∀ b ∈ v, b = space := by
  rw [effectiveLength, List.length_eq_zero_iff, List.dropWhile_eq_nil_iff]
  simp

/-- R59: a canonical form holds no space. -/
theorem canonical_no_space {scale : Nat} {v : List Byte} (h : isAmount scale v = true) : ∀ b ∈ canonical scale v, b ≠ space := by
  obtain ⟨⟨hvalue, hwhole, hfraction, -⟩, -⟩ := amountParts_canonical h
  intro b hb
  rw [hvalue] at hb
  rcases List.mem_append.1 hb with hb | hb
  · split_ifs at hb
    · rw [List.mem_singleton.1 hb]; decide
    · cases hb
  · rcases List.mem_append.1 hb with hb | hb
    · exact isDigit_ne_space (hwhole b hb)
    · split_ifs at hb
      · rcases List.mem_cons.1 hb with rfl | hb
        · decide
        · exact isDigit_ne_space (hfraction b hb)
      · cases hb

/-- R59, R92: the outcome by the field's type. -/
theorem exitOutcome_spec (f : FieldDef) (v : List Byte) :
    (f.type ≠ .amount → exitOutcome f v = (v, fieldCheck f v)) ∧
    (f.type = .amount →
      (v = [] → exitOutcome f v = (v, decide (f.minLength = 0))) ∧
      (v ≠ [] → isAmount f.scale v = false → exitOutcome f v = (v, false)) ∧
      (v ≠ [] → isAmount f.scale v = true →
        exitOutcome f v =
          if f.length < (canonical f.scale v).length then (v, false)
          else (canonical f.scale v, decide (f.minLength ≤ (canonical f.scale v).length)))) := by
  refine ⟨fun htype => ?_, fun htype => ⟨fun hv => ?_, fun hv ha => ?_, fun hv ha => ?_⟩⟩
  · unfold exitOutcome
    cases ht : f.type with
    | amount => exact absurd ht htype
    | text => rfl
    | alpha => rfl
    | digits => rfl
  all_goals
    have hempty : v.isEmpty = decide (v = []) := by cases v <;> rfl
    simp only [exitOutcome, typeTest, htype, hempty, hv]
  · have hmin : minTest f [] = decide (f.minLength = 0) := decide_eq_decide.2 Nat.le_zero
    simp [hmin]
  · simp [ha]
  · have hmin : minTest f (canonical f.scale v) = decide (f.minLength ≤ (canonical f.scale v).length) := by
      rw [minTest, effectiveLength_of_no_space (canonical_no_space ha)]
    simp [ha, hmin]

/-! ## The match with a buffer -/

/-- R128: the first descriptor that is long enough. -/
theorem findBuffer_append {size : Nat} {older newer : List Descriptor} {d : Descriptor}
    (holder : ∀ e ∈ older, e.length.toNat < size) (hd : size ≤ d.length.toNat) :
    findBuffer size (older ++ d :: newer) = some (d, older ++ newer) := by
  induction older with
  | nil => exact if_pos hd
  | cons e es ih =>
    rw [List.cons_append, findBuffer, if_neg (Nat.not_le.2 (holder e (List.mem_cons_self ..))),
      ih fun x hx => holder x (List.mem_cons_of_mem _ hx)]
    rfl

/-- R128: no descriptor is long enough. -/
theorem findBuffer_eq_none {size : Nat} {ds : List Descriptor} (h : ∀ e ∈ ds, e.length.toNat < size) :
    findBuffer size ds = none := by
  induction ds with
  | nil => rfl
  | cons e es ih =>
    rw [findBuffer, if_neg (Nat.not_le.2 (h e (List.mem_cons_self ..))), ih fun x hx => h x (List.mem_cons_of_mem _ hx)]

/-- R128: a submission that takes the oldest descriptor its image fits. -/
theorem State.matchSubmission_of_fits {s : State} {l : LineId} {i : Inst} (hi : (s.line l).inst = some i) {older newer : List Descriptor}
    {d : Descriptor} (hlist : s.bufferList = older ++ d :: newer) (holder : ∀ e ∈ older, e.length.toNat < i.imageSize)
    (hd : i.imageSize ≤ d.length.toNat) :
    s.matchSubmission l =
      State.setLine
        { s with
          bufferList := older ++ newer
          busQueue := s.busQueue ++ [⟨.delivery l, d.address, i.imageSize⟩] }
        l (lineWith s l (matched i d)) := by
  have hinst : s.instOf l = i := State.instOf_of_inst hi
  have hinst' : State.instOf { s with bufferList := older ++ newer } l = i := hinst
  rw [State.matchSubmission, hinst, hlist, findBuffer_append holder hd]
  simp only
  rw [State.startDelivery, hinst', State.modInst_eq]
  show State.placeRequest (State.setLine _ l { s.line l with inst := (s.line l).inst.map _ }) _ = _
  rw [hi]
  rfl

/-- R128: a submission that waits. -/
theorem State.matchSubmission_of_none {s : State} {l : LineId} {i : Inst} (hi : (s.line l).inst = some i)
    (hlist : ∀ e ∈ s.bufferList, e.length.toNat < i.imageSize) :
    s.matchSubmission l = State.setLine { s with waiting := s.waiting ++ [l] } l (lineWith s l { i with phase := .awaitBuffer }) := by
  have hinst : s.instOf l = i := State.instOf_of_inst hi
  rw [State.matchSubmission, hinst, findBuffer_eq_none hlist]
  simp only
  rw [State.modInst_eq, hi]
  rfl

end Sys2Proof.Machine
end

section
/-! PROOFS. What the Key Interpreter considers: the run it releases, taken without a claim or at the grant of one (R69, R75, R77, R78). -/

namespace Sys2Proof.Machine

open Sys2Proof.Safety

-- The proofs of the whole text share one memory limit, and each thread takes its part of it.
set_option Elab.async false

/-! ## A state under another claim -/

/-- R77, R78: the part with another rotation pointer, other reserved words and another claim of the line. -/
def underClaim (s : State) (l : LineId) (p : Claimant) (r : Nat) (c : LineClaim) : State :=
  State.setLine { s with pointer := p, reserved := r } l { s.line l with claim := c }

theorem underClaim_self (s : State) (l : LineId) : underClaim s l s.pointer s.reserved (s.line l).claim = s :=
  State.setLine_line s l

@[simp] theorem underClaim_line (s : State) (l : LineId) (p : Claimant) (r : Nat) (c : LineClaim) :
    (underClaim s l p r c).line l = { s.line l with claim := c } := State.setLine_line_self _ _ _

theorem underClaim_considered (s : State) (l : LineId) (p : Claimant) (r : Nat) (c : LineClaim) :
    (underClaim s l p r c).considered l = s.considered l := by
  have hprofile : (underClaim s l p r c).lineProfile l = s.lineProfile l := by
    rw [State.lineProfile, underClaim_line]
    rfl
  rw [State.considered, hprofile, underClaim_line]
  rfl

/-- R77: the considered run depends on the Key Interpreter, the profile and the configuration of the line. -/
theorem Considers.setLine {s : State} {l : LineId} {es : List Elem} {x : Line} (h : Considers s l es)
    (hconfig : x.config = (s.line l).config) (hdue : x.releaseDue = (s.line l).releaseDue)
    (hkeys : x.pendingKeys = (s.line l).pendingKeys) (hahead : x.typeAhead = (s.line l).typeAhead) : Considers (s.setLine l x) l es := by
  have hprofile : (s.setLine l x).lineProfile l = s.lineProfile l := by
    rw [State.lineProfile, State.setLine_line_self, hconfig]
    rfl
  rw [Considers, hprofile, State.setLine_line_self, hconfig, hdue, hkeys, hahead]
  exact h

/-! ## A byte taken and a key claim granted -/

/-- R69, R77: what is considered needs no word, where no key claim waits. -/
theorem State.byteTaken_of_free {s : State} {l : LineId} {rel : Released} (hinterprets : Interprets (s.line l) = true)
    (hrel : s.considered l = some rel) (hkey : ∀ w, (s.line l).claim ≠ .key w) (hneed : s.runNeed l rel.run = 0) :
    s.byteTaken l = ((s.takeConsidered l rel).state).settle l := by
  rw [← Line.interprets_eq] at hinterprets
  have hopen : (s.line l).inputRow ≠ .closing := fun h => by rw [h] at hinterprets; cases hinterprets
  have hfree : s.takesFreely l rel = true := by
    rw [State.takesFreely, hinterprets, hneed]
    cases hc : (s.line l).claim with
    | key w => exact absurd hc (hkey w)
    | absent => rfl
    | event => rfl
  rw [State.byteTaken, if_neg hopen, hrel]
  exact if_pos hfree

/-- R77: what is considered needs words, or a key claim waits. -/
theorem State.byteTaken_of_claimed {s : State} {l : LineId} {rel : Released} (hinterprets : Interprets (s.line l) = true)
    (hrel : s.considered l = some rel) (hneed : 0 < s.runNeed l rel.run) : s.byteTaken l = s.settle l := by
  rw [← Line.interprets_eq] at hinterprets
  have hopen : (s.line l).inputRow ≠ .closing := fun h => by rw [h] at hinterprets; cases hinterprets
  have hfree : s.takesFreely l rel = false := by
    rw [State.takesFreely, decide_eq_false (Nat.ne_of_gt hneed), Bool.and_false, Bool.false_and]
  rw [State.byteTaken, if_neg hopen, hrel]
  exact if_neg (Bool.eq_false_iff.1 hfree)

/-- R78, R189: the grant of a key claim, before what follows on the line. -/
theorem effect_keyClaimGrant {s : State} {l : LineId} {words w : Nat} (hgrant : s.nextGrant = some (.line l, words))
    (hclaim : (s.line l).claim = .key w) :
    s.effect (.keyClaimGrant l) = ((underClaim s l (.line l) (s.reserved + words) .absent).useKeyGrant l words).settle l := by
  show effectKeyClaimGrant l s = _
  rw [effectKeyClaimGrant, hgrant, hclaim]
  exact if_pos rfl

/-- R78: the granted words cover the run. -/
theorem State.useKeyGrant_of_covered {g : State} {l : LineId} {rel : Released} {words : Nat} (hed : Editable (g.line l) = true)
    (hrel : g.considered l = some rel) (hneed : g.runNeed l rel.run ≤ words) :
    g.useKeyGrant l words = (g.takeConsidered l rel).state.release (words - (g.takeConsidered l rel).used) := by
  rw [State.useKeyGrant, hrel]
  exact if_pos ⟨(Line.inputRow_editing _).2 hed, hneed⟩

/-- R78: the granted words do not cover the run. -/
theorem State.useKeyGrant_of_short {g : State} {l : LineId} {rel : Released} {words : Nat}
    (hrel : g.considered l = some rel) (hneed : words < g.runNeed l rel.run) : g.useKeyGrant l words = g.release words := by
  rw [State.useKeyGrant, hrel]
  exact if_neg fun h => Nat.not_le.2 hneed h.2

/-- R78: a grant too small is released unused. -/
theorem leaves_of_short {s : State} {l : LineId} {rel : Released} {words w : Nat} (hgrant : s.nextGrant = some (.line l, words))
    (hclaim : (s.line l).claim = .key w) (hrel : s.considered l = some rel)
    (hneed : words < (underClaim s l (.line l) (s.reserved + words) .absent).runNeed l rel.run) :
    Leaves (.keyClaimGrant l) s { s with pointer := .line l } l { s.line l with claim := .absent } := by
  refine leaves_of_setLine (z := { s.line l with claim := .absent }) ?_ rfl
  rw [effect_keyClaimGrant hgrant hclaim, State.useKeyGrant_of_short ((underClaim_considered ..).trans hrel) hneed]
  show State.settle (State.setLine { s with pointer := .line l, reserved := s.reserved + words - words } l _) l = _
  rw [Nat.add_sub_cancel]

theorem interprets_of_editable {x : Line} (h : Editable x = true) : Interprets x = true := by
  rw [← Line.interprets_eq, (Line.inputRow_editing x).2 h]
  rfl

/-- R77, R80: the key claim that is made for the run considered, whose words do not depend on the inactivity timer. -/
theorem claim_of_settle {s : State} {l : LineId} {i : Inst} {es : List Elem} {need : Nat} {x : Line} (hi : (s.line l).inst = some i)
    (hed : Editable (s.line l) = true) (hcons : Considers s l es)
    (hneed : ∀ u : State, u.slots = s.slots → ∀ t, (u.line l).inst = some { i with inactivity := t } → u.runNeed l es = need)
    (hpos : 0 < need) (hkey : ∀ w, (s.line l).claim ≠ .key w) (hbecomes : Becomes x (s.line l))
    (hmade : ClaimMade (s.setLine l { x with claim := (s.line l).claim }) l x.claim) (hflags : (s.line l).flags.any = false) :
    x.claim = .key need := by
  have hline := hbecomes.line
  have hinst : x.inst = some { i with inactivity := inactivityAfter (s.line l) i } := by rw [hline, hi, Option.map_some]
  have hed' : Editable x = true := by
    rw [hline]
    exact Eq.trans (editable_inactivity (s.line l) (inactivityAfter (s.line l)) (gapAfter (s.line l))) hed
  have hwords : (s.setLine l { x with claim := (s.line l).claim }).runNeed l es = need :=
    hneed (s.setLine l { x with claim := (s.line l).claim }) rfl (inactivityAfter (s.line l) i)
      (by rw [State.setLine_line_self]; exact hinst)
  have hconsiders : Considers (s.setLine l { x with claim := (s.line l).claim }) l es := by
    refine Considers.setLine hcons ?_ ?_ ?_ ?_ <;> rw [hline]
  have hclaim := hmade (by rw [State.setLine_line_self]; exact hed')
    (by rw [State.setLine_line_self, hline]; exact hflags) (by rw [State.setLine_line_self]; exact hkey) es hconsiders
  rw [hclaim, hwords, if_neg (Nat.ne_of_gt hpos)]

/-- R77, R78: a run that is considered is used, whatever the claim under which it is applied. -/
theorem uses_of {s u : State} {l : LineId} {i : Inst} {rel : Released} {need kept : Nat} {notices : List Word} {y : Line}
    (hi : (s.line l).inst = some i) (hed : Editable (s.line l) = true) (hcons : Considers s l rel.run)
    (hrel : s.considered l = some rel)
    (hneed : ∀ v : State, v.slots = s.slots → ∀ t, (v.line l).inst = some { i with inactivity := t } → v.runNeed l rel.run = need)
    (hkept : notices.length + kept ≤ need)
    (hu : { u with pointer := s.pointer, reserved := s.reserved, answerQueue := s.answerQueue } = u)
    (hy : y.claim = (s.line l).claim)
    (hstate : ∀ p r c, ((underClaim s l p r c).takeConsidered l rel).state =
      State.setLine { u with pointer := p, reserved := r - notices.length, answerQueue := s.answerQueue ++ notices } l
        { workNoted (s.line l) y with claim := c })
    (hused : ∀ p r c, ((underClaim s l p r c).takeConsidered l rel).used = notices.length + kept) :
    Uses s l need kept notices u y := by
  have hinterprets := interprets_of_editable hed
  have hneedHere : s.runNeed l rel.run = need := hneed s rfl i.inactivity hi
  have hneedThere (p : Claimant) (r : Nat) (c : LineClaim) : (underClaim s l p r c).runNeed l rel.run = need :=
    hneed _ rfl i.inactivity (by rw [underClaim_line]; exact hi)
  refine ⟨fun hkey => ⟨fun hzero => ?_, fun hpos => ?_⟩, fun words hgrant hclaim => ⟨fun hcovered => ?_, fun hshort => ?_⟩⟩
  · obtain ⟨hnotices, -⟩ := Nat.add_eq_zero_iff.1 (Nat.le_zero.1 (hzero ▸ hkept))
    obtain rfl := List.length_eq_zero_iff.1 hnotices
    have htaken := hstate s.pointer s.reserved (s.line l).claim
    rw [underClaim_self, List.append_nil, List.length_nil, Nat.sub_zero, hu, ← hy] at htaken
    refine leaves_of_setLine (z := workNoted (s.line l) y) ?_ rfl
    show s.byteTaken l = _
    rw [State.byteTaken_of_free hinterprets hrel hkey (hneedHere.trans hzero), htaken]
    rfl
  · obtain ⟨x, hsettle, hbecomes, hmade⟩ := s.settle_becomes l
    refine ⟨x, gives_effect ?_, hbecomes, claim_of_settle hi hed hcons hneed hpos hkey hbecomes hmade⟩
    show s.byteTaken l = _
    rw [State.byteTaken_of_claimed hinterprets hrel (hneedHere ▸ hpos), hsettle]
  · refine leaves_of_setLine (z := { workNoted (s.line l) y with claim := .absent }) ?_ rfl
    rw [effect_keyClaimGrant hgrant hclaim,
      State.useKeyGrant_of_covered (rel := rel) (by rw [underClaim_line]; exact hed) ((underClaim_considered ..).trans hrel)
        ((hneedThere ..).trans_le hcovered), hused, hstate]
    have hreserved : s.reserved + words - notices.length - (words - (notices.length + kept)) = s.reserved + kept := by omega
    show State.settle (State.setLine { u with
      pointer := .line l
      reserved := s.reserved + words - notices.length - (words - (notices.length + kept))
      answerQueue := s.answerQueue ++ notices } l _) l = _
    rw [hreserved]
  · exact leaves_of_short hgrant hclaim hrel ((hneedThere ..).symm ▸ hshort)

/-! ## What an entry at the head releases -/

/-- R70, R71, R72, R81: the entry at the head gives the action alone, and leaves nothing pending. -/
theorem entryOut_of_presses {s : State} {l : LineId} {e : Entry} {a : Action} (h : Presses s l e a) :
    EntryOut (s.lineProfile l) (s.line l).config.breakAction (s.line l).pendingKeys e (handed a) [] false := by
  rcases h with ⟨b, rfl, hpending, halone, hmap⟩ | ⟨b, k, rfl, hk, hkeys, hlongest⟩ | ⟨rfl, hpending, ha⟩
  · have hexamined := Examined.alone halone (.inl ⟨a, hmap, rfl, rfl⟩) (Examined.none (p := s.lineProfile l) [])
    rw [List.append_nil] at hexamined
    rw [hpending]
    exact hexamined
  · have hentry : IsEntry (s.lineProfile l) ((s.line l).pendingKeys ++ [b]) a :=
      ⟨⟨k, hk, hkeys⟩, fun j hj he => (hlongest j hj (by rw [hkeys, he])).2⟩
    have hopens : ¬ OpensEntry (s.lineProfile l) ((s.line l).pendingKeys ++ [b]) := fun ⟨j, hj, hprefix, hne⟩ =>
      hne ((hlongest j hj (hkeys ▸ hprefix)).1.trans hkeys)
    have hexamined := Examined.entry hentry hopens (Examined.none (p := s.lineProfile l) [])
    rw [List.append_nil] at hexamined
    exact hexamined
  · rw [hpending]
    cases hb : (s.line l).config.breakAction <;> rw [hb] at ha <;> subst ha
    · exact ⟨rfl, rfl, rfl⟩
    · exact ⟨[], .inl ⟨rfl, rfl, rfl, rfl⟩, rfl⟩
    · exact ⟨[], .inl ⟨rfl, rfl, rfl, rfl⟩, rfl⟩

/-- R69: the line when the entry at its head has left the type-ahead, with `q` behind it, and released its run. -/
def struck (x : Line) (q : List Entry) : Line := { x with typeAhead := q, pendingKeys := [], gapTimer := .stopped, releaseDue := false }

/-- R69, R72, R101: the entry at the head, which leaves nothing pending, is taken and its run applied. -/
theorem State.takeConsidered_of_head {s : State} {l : LineId} {e : Entry} {q : List Entry} {es : List Elem}
    (hdue : (s.line l).releaseDue = false) (hhead : (s.line l).typeAhead = e :: q) :
    s.takeConsidered l ⟨es, [], false⟩ =
      ((s.setLine l (struck (s.line l) q)).applyRun l es).map fun s => s.modInst l fun i => { i with inactivity := .stopped } := by
  have hline : relieved ((s.modLine l fun x => { x with typeAhead := x.typeAhead.drop 1 }).line l) [] false = struck (s.line l) q := by
    rw [State.modLine_line_self, hhead]
    simp only [relieved, Bool.false_and, Bool.or_false]
    rfl
  rw [State.takeConsidered, if_neg (by rw [hdue]; decide), State.takeHead, State.applyRelease, State.afterRelease_eq, hline,
    State.modLine, State.setLine_setLine]

/-- R69, R77, R78: the entry at the head that gives an action alone is taken. -/
theorem takes_of {s u : State} {l : LineId} {i : Inst} {e : Entry} {q : List Entry} {a : Action} {need kept : Nat}
    {notices : List Word} {y : Line} (hat : AtHead s l i e q) (hphase : i.phase = .editing) (hpress : Presses s l e a)
    (hneed : ∀ v : State, v.slots = s.slots → ∀ t, (v.line l).inst = some { i with inactivity := t } → v.runNeed l (handed a) = need)
    (hkept : notices.length + kept ≤ need)
    (hu : { u with pointer := s.pointer, reserved := s.reserved, answerQueue := s.answerQueue } = u)
    (hy : y = { s.line l with inst := y.inst, bellPending := y.bellPending })
    (hrun : ∀ p r c, ∃ n, (State.setLine { s with pointer := p, reserved := r } l
        (struck { s.line l with claim := c } q)).applyRun l (handed a) =
      ⟨State.setLine { u with pointer := p, reserved := r - notices.length, answerQueue := s.answerQueue ++ notices } l
        (workNoted (s.line l) (struck { y with claim := c } q)), n, notices.length + kept⟩) :
    Takes s l q need kept notices u y := by
  obtain ⟨hinst, hattached, hheld, hhead, hdue⟩ := hat
  have hed : Editable (s.line l) = true := by simp [Editable, hinst, hphase, hheld, hattached]
  have hout := entryOut_of_presses hpress
  have hcons : Considers s l (handed a) := ⟨[], false, .inr ⟨hdue, e, q, hhead, hout⟩⟩
  have hrel : s.considered l = some ⟨handed a, [], false⟩ := by
    rw [State.considered, if_neg (by rw [hdue]; decide), hhead]
    exact congrArg some (Profile.takeEntry_of hout)
  have htaken (p : Claimant) (r : Nat) (c : LineClaim) : (underClaim s l p r c).takeConsidered l ⟨handed a, [], false⟩ =
      ((State.setLine { s with pointer := p, reserved := r } l (struck { s.line l with claim := c } q)).applyRun l (handed a)).map
        fun s => s.modInst l fun i => { i with inactivity := .stopped } := by
    rw [State.takeConsidered_of_head (e := e) (q := q) (by rw [underClaim_line]; exact hdue) (by rw [underClaim_line]; exact hhead),
      underClaim_line, underClaim, State.setLine_setLine]
  refine uses_of (rel := ⟨handed a, [], false⟩) hinst hed hcons hrel hneed hkept hu (by rw [hy]; rfl) (fun p r c => ?_) fun p r c => ?_
  · obtain ⟨n, hresult⟩ := hrun p r c
    rw [htaken, hresult, Run.map, State.modInst_onLine]
    rw [hy]
    simp only [workNoted, struck, keystroke, Option.map_map, hdue]
    rfl
  · obtain ⟨n, hresult⟩ := hrun p r c
    rw [htaken, hresult]
    rfl

end Sys2Proof.Machine
end

section
/-! PROOFS. Submission (R119 to R123, R128): the sweep, the forward-exit check, and a SUBMIT through both. -/

namespace Sys2Proof.Machine

open Sys2Proof.Safety

-- The proofs of the whole text share one memory limit, and each thread takes its part of it.
set_option Elab.async false

/-! ## The check of a field -/

/-- R53, R56: the record of a field after a check without canonical form. -/
theorem FieldRec.setInvalid_eq (r : FieldRec) (ok : Bool) : r.setInvalid (!ok) = checkedRec r ok := by
  unfold FieldRec.setInvalid FieldRec.afterHighlight checkedRec FieldRec.highlighted
  cases r.invalid <;> cases r.errorMark <;> cases ok <;> rfl

/-- R53: the check of a field of the instance on a line. -/
theorem State.recheck_of_inst {s : State} {l : LineId} {i : Inst} (hi : (s.line l).inst = some i) (n : Nat) :
    s.recheck l n =
      s.setLine l (lineWith s l (withField i n (checkedRec (i.field n) (fieldCheck ((s.form i).field n) (s.value l n))))) := by
  rw [State.recheck, State.modField_eq, State.modInst_eq, hi, Option.map_some, Inst.modField_eq, FieldRec.setInvalid_eq,
    State.formOf_of_inst hi]
  rfl

theorem State.value_setLine {s : State} {l : LineId} {i j : Inst} (hi : (s.line l).inst = some i) {x : Line} (hx : x.inst = some j)
    (hslot : j.slot = i.slot) (hextent : j.extent = i.extent) {n : Nat} (hlength : (j.field n).valueLength = (i.field n).valueLength) :
    (s.setLine l x).value l n = s.value l n := by
  have hform : (s.setLine l x).form j = s.form i := State.form_congr rfl hslot
  rw [State.value_of_inst (j := j) (by rw [State.setLine_line_self]; exact hx), State.value_of_inst hi, hform, hlength, hextent]
  rfl

/-- The check of a field leaves every value. -/
theorem State.value_recheck {s : State} {l : LineId} {i : Inst} (hi : (s.line l).inst = some i) (n m : Nat) :
    (s.recheck l n).value l m = s.value l m := by
  rw [State.recheck_of_inst hi]
  refine State.value_setLine (j := withField i n _) hi rfl rfl rfl ?_
  by_cases hm : m = n
  · subst hm
    by_cases hlt : m < i.fields.length
    · rw [field_withField hlt]
      rfl
    · rw [Inst.field, Inst.field, withField, List.set_eq_of_length_le (Nat.le_of_not_lt hlt)]
  · rw [field_withField_of_ne hm]

/-! ## The sweep -/

/-- R121: a checked field fails the sweep just where its value does. -/
theorem State.failsSweep_recheck {s : State} {l : LineId} {i : Inst} (hi : (s.line l).inst = some i) {n : Nat} (hn : n < i.fields.length) :
    (s.recheck l n).failsSweep l n = Safety.failsSweep ((s.form i).field n) (s.value l n) := by
  have hinst : (s.recheck l n).instOf l =
      withField i n (checkedRec (i.field n) (fieldCheck ((s.form i).field n) (s.value l n))) := by
    rw [State.recheck_of_inst hi]
    exact State.instOf_of_inst (by rw [State.setLine_line_self]; rfl)
  have hform : (s.recheck l n).formOf l = s.form i := by
    rw [State.formOf, hinst]
    exact State.form_congr (s.recheck_slots l n) rfl
  have hspaces : decide (effectiveLength (s.value l n) = 0) = (s.value l n).all fun b => b == 0x20 := by
    rw [Bool.eq_iff_iff, decide_eq_true_iff, effectiveLength_eq_zero_iff, List.all_eq_true]
    simp only [beq_iff_eq]
    rfl
  rw [State.failsSweep, hinst, hform, State.value_recheck hi, field_withField hn, hspaces]
  rfl

/-- R121: the sweep ends at the first field that fails. -/
theorem State.sweep_snd {l : LineId} (ns : List Nat) : ∀ {s : State} {i : Inst}, (s.line l).inst = some i →
    (∀ n ∈ ns, n < i.fields.length) →
      (s.sweep l ns).2 = ns.find? fun n => Safety.failsSweep ((s.form i).field n) (s.value l n) := by
  induction ns with
  | nil => exact fun _ _ => rfl
  | cons n ns ih =>
    intro s i hi hlt
    have hn := hlt n (List.mem_cons_self ..)
    have hnext : ((s.recheck l n).line l).inst =
        some (withField i n (checkedRec (i.field n) (fieldCheck ((s.form i).field n) (s.value l n)))) := by
      rw [State.recheck_of_inst hi, State.setLine_line_self]
      rfl
    have hform : (s.recheck l n).form (withField i n (checkedRec (i.field n) (fieldCheck ((s.form i).field n) (s.value l n)))) =
        s.form i := State.form_congr (s.recheck_slots l n) rfl
    rw [State.sweep, State.failsSweep_recheck hi hn, List.find?_cons]
    cases Safety.failsSweep ((s.form i).field n) (s.value l n) with
    | true => rfl
    | false =>
      simp only [Bool.false_eq_true, if_false]
      rw [ih hnext fun m hm => by rw [withField, List.length_set]; exact hlt m (List.mem_cons_of_mem _ hm), hform]
      simp only [State.value_recheck hi]

/-- R121: an instance of which these fields were checked, up to `stop`. -/
def sweptOver (d : FormDef) (i : Inst) (value : Nat → List Byte) (ns : List Nat) (stop : Option Nat) : Inst :=
  { i with
    fields := (List.range i.fields.length).map fun n =>
      if n ∈ ns ∧ ∀ z ∈ stop, n ≤ z then checkedRec (i.field n) (fieldCheck (d.field n) (value n)) else i.field n }

theorem fields_eq_range (i : Inst) : i.fields = (List.range i.fields.length).map i.field := by
  refine List.ext_getElem (by simp) fun n hn _ => ?_
  simp [Inst.field, hn]

/-- R121: a sweep over no field. -/
theorem sweptOver_nil (d : FormDef) (i : Inst) (value : Nat → List Byte) (stop : Option Nat) : sweptOver d i value [] stop = i := by
  have hfields : (List.range i.fields.length).map (fun n =>
      if n ∈ ([] : List Nat) ∧ ∀ z ∈ stop, n ≤ z then checkedRec (i.field n) (fieldCheck (d.field n) (value n)) else i.field n) =
      i.fields := by
    simp only [List.not_mem_nil, false_and, if_false]
    exact (fields_eq_range i).symm
  rw [sweptOver, hfields]

/-- R121: a sweep that checks one field and goes on, or stops there. -/
theorem sweptOver_cons {d : FormDef} {i : Inst} {value : Nat → List Byte} {n : Nat} {ns ms : List Nat} {stop stop' : Option Nat}
    (hn : n < i.fields.length)
    (hsame : ∀ m, m ≠ n → (m ∈ ms ∧ (∀ z ∈ stop', m ≤ z) ↔ m ∈ ns ∧ ∀ z ∈ stop, m ≤ z)) (hnot : n ∉ ms)
    (hhere : n ∈ ns ∧ ∀ z ∈ stop, n ≤ z) :
    sweptOver d (withField i n (checkedRec (i.field n) (fieldCheck (d.field n) (value n)))) value ms stop' =
      sweptOver d i value ns stop := by
  have hlength : (withField i n (checkedRec (i.field n) (fieldCheck (d.field n) (value n)))).fields.length = i.fields.length := by
    rw [withField, List.length_set]
  unfold sweptOver
  rw [hlength]
  show ({ i with fields := _ } : Inst) = { i with fields := _ }
  congr 1
  refine List.map_congr_left fun m _ => ?_
  by_cases hm : m = n
  · subst hm
    rw [if_neg fun h => hnot h.1, if_pos hhere, field_withField hn]
  · rw [field_withField_of_ne hm]
    exact if_congr (hsame m hm) rfl rfl

/-- R121: what the sweep over fields in order leaves. -/
theorem State.sweep_fst {l : LineId} (ns : List Nat) : ∀ {s : State} {i : Inst}, (s.line l).inst = some i →
    (∀ n ∈ ns, n < i.fields.length) → ns.Pairwise (· < ·) →
      (s.sweep l ns).1 = s.setLine l (lineWith s l (sweptOver (s.form i) i (s.value l) ns (s.sweep l ns).2)) := by
  induction ns with
  | nil =>
    intro s i hi _ _
    rw [sweptOver_nil]
    show s = s.setLine l { s.line l with inst := some i }
    rw [← hi]
    exact (s.setLine_line l).symm
  | cons n ns ih =>
    intro s i hi hlt hsorted
    obtain ⟨hfirst, hsorted⟩ := List.pairwise_cons.1 hsorted
    have hn := hlt n (List.mem_cons_self ..)
    have hnot : n ∉ ns := fun h => Nat.lt_irrefl _ (hfirst n h)
    have hnext : ((s.recheck l n).line l).inst =
        some (withField i n (checkedRec (i.field n) (fieldCheck ((s.form i).field n) (s.value l n)))) := by
      rw [State.recheck_of_inst hi, State.setLine_line_self]
      rfl
    have hform : (s.recheck l n).form (withField i n (checkedRec (i.field n) (fieldCheck ((s.form i).field n) (s.value l n)))) =
        s.form i := State.form_congr (s.recheck_slots l n) rfl
    have hvalue : (s.recheck l n).value l = s.value l := funext fun m => State.value_recheck hi n m
    have hrest : ∀ m ∈ ns, m < (withField i n (checkedRec (i.field n) (fieldCheck ((s.form i).field n) (s.value l n)))).fields.length :=
      fun m hm => by rw [withField, List.length_set]; exact hlt m (List.mem_cons_of_mem _ hm)
    have hline (j : Inst) : (s.recheck l n).setLine l (lineWith (s.recheck l n) l j) = s.setLine l (lineWith s l j) := by
      rw [State.recheck_of_inst hi, State.setLine_setLine, lineWith, State.setLine_line_self]
      rfl
    rw [State.sweep]
    by_cases hfails : (s.recheck l n).failsSweep l n = true
    · rw [if_pos hfails]
      have hswept := sweptOver_cons (d := s.form i) (value := s.value l) (ns := n :: ns) (ms := []) (stop := some n)
        (stop' := some n) hn (fun m hm => ⟨fun h => absurd h.1 List.not_mem_nil, fun ⟨h, hz⟩ =>
          absurd (hfirst m ((List.mem_cons.1 h).resolve_left hm)) (Nat.not_lt.2 (hz n rfl))⟩) List.not_mem_nil
        ⟨List.mem_cons_self .., fun z hz => (Option.some.inj hz).le⟩
      rw [← hswept, sweptOver_nil, State.recheck_of_inst hi]
    · rw [if_neg hfails, ih hnext hrest hsorted, hform, hvalue, hline]
      generalize hstop : ((s.recheck l n).sweep l ns).2 = stop
      have hafter : ∀ z ∈ stop, n ≤ z := fun z hz => by
        rw [← hstop, State.sweep_snd ns hnext hrest] at hz
        exact (hfirst z (List.mem_of_find?_eq_some hz)).le
      rw [sweptOver_cons (ns := n :: ns) hn (fun m hm => ?_) hnot ⟨List.mem_cons_self .., hafter⟩]
      rw [List.mem_cons, or_iff_right hm]

theorem openFields_eq (i : Inst) (d : FormDef) : i.openFields d = openOf d i := rfl

theorem openOf_sorted (d : FormDef) (i : Inst) : (openOf d i).Pairwise (· < ·) := List.Pairwise.filter _ List.pairwise_lt_range

theorem lt_of_mem_openOf {d : FormDef} {i : Inst} {n : Nat} (h : n ∈ openOf d i) : n < d.fields.length :=
  List.mem_range.1 (List.mem_filter.1 h).1

/-- R121: the sweep of a submission takes the fields that are effectively unprotected. -/
theorem sweptOver_openOf {d : FormDef} {i : Inst} (hlength : i.fields.length = d.fields.length) (value : Nat → List Byte)
    (stop : Option Nat) : sweptOver d i value (openOf d i) stop = sweptInst d i value stop := by
  unfold sweptOver sweptInst
  congr 1
  refine List.map_congr_left fun n hn => ?_
  have hmem : n ∈ openOf d i ↔ i.fieldProtected d n = false := by
    rw [openOf, List.mem_filter, Bool.not_eq_true', and_iff_right (hlength ▸ hn)]
  exact if_congr (and_congr_left' hmem) rfl rfl

/-- R121: the sweep of a submission. -/
theorem State.sweep_openOf {s : State} {l : LineId} {i : Inst} (hi : (s.line l).inst = some i)
    (hlength : i.fields.length = (s.form i).fields.length) {stop : Option Nat}
    (hstop : (openOf (s.form i) i).find? (fun n => Safety.failsSweep ((s.form i).field n) (s.value l n)) = stop) :
    s.sweep l ((s.instOf l).openFields (s.formOf l)) =
      (s.setLine l (lineWith s l (sweptInst (s.form i) i (s.value l) stop)), stop) := by
  have hlt : ∀ n ∈ openOf (s.form i) i, n < i.fields.length := fun n hn => hlength ▸ lt_of_mem_openOf hn
  have hsnd := (State.sweep_snd _ hi hlt).trans hstop
  have hfst := State.sweep_fst _ hi hlt (openOf_sorted _ i)
  rw [State.formOf_of_inst hi, State.instOf_of_inst hi, openFields_eq]
  rw [hsnd, sweptOver_openOf hlength] at hfst
  exact Prod.ext hfst hsnd

end Sys2Proof.Machine
end

section
/-! PROOFS. A SUBMIT (R119 to R123): its forward-exit check, its sweep, and what it leaves. -/

namespace Sys2Proof.Machine

open Sys2Proof.Safety

-- The proofs of the whole text share one memory limit, and each thread takes its part of it.
set_option Elab.async false

/-! ## The forward-exit check of the cursor field -/

/-- R56, R59: the record of a field after its forward-exit check. -/
theorem FieldRec.afterExit_eq {r : FieldRec} {v : List Byte} (hlength : v.length = r.valueLength) (out : List Byte × Bool) :
    r.afterExit v out = exitedRec r v out := by
  obtain ⟨w, pass⟩ := out
  unfold FieldRec.afterExit exitedRec FieldRec.setInvalid FieldRec.afterHighlight FieldRec.highlighted FieldRec.lowerStale
  by_cases hw : w = v
  · subst hw
    rw [if_pos rfl, if_pos rfl, hlength]
    cases pass <;> cases hi : r.invalid <;> cases he : r.errorMark <;> simp [hi, he]
  · rw [if_neg hw, if_neg hw]
    cases pass <;> cases r.invalid <;> cases r.errorMark <;> simp
    all_goals
      cases r.staleFrom with
      | none => rfl
      | some p => exact Nat.min_comm ..

/-- R92, R93: the instance after the forward-exit check of its cursor field. -/
theorem Inst.exited_eq {i : Inst} {n : Nat} (hcursor : i.cursorField = some n) (hn : n < i.fields.length) {v : List Byte}
    (hlength : v.length = (i.field n).valueLength) (out : List Byte × Bool) :
    (i.modField n (FieldRec.afterExit v out)).clampCursor n = exitedInst i n v out := by
  have hlen : ((withField i n (exitedRec (i.field n) v out)).field n).valueLength = out.1.length := by rw [field_withField hn]; rfl
  rw [Inst.modField_eq, FieldRec.afterExit_eq hlength, Inst.clampCursor, hlen]
  show (if i.cursorField = some n ∧ out.1.length < i.cursorPos then _ else _) = _
  by_cases hlt : out.1.length < i.cursorPos
  · rw [if_pos ⟨hcursor, hlt⟩, exitedInst, Nat.min_eq_right hlt.le, decide_eq_true hlt, Bool.or_true]
  · rw [if_neg fun h => hlt h.2, exitedInst, Nat.min_eq_left (Nat.le_of_not_lt hlt), decide_eq_false hlt, Bool.or_false]
    rfl

/-- R59, R92, R93: the forward-exit check of the cursor field, on a line whose instance is known. -/
theorem State.exitCheck_of_inst {s : State} {l : LineId} {i : Inst} (hi : (s.line l).inst = some i) {n : Nat}
    (hcursor : i.cursorField = some n) (hn : n < i.fields.length) :
    s.exitCheck l n =
      (State.setLine { s with valueMemory := s.exitMemory l n } l
          (lineWith s l (exitedInst i n (s.value l n) (exitOutcome ((s.form i).field n) (s.value l n)))),
        (exitOutcome ((s.form i).field n) (s.value l n)).2) := by
  have hlength : (s.value l n).length = (i.field n).valueLength := by rw [State.value_length, State.instOf_of_inst hi]
  refine Prod.ext ?_ ?_
  · rw [State.exitCheck_eq, State.formOf_of_inst hi, State.modInst_eq]
    show State.setLine _ l { s.line l with inst := (s.line l).inst.map _ } = _
    rw [hi, Option.map_some, Inst.exited_eq hcursor hn hlength]
    rfl
  · rw [← State.formOf_of_inst hi]
    rfl

/-- R59, R92: what the forward-exit check writes. -/
theorem exitWrites_exitMemory {s : State} {l : LineId} {i : Inst} (hi : (s.line l).inst = some i) (n : Nat) :
    ExitWrites s i n s.valueMemory (s.exitMemory l n) (s.value l n) (exitOutcome ((s.form i).field n) (s.value l n)) := by
  unfold State.exitMemory ExitWrites
  rw [State.formOf_of_inst hi, State.instOf_of_inst hi, State.valueAddress_eq]
  refine ⟨fun h => if_pos h, fun h => ?_⟩
  rw [if_neg h]
  exact wrote_writeBytes _ _ _

/-! ## The sweep and what follows it -/

/-- R109: a bell on a line that is not detached. -/
theorem State.bell_of_attached {s : State} {l : LineId} {x : Line} (hattached : x.detached = false) :
    (s.setLine l x).bell l = s.setLine l (rung x) := by
  rw [State.bell_eq, State.setLine_line_self, State.setLine_setLine, hattached, Bool.not_false, Bool.or_true]
  rfl

/-- R123: a submission that succeeds is matched. -/
theorem State.succeedSubmission_setLine {s : State} {l : LineId} {x : Line} {j : Inst} (hx : x.inst = some j) :
    (s.setLine l x).succeedSubmission l = (s.setLine l { x with inst := some (submittedInst j) }).matchSubmission l := by
  rw [State.succeedSubmission, State.modInst_onLine, hx]
  rfl

theorem Run.sweepAndSubmit_of_fails {r : Run} {l : LineId} {s : State} {z : Nat}
    (h : r.state.sweep l ((r.state.instOf l).openFields (r.state.formOf l)) = (s, some z)) :
    r.sweepAndSubmit l = ⟨s.refuseSubmission l z, r.need, r.used⟩ := by
  rw [Run.sweepAndSubmit, h]

theorem Run.sweepAndSubmit_of_passes {r : Run} {l : LineId} {s : State}
    (h : r.state.sweep l ((r.state.instOf l).openFields (r.state.formOf l)) = (s, none)) :
    r.sweepAndSubmit l = ⟨s.succeedSubmission l, r.need, r.used + 6⟩ := by
  rw [Run.sweepAndSubmit, h]
  rfl

/-- R77: a sweep counts no word of its own. -/
theorem Run.sweepAndSubmit_need (r : Run) (l : LineId) : (r.sweepAndSubmit l).need = r.need := by
  unfold Run.sweepAndSubmit
  split <;> rfl

/-- R77: a SUBMIT counts 6 words. -/
theorem Run.submit_need (r : Run) (l : LineId) : (r.submit l).need = r.need + 6 := by
  unfold Run.submit
  split
  · exact Run.sweepAndSubmit_need ..
  · split
    · exact Run.sweepAndSubmit_need ..
    · rfl

/-! ## A SUBMIT as a run of its own -/

theorem Run.byPhase_of_editing {r : Run} {l : LineId} {i : Inst} (hi : (r.state.line l).inst = some i) (hphase : i.phase = .editing)
    (e : Elem) : r.byPhase l e = r.inEditing l e := by
  rw [Run.byPhase, State.instOf_of_inst hi, hphase]

/-- R76: a run of one element in EDITING. -/
theorem State.applyRun_of_editing {s : State} {l : LineId} {i : Inst} (hi : (s.line l).inst = some i) (hphase : i.phase = .editing)
    (e : Elem) :
    s.applyRun l [e] = ((Run.mk s 0 0).inEditing l e).map fun u => u.modInst l fun j => j.fieldWorkSince (s.instOf l) := by
  show Run.elem l ⟨s, 0, 0⟩ e = _
  rw [Run.elem, Run.byPhase_of_editing hi hphase]

/-- R77: a SUBMIT needs 6 words. -/
theorem State.runNeed_submit {s : State} {l : LineId} {i : Inst} (hi : (s.line l).inst = some i) (hphase : i.phase = .editing) :
    s.runNeed l (handed .submit) = 6 := by
  show (s.applyRun l [.action .submit]).need = 6
  rw [State.applyRun_of_editing hi hphase]
  exact Run.submit_need ..

/-- R76: the part while the entry at the head is applied, under any claim: value memory as `m`, and the instance of the line as `j`. -/
def duringRun (s : State) (l : LineId) (q : List Entry) (m : Memory) (j : Inst) (p : Claimant) (r : Nat) (c : LineClaim) : State :=
  State.setLine { s with valueMemory := m, pointer := p, reserved := r } l (struck { lineWith s l j with claim := c } q)

section
variable (s : State) (l : LineId) (q : List Entry) (m : Memory) (j : Inst) (p : Claimant) (r : Nat) (c : LineClaim)

@[simp] theorem duringRun_line : (duringRun s l q m j p r c).line l = struck { lineWith s l j with claim := c } q :=
  State.setLine_line_self _ _ _

theorem duringRun_lineWith (k : Inst) :
    lineWith (duringRun s l q m j p r c) l k = struck { lineWith s l k with claim := c } q := by
  rw [lineWith, duringRun_line]
  rfl

theorem duringRun_inst : ((duringRun s l q m j p r c).line l).inst = some j := by
  rw [duringRun_line]
  rfl

theorem duringRun_setLine (x : Line) :
    (duringRun s l q m j p r c).setLine l x = State.setLine { s with valueMemory := m, pointer := p, reserved := r } l x :=
  State.setLine_setLine _ _ _ _

theorem duringRun_modInst (f : Inst → Inst) : (duringRun s l q m j p r c).modInst l f = duringRun s l q m (f j) p r c :=
  State.modInst_onLine _ _ _ _

variable {s l} in
theorem duringRun_bell (hattached : (s.line l).detached = false) :
    (duringRun s l q m j p r c).bell l =
      State.setLine { s with valueMemory := m, pointer := p, reserved := r } l (struck { rung (lineWith s l j) with claim := c } q) :=
  State.bell_of_attached (x := struck { lineWith s l j with claim := c } q) hattached

/-- Another record for the line, in the part that differs elsewhere too. -/
theorem State.setLine_of_lines {u v : State} {x : Line} (h : u = { v with lines := (v.setLine l x).lines }) (y : Line) :
    u.setLine l y = v.setLine l y := by
  rw [h]
  exact State.setLine_setLine v l x y

theorem duringRun_value :
    (duringRun s l q m j p r c).value l = (State.setLine { s with valueMemory := m } l (lineWith s l j)).value l := by
  funext n
  rw [State.value_of_inst (duringRun_inst ..), State.value_of_inst (j := j) (by rw [State.setLine_line_self]; rfl)]
  rfl

theorem duringRun_form : (duringRun s l q m j p r c).form j = s.form j := rfl

/-- The entry at the head about to be applied. -/
theorem duringRun_self {s : State} {l : LineId} {i : Inst} (hi : (s.line l).inst = some i) :
    State.setLine { s with pointer := p, reserved := r } l (struck { s.line l with claim := c } q) =
      duringRun s l q s.valueMemory i p r c := by
  unfold duringRun lineWith
  rw [← hi]

end

/-- R77, R78, R119: what a SUBMIT at the head leaves, from the state `u` with the line as `y` that its run leaves. -/
theorem takes_submit {s u : State} {l : LineId} {i : Inst} {e : Entry} {q : List Entry} {kept : Nat} {y : Line}
    (hat : AtHead s l i e q) (hphase : i.phase = .editing) (hpress : Presses s l e .submit) (hkept : kept ≤ 6)
    (hu : { u with pointer := s.pointer, reserved := s.reserved, answerQueue := s.answerQueue } = u)
    (hy : y = { s.line l with inst := y.inst, bellPending := y.bellPending })
    (hrun : ∀ p r c, (Run.mk (duringRun s l q s.valueMemory i p r c) 0 0).submit l =
      ⟨State.setLine { u with pointer := p, reserved := r } l (struck { y with claim := c } q), 6, kept⟩) :
    Takes s l q 6 kept [] u y := by
  refine takes_of (a := .submit) hat hphase hpress
    (fun v _ t hv => State.runNeed_submit (i := { i with inactivity := t }) hv hphase) (by simpa using hkept) hu hy fun p r c => ⟨6, ?_⟩
  have happly : Run.inEditing (Run.mk (duringRun s l q s.valueMemory i p r c) 0 0) l (.action .submit) = _ := hrun p r c
  have hqueue : ({ u with pointer := p, reserved := r } : State) = { u with pointer := p, reserved := r, answerQueue := s.answerQueue } := by
    rw [← hu]
  rw [duringRun_self (hi := hat.inst)]
  show State.applyRun _ l [.action .submit] = _
  rw [State.applyRun_of_editing (duringRun_inst ..) hphase, happly, Run.map, State.fieldWork_noted, duringRun_line, List.append_nil,
    List.length_nil, Nat.zero_add, Nat.sub_zero, hqueue]
  have hnoted : workNoted (struck { lineWith s l i with claim := c } q) (struck { y with claim := c } q) =
      workNoted (s.line l) (struck { y with claim := c } q) := by
    unfold lineWith
    rw [← hat.inst]
    rfl
  rw [hnoted]

/-- R121 to R123, R128: the sweep of the instance that stands after the forward-exit check, and what follows it. -/
theorem submits_of {s : State} {l : LineId} {i j : Inst} {m : Memory} {e : Entry} {q : List Entry} (hat : AtHead s l i e q)
    (hphase : i.phase = .editing) (hpress : Presses s l e .submit) (hlength : j.fields.length = (s.form j).fields.length)
    (hrun : ∀ p r c, (Run.mk (duringRun s l q s.valueMemory i p r c) 0 0).submit l =
      (Run.mk (duringRun s l q m j p r c) 6 0).sweepAndSubmit l) :
    Submits s l q { s with valueMemory := m } j := by
  have hsweep (p : Claimant) (r : Nat) (c : LineClaim) {stop : Option Nat}
      (hstop : (openOf (s.form j) j).find? (fun n => failsSweep ((s.form j).field n)
        ((State.setLine { s with valueMemory := m } l (lineWith s l j)).value l n)) = stop) :
      (duringRun s l q m j p r c).sweep l (((duringRun s l q m j p r c).instOf l).openFields ((duringRun s l q m j p r c).formOf l)) =
        (duringRun s l q m
          (sweptInst (s.form j) j ((State.setLine { s with valueMemory := m } l (lineWith s l j)).value l) stop) p r c, stop) := by
    rw [State.sweep_openOf (duringRun_inst ..) hlength (stop := stop) (by rw [duringRun_value]; exact hstop), duringRun_value,
      duringRun_form, duringRun_setLine, duringRun_lineWith]
    rfl
  have hmatched (p : Claimant) (r : Nat) (c : LineClaim) (k : Inst) :
      (duringRun s l q m k p r c).succeedSubmission l = (duringRun s l q m (submittedInst k) p r c).matchSubmission l :=
    State.succeedSubmission_setLine rfl
  refine ⟨fun z hz k hk => ?_, fun hz k hk => ⟨fun older d newer hlist holder hd => ?_, fun hnone => ?_⟩⟩
  · subst hk
    refine takes_submit hat hphase hpress (Nat.zero_le 6) rfl rfl fun p r c => ?_
    rw [hrun, Run.sweepAndSubmit_of_fails (hsweep p r c hz), State.refuseSubmission, duringRun_modInst, duringRun_bell _ _ _ _ _ _ hat.attached]
    rfl
  · subst hk
    refine takes_submit hat hphase hpress (Nat.le_refl 6) rfl rfl fun p r c => ?_
    rw [hrun, Run.sweepAndSubmit_of_passes (hsweep p r c hz), hmatched, State.matchSubmission_of_fits (duringRun_inst ..) hlist holder hd,
      duringRun_lineWith]
    exact congrArg (Run.mk · 6 6) (State.setLine_of_lines l (v := { s with
      valueMemory := m
      pointer := p
      reserved := r
      bufferList := older ++ newer
      busQueue := s.busQueue ++ [⟨.delivery l, d.address, _⟩] }) rfl _)
  · subst hk
    refine takes_submit hat hphase hpress (Nat.le_refl 6) rfl rfl fun p r c => ?_
    rw [hrun, Run.sweepAndSubmit_of_passes (hsweep p r c hz), hmatched, State.matchSubmission_of_none (duringRun_inst ..) hnone,
      duringRun_lineWith]
    exact congrArg (Run.mk · 6 6) (State.setLine_of_lines l (v := { s with
      valueMemory := m
      pointer := p
      reserved := r
      waiting := s.waiting ++ [l] }) rfl _)

/-- R119, R120: the forward-exit check of a SUBMIT. -/
theorem submit_duringRun {s : State} {l : LineId} {i : Inst} {n : Nat} (hi : (s.line l).inst = some i)
    (hcursor : i.cursorField = some n) (hn : n < i.fields.length) (q : List Entry) (p : Claimant) (r : Nat) (c : LineClaim) :
    (Run.mk (duringRun s l q s.valueMemory i p r c) 0 0).submit l =
      if (exitOutcome ((s.form i).field n) (s.value l n)).2 = true then
        (Run.mk (duringRun s l q (s.exitMemory l n)
          (exitedInst i n (s.value l n) (exitOutcome ((s.form i).field n) (s.value l n))) p r c) 6 0).sweepAndSubmit l
      else
        (Run.mk (duringRun s l q (s.exitMemory l n)
          (exitedInst i n (s.value l n) (exitOutcome ((s.form i).field n) (s.value l n))) p r c) 6 0).bell l := by
  have hsame : SameEntry l s (duringRun s l q s.valueMemory i p r c) :=
    ⟨(duringRun_inst ..).trans hi.symm, rfl, rfl, rfl⟩
  have hmemory : (duringRun s l q s.valueMemory i p r c).exitMemory l n = s.exitMemory l n := by
    unfold State.exitMemory
    rw [hsame.formOf, hsame.value, hsame.address, hsame.values]
  have hcheck := State.exitCheck_of_inst (duringRun_inst s l q s.valueMemory i p r c) hcursor hn
  rw [hsame.value, hmemory, duringRun_form] at hcheck
  have hstate (j : Inst) : State.setLine { duringRun s l q s.valueMemory i p r c with valueMemory := s.exitMemory l n } l
      (lineWith (duringRun s l q s.valueMemory i p r c) l j) = duringRun s l q (s.exitMemory l n) j p r c := by
    rw [duringRun_lineWith]
    exact State.setLine_of_lines l (v := { s with valueMemory := s.exitMemory l n, pointer := p, reserved := r }) rfl _
  rw [hstate] at hcheck
  have hfield : ((Run.mk (duringRun s l q s.valueMemory i p r c) 0 0).state.instOf l).cursorField = some n :=
    (congrArg Inst.cursorField (State.instOf_of_inst (duringRun_inst ..))).trans hcursor
  rw [Run.submit, hfield]
  simp only [hcheck]
  cases (exitOutcome ((s.form i).field n) (s.value l n)).2 <;> rfl

/-- Settles O54: the sweep by its fields in order, the match by the list, the amounts by their parts, and a SUBMIT by its
forward-exit check and the sweep behind it. -/
theorem submissionSweptAndMatched : Obligations.SubmissionSweptAndMatched := by
  refine ⟨fun s l i hi hlength => ⟨fun ns hns => State.sweep_snd ns hi hns,
      fun older d newer hlist holder hd => State.matchSubmission_of_fits hi hlist holder hd,
      fun hnone => State.matchSubmission_of_none hi hnone⟩,
    fun scale v h => ?_, exitOutcome_spec, fun s l i e q hat hphase hlength hpress => ⟨fun hcursor => ?_, fun n hcursor hn => ?_⟩⟩
  · obtain ⟨hamount, hidem, hfraction, hwhole⟩ := canonical_spec h
    exact ⟨hamount, hidem, hfraction, hwhole, fun _ _ _ _ _ hv hsign hzeros hhead hdigits hdot =>
      canonical_of_parts scale hv hsign hzeros hhead hdigits hdot⟩
  · refine submits_of (m := s.valueMemory) hat hphase hpress hlength fun p r c => ?_
    rw [Run.submit, State.instOf_of_inst (duringRun_inst ..), hcursor]
    rfl
  · refine ⟨s.exitMemory l n, exitWrites_exitMemory hat.inst n, fun j hj => ⟨fun hfails => ?_, fun hpasses => ?_⟩⟩
    · refine takes_submit hat hphase hpress (Nat.zero_le 6) rfl rfl fun p r c => ?_
      rw [submit_duringRun hat.inst hcursor hn, if_neg (by rw [hfails]; decide), ← hj, Run.bell, Run.map,
        duringRun_bell _ _ _ _ _ _ hat.attached]
    · subst hj
      refine submits_of hat hphase hpress ?_ fun p r c => ?_
      · show (i.fields.set n _).length = _
        rw [List.length_set]
        exact hlength
      · rw [submit_duringRun hat.inst hcursor hn, if_pos hpasses]

end Sys2Proof.Machine
end

section
/-! PROOFS. The words of a run add up (R76, R77), and what a CANCEL, an ATTENTION and a placed character do (R86, R87, R96, R97). -/

namespace Sys2Proof.Machine

open Sys2Proof.Safety

-- The proofs of the whole text share one memory limit, and each thread takes its part of it.
set_option Elab.async false

/-! ## The words of a run add up -/

/-- R76: a run under way behind elements that counted and used words already. -/
def Run.plus (r : Run) (need used : Nat) : Run := ⟨r.state, need + r.need, used + r.used⟩

namespace Run

variable (r : Run) (l : LineId) (need used : Nat)

@[simp] theorem plus_state : (r.plus need used).state = r.state := rfl

theorem map_plus (f : State → State) : (r.plus need used).map f = (r.map f).plus need used := rfl

theorem bell_plus : (r.plus need used).bell l = (r.bell l).plus need used := rfl

theorem ite_plus (c : Prop) [Decidable c] (a b : Run) :
    (if c then a.plus need used else b.plus need used) = (if c then a else b).plus need used := by
  split <;> rfl

theorem notice_plus (words : List Word) : (r.plus need used).notice words = (r.notice words).plus need used := by
  simp [notice, plus, Nat.add_assoc]

theorem fieldExit_plus (n : Nat) : (r.plus need used).fieldExit l n = (r.fieldExit l n).plus need used := by
  unfold fieldExit
  rw [plus_state]
  split
  · exact notice_plus ..
  · rfl

theorem leaveFor_plus (n m : Nat) : (r.plus need used).leaveFor l n m = (r.leaveFor l n m).plus need used := by
  rw [leaveFor, fieldExit_plus, map_plus]
  rfl

theorem countSubmission_plus : (r.plus need used).countSubmission = r.countSubmission.plus need used := by
  simp [countSubmission, plus, Nat.add_assoc]

theorem sweepAndSubmit_plus : (r.plus need used).sweepAndSubmit l = (r.sweepAndSubmit l).plus need used := by
  unfold sweepAndSubmit
  rw [plus_state]
  split
  · rfl
  · simp [plus, Nat.add_assoc]

/-- A change of the state of a run behind others. -/
theorem withState_plus (s : State) : { r.plus need used with state := s } = ({ r with state := s } : Run).plus need used := rfl

theorem submit_plus : (r.plus need used).submit l = (r.submit l).plus need used := by
  unfold submit
  rw [plus_state, countSubmission_plus]
  split
  · exact sweepAndSubmit_plus ..
  · split
    · rw [withState_plus, sweepAndSubmit_plus]
    · rw [withState_plus, bell_plus]

theorem forward_plus (n : Nat) : (r.plus need used).forward l n = (r.forward l n).plus need used := by
  unfold forward
  rw [plus_state]
  split
  · exact leaveFor_plus ..
  · split
    · exact bell_plus ..
    · exact leaveFor_plus ..
    · rw [countSubmission_plus, sweepAndSubmit_plus]

theorem next_plus (n : Nat) : (r.plus need used).next l n = (r.next l n).plus need used := by
  unfold next
  rw [plus_state]
  split
  · rw [withState_plus, forward_plus]
  · rw [withState_plus, bell_plus]

theorem prev_plus (n : Nat) : (r.plus need used).prev l n = (r.prev l n).plus need used := by
  unfold prev
  rw [plus_state]
  split
  · exact leaveFor_plus ..
  · split
    · exact leaveFor_plus ..
    · exact bell_plus ..

theorem char_plus (n : Nat) (c : Byte) : (r.plus need used).char l n c = (r.char l n c).plus need used := by
  unfold char
  dsimp only [plus_state]
  split
  · split
    · split
      · rw [withState_plus, next_plus]
      · rfl
    · exact bell_plus ..
  · exact bell_plus ..

theorem onField_plus (n : Nat) (a : Action) : (r.plus need used).onField l n a = (r.onField l n a).plus need used := by
  cases a with
  | next => exact next_plus ..
  | prev => exact prev_plus ..
  | left | right | rubout | delete | clearField => 
    simp only [onField, plus_state, bell_plus, map_plus]
    exact ite_plus ..
  | home | toEnd | insertToggle | submit | cancel | attention | refresh | ignore => rfl

theorem inEditing_plus (e : Elem) : (r.plus need used).inEditing l e = (r.inEditing l e).plus need used := by
  unfold inEditing
  dsimp only [plus_state]
  split
  · rfl
  · exact submit_plus ..
  · exact notice_plus ..
  · exact notice_plus ..
  · rfl
  · split
    · exact onField_plus ..
    · exact bell_plus ..
  · split
    · exact char_plus ..
    · exact bell_plus ..

theorem elem_plus (e : Elem) : (r.plus need used).elem l e = (r.elem l e).plus need used := by
  have hphase : (r.plus need used).byPhase l e = (r.byPhase l e).plus need used := by
    unfold byPhase
    rw [plus_state]
    split
    · exact inEditing_plus ..
    · split <;> rfl
    · split <;> rfl
    · split <;> rfl
    · rfl
  rw [elem, hphase, map_plus]
  rfl

theorem foldl_elem_plus (es : List Elem) : ∀ r : Run,
    es.foldl (elem l) (r.plus need used) = (es.foldl (elem l) r).plus need used := by
  induction es with
  | nil => exact fun _ => rfl
  | cons e es ih =>
    intro r
    rw [List.foldl_cons, List.foldl_cons, elem_plus, ih]

end Run

/-- R76: a run applied behind another. -/
theorem State.applyRun_append (s : State) (l : LineId) (es es' : List Elem) :
    s.applyRun l (es ++ es') = ((s.applyRun l es).state.applyRun l es').plus (s.applyRun l es).need (s.applyRun l es).used := by
  rw [State.applyRun, List.foldl_append, State.applyRun, ← Run.foldl_elem_plus]
  rfl

/-! ## Single elements -/

/-- Nothing of the fields' work is noted where the instance stands as it was. -/
theorem State.fieldWorkSince_self (s : State) (l : LineId) : s.modInst l (fun j => j.fieldWorkSince (s.instOf l)) = s := by
  rw [State.modInst_eq]
  cases hi : (s.line l).inst with
  | none => rw [Option.map_none, ← hi, State.setLine_line]
  | some i => rw [Option.map_some, State.instOf_of_inst hi, Inst.fieldWorkSince_of_fields rfl, ← hi, State.setLine_line]

theorem workNoted_of_inst {x y : Line} (h : y.inst = x.inst) : workNoted x y = y := by
  have hinst : (workNoted x y).inst = y.inst := by
    show y.inst.map _ = _
    cases hy : y.inst with
    | none => rfl
    | some i =>
      have hi : x.inst.getD Inst.blank = i := by rw [← h, hy]; rfl
      rw [Option.map_some, hi]
      exact congrArg some ((i.fieldWorkSince_eq i).symm.trans (Inst.fieldWorkSince_of_fields rfl))
  show ({ y with inst := (workNoted x y).inst } : Line) = y
  rw [hinst]

/-- R96, R97: an element that posts a notice and leaves the instance. -/
theorem State.applyRun_of_notice {s : State} {l : LineId} {i : Inst} (hi : (s.line l).inst = some i) (hphase : i.phase = .editing)
    {e : Elem} {words : List Word} (he : (Run.mk s 0 0).inEditing l e = (Run.mk s 0 0).notice words) :
    s.applyRun l [e] = ⟨s.post words.length words, words.length, words.length⟩ := by
  have hsame := State.fieldWorkSince_self (s.post words.length words) l
  rw [State.applyRun_of_editing hi hphase, he]
  show Run.mk ((s.post words.length words).modInst l fun j => j.fieldWorkSince (s.instOf l)) (0 + words.length) (0 + words.length) = _
  rw [Nat.zero_add]
  exact congrArg (Run.mk · words.length words.length) hsame

/-- R97: what a CANCEL posts. -/
def cancelNotice (l : LineId) (i : Inst) : List Word := [0x0603, wordOf (byte l.val) 0, i.serial]

/-- R96: what an ATTENTION posts. -/
def attentionNotice (s : State) (l : LineId) (i : Inst) : List Word :=
  [0x0504, wordOf (byte l.val) (match i.cursorField with | some n => byte n | none => 255), i.serial,
    wordOf (match i.cursorField with | some n => ((s.form i).field n).helpCode | none => 0) 0]

theorem cancelRecord_eq (l : LineId) (i : Inst) : cancelRecord l i.serial = cancelNotice l i := by
  have hhead : wordOf (byte 3) 0x06 = 0x0603 := by decide
  show wordOf (byte 3) 0x06 :: _ = _
  rw [hhead]
  rfl

theorem attentionRecord_eq {s : State} {l : LineId} {i : Inst} (hi : (s.line l).inst = some i) :
    attentionRecord l i.cursorField i.serial (s.helpCode l) = attentionNotice s l i := by
  have hhead : wordOf (byte 4) 0x05 = 0x0504 := by decide
  have hfield : numberOr255 i.cursorField = match i.cursorField with | some n => byte n | none => 255 := by
    cases i.cursorField <;> rfl
  have hhelp : s.helpCode l = match i.cursorField with | some n => ((s.form i).field n).helpCode | none => 0 := by
    cases hcursor : i.cursorField <;> simp [State.helpCode, State.formOf_of_inst hi, State.instOf_of_inst hi, hcursor]
  show wordOf (byte 4) 0x05 :: wordOf _ (numberOr255 i.cursorField) :: _ = _
  rw [hhead, hfield, hhelp]
  rfl

theorem State.applyRun_cancel {s : State} {l : LineId} {i : Inst} (hi : (s.line l).inst = some i) (hphase : i.phase = .editing) :
    s.applyRun l [.action .cancel] = ⟨s.post 3 (cancelNotice l i), 3, 3⟩ :=
  State.applyRun_of_notice hi hphase (words := cancelNotice l i) (by
    show (Run.mk s 0 0).notice (cancelRecord l (s.instOf l).serial) = _
    rw [State.instOf_of_inst hi, cancelRecord_eq])

theorem State.applyRun_attention {s : State} {l : LineId} {i : Inst} (hi : (s.line l).inst = some i) (hphase : i.phase = .editing) :
    s.applyRun l [.action .attention] = ⟨s.post 4 (attentionNotice s l i), 4, 4⟩ :=
  State.applyRun_of_notice hi hphase (words := attentionNotice s l i) (by
    show (Run.mk s 0 0).notice (attentionRecord l (s.instOf l).cursorField (s.instOf l).serial (s.helpCode l)) = _
    rw [State.instOf_of_inst hi, attentionRecord_eq hi])

/-! ## A placed character -/

/-- R86: the value that placing a character gives. -/
theorem placed_of_places {mode : InsertMode} {length p : Nat} {v w : List Byte} {c : Byte} (h : Places mode length p v c w) :
    placed mode length v p c = some w := by
  rcases h with ⟨rfl, hp, rfl⟩ | ⟨hroom, rfl, rfl⟩ | ⟨rfl, hroom, -, rfl⟩
  · exact if_pos hp
  · cases mode with
    | overwrite => rw [placed, if_neg (Nat.lt_irrefl _), if_pos hroom]
    | insert => rw [placed, if_pos hroom, List.take_length, List.drop_length]
  · exact if_pos hroom

/-- R52, R56, R87: the record of a field after a clerk edit. -/
theorem FieldRec.typed_eq (r : FieldRec) (len p : Nat) :
    (FieldRec.lowerStale { r with valueLength := len } p).clerkEdit = typedRec r len p := by
  unfold FieldRec.clerkEdit FieldRec.lowerStale FieldRec.afterHighlight FieldRec.highlighted typedRec
  cases r.staleFrom with
  | none => cases r.invalid <;> cases r.errorMark <;> simp
  | some q => cases r.invalid <;> cases r.errorMark <;> simp [Nat.min_comm q p]

/-- R52, R87: a clerk edit of a field, on a line whose instance is known. -/
theorem State.clerkEdit_of_inst {s : State} {l : LineId} {i : Inst} (hi : (s.line l).inst = some i) (n : Nat) (v : List Byte)
    (p pos : Nat) :
    s.clerkEdit l n v p pos =
      State.setLine { s with valueMemory := Memory.writeBytes s.valueMemory (8 * i.extent.base + (s.form i).offset n) v } l
        (lineWith s l (typedInst i n v.length p pos)) := by
  rw [State.clerkEdit_eq, State.instOf_of_inst hi, State.valueAddress_eq, State.modInst_eq]
  show State.setLine _ l { s.line l with inst := (s.line l).inst.map _ } = _
  rw [hi, Option.map_some, Inst.modField_eq, FieldRec.typed_eq]
  rfl

/-- R88: a character counts no word in a field without AUTO_ADVANCE. -/
theorem Run.char_need {r : Run} {l : LineId} {i : Inst} (hi : (r.state.line l).inst = some i) {n : Nat} {c : Byte}
    (hauto : ((r.state.formOf l).field n).attrs.autoAdvance = false) : (r.char l n c).need = r.need := by
  unfold Run.char
  dsimp only
  split
  · split
    next v _ =>
      have hform (p pos : Nat) : (r.state.clerkEdit l n v p pos).formOf l = r.state.formOf l := by
        rw [State.clerkEdit_of_inst hi, State.formOf_of_inst (i := typedInst i n v.length p pos) (by rw [State.setLine_line_self]; rfl),
          State.formOf_of_inst hi]
        exact State.form_congr rfl rfl
      rw [if_neg]
      rw [State.autoAdvances, hform, hauto, Bool.false_and, Bool.false_and]
      exact Bool.false_ne_true
    · rfl
  · rfl

end Sys2Proof.Machine
end

section
/-! PROOFS. The release of keys (R75 to R80, R96, R97): at the end of the key gap, due, and at the grant of a key claim. -/

namespace Sys2Proof.Machine

open Sys2Proof.Safety

-- The proofs of the whole text share one memory limit, and each thread takes its part of it.
set_option Elab.async false

/-! ## The end of the key gap -/

/-- R73, R75: a lone pending byte that is no entry goes through the control map. -/
theorem pendingOut_of_mapsTo {p : Profile} {b : Byte} {a : Action} (hentry : ∀ e ∈ p.keyTable, e.keys ≠ [b]) (hmap : mapsTo p b a) :
    PendingOut p [b] (handed a) [] false := by
  refine .inr ⟨a, [], [], .inr ⟨b, rfl, hmap, fun k hk hne hprefix => hentry k hk ?_⟩, .none [], (List.append_nil _).symm⟩
  refine hprefix.eq_of_length ?_
  have hle := hprefix.length_le
  have hpos := List.length_pos_iff.2 hne
  rw [List.length_singleton] at hle ⊢
  omega

/-- R75: the gap timer runs out on pending bytes that release a run. -/
theorem leaves_gapTimerExpiry {s : State} {l : LineId} {n : Nat} {es : List Elem} {left : List Byte} {bell : Bool}
    (hrunning : (s.line l).gapTimer = .running n) (hout : PendingOut (s.lineProfile l) (s.line l).pendingKeys es left bell) :
    (s.runNeed l es = 0 → ∀ r, r = (s.setLine l (relieved (s.line l) left bell)).applyRun l es →
      Leaves (.gapTimerExpiry l) s r.state l (r.state.line l)) ∧
    (0 < s.runNeed l es →
      Leaves (.gapTimerExpiry l) s s l { s.line l with releaseDue := true, gapTimer := .stopped }) := by
  have heffect : s.effect (.gapTimerExpiry l) =
      if s.runNeed l es = 0 then ((s.applyRelease l ⟨es, left, bell⟩).state).settle l
      else (s.modLine l fun x => { x with gapTimer := .stopped, releaseDue := true }).settle l := by
    show effectGapTimerExpiry l s = _
    rw [effectGapTimerExpiry, hrunning, Timer.isRunning, if_pos rfl, State.gapExpired, Profile.gapRelease_of hout]
  refine ⟨fun hzero r hr => ?_, fun hpos => ?_⟩
  · rw [if_pos hzero, State.applyRelease, State.afterRelease_eq, ← hr] at heffect
    exact leaves_of (exec_eq_prompted s _) heffect rfl fun _ => rfl
  · rw [if_neg (Nat.ne_of_gt hpos)] at heffect
    exact leaves_of_setLine heffect rfl

/-! ## A release that stands due -/

section
variable {s : State} {l : LineId} {es : List Elem} {left : List Byte} {bell : Bool}

theorem considered_of_due (hdue : (s.line l).releaseDue = true)
    (hout : PendingOut (s.lineProfile l) (s.line l).pendingKeys es left bell) : s.considered l = some ⟨es, left, bell⟩ := by
  rw [State.considered, if_pos hdue, Profile.gapRelease_of hout]

/-- R75, R76: a due release is applied. -/
theorem State.takeConsidered_of_due (hdue : (s.line l).releaseDue = true) :
    s.takeConsidered l ⟨es, left, bell⟩ = (s.setLine l (relieved (s.line l) left bell)).applyRun l es := by
  rw [State.takeConsidered, if_pos hdue, State.applyRelease, State.afterRelease_eq]

/-- R76, R78: a due release is applied whole. -/
theorem runsWhole_of_due (hinterprets : Interprets (s.line l) = true) (hdue : (s.line l).releaseDue = true)
    (hout : PendingOut (s.lineProfile l) (s.line l).pendingKeys es left bell) :
    RunsWhole s l es (fun x => relieved x left bell) id := by
  have hrel := considered_of_due hdue hout
  refine ⟨fun hkey => ⟨fun hzero r hr => ?_, fun hpos => ?_⟩, fun words g hgrant hclaim hed hg => ⟨fun hcovered r hr => ?_, fun hshort => ?_⟩⟩
  · have heffect : s.effect (.byteTaken l) = r.state.settle l := by
      show s.byteTaken l = _
      rw [State.byteTaken_of_free hinterprets hrel hkey hzero, State.takeConsidered_of_due hdue, hr]
    exact leaves_of (exec_eq_prompted s _) heffect rfl fun _ => rfl
  · exact leaves_of (exec_eq_prompted s _) (State.byteTaken_of_claimed hinterprets hrel hpos) rfl fun _ => rfl
  · have hg' : g = underClaim s l (.line l) (s.reserved + words) .absent := hg
    have hline : g.line l = { s.line l with claim := .absent } := by rw [hg', underClaim_line]
    have heffect : s.effect (.keyClaimGrant l) =
        State.settle { r.state with reserved := r.state.reserved - (words - r.used) } l := by
      rw [effect_keyClaimGrant hgrant hclaim, ← hg',
        State.useKeyGrant_of_covered (by rw [hline]; exact hed) (by rw [hg', underClaim_considered]; exact hrel) hcovered,
        State.takeConsidered_of_due (by rw [hline]; exact hdue), ← hr]
      rfl
    exact leaves_of (exec_eq_prompted s _) heffect rfl fun _ => rfl
  · have hg' : g = underClaim s l (.line l) (s.reserved + words) .absent := hg
    exact leaves_of_short hgrant hclaim hrel (hg' ▸ hshort)

/-- R77, R78: a due release is used, whatever the claim under which it is applied. -/
theorem uses_of_due {u : State} {i : Inst} {need kept : Nat} {notices : List Word} {y : Line} (hi : (s.line l).inst = some i)
    (hed : Editable (s.line l) = true) (hdue : (s.line l).releaseDue = true)
    (hout : PendingOut (s.lineProfile l) (s.line l).pendingKeys es left bell)
    (hneed : ∀ v : State, v.slots = s.slots → ∀ t, (v.line l).inst = some { i with inactivity := t } → v.runNeed l es = need)
    (hkept : notices.length + kept ≤ need)
    (hu : { u with pointer := s.pointer, reserved := s.reserved, answerQueue := s.answerQueue } = u)
    (hy : y.claim = (s.line l).claim)
    (hrun : ∀ p r c, ∃ n, (State.setLine { s with pointer := p, reserved := r } l
        (relieved { s.line l with claim := c } left bell)).applyRun l es =
      ⟨State.setLine { u with pointer := p, reserved := r - notices.length, answerQueue := s.answerQueue ++ notices } l
        { workNoted (s.line l) y with claim := c }, n, notices.length + kept⟩) :
    Uses s l need kept notices u y := by
  have htaken (p : Claimant) (r : Nat) (c : LineClaim) : (underClaim s l p r c).takeConsidered l ⟨es, left, bell⟩ =
      (State.setLine { s with pointer := p, reserved := r } l (relieved { s.line l with claim := c } left bell)).applyRun l es := by
    rw [State.takeConsidered_of_due (by rw [underClaim_line]; exact hdue), underClaim_line, underClaim, State.setLine_setLine]
  refine uses_of (rel := ⟨es, left, bell⟩) hi hed ⟨left, bell, .inl ⟨hdue, hout⟩⟩ (considered_of_due hdue hout) hneed hkept hu hy
    (fun p r c => ?_) fun p r c => ?_
  · obtain ⟨n, hresult⟩ := hrun p r c
    rw [htaken, hresult]
  · obtain ⟨n, hresult⟩ := hrun p r c
    rw [htaken, hresult]

end

/-! ## A CANCEL or an ATTENTION -/

/-- R96, R97: the run posts this notice and changes nothing else, wherever the instance stands as it does, its inactivity timer
apart. -/
def Notifies (s : State) (l : LineId) (i : Inst) (es : List Elem) (words : List Word) : Prop :=
  ∀ v : State, v.slots = s.slots → ∀ t, (v.line l).inst = some { i with inactivity := t } →
    v.applyRun l es = ⟨v.post words.length words, words.length, words.length⟩

theorem notifies_cancel (s : State) (l : LineId) {i : Inst} (hphase : i.phase = .editing) :
    Notifies s l i [.action .cancel] (cancelNotice l i) := fun _ _ t hv =>
  State.applyRun_cancel (i := { i with inactivity := t }) hv hphase

theorem notifies_attention (s : State) (l : LineId) {i : Inst} (hphase : i.phase = .editing) :
    Notifies s l i [.action .attention] (attentionNotice s l i) := fun v hslots t hv => by
  have hnotice : attentionNotice v l { i with inactivity := t } = attentionNotice s l i := by
    have hform : v.form { i with inactivity := t } = s.form i := State.form_congr hslots rfl
    unfold attentionNotice
    rw [hform]
  rw [← hnotice]
  exact State.applyRun_attention (i := { i with inactivity := t }) hv hphase

/-- R78, R96, R97: the entry at the head posts its notice. -/
theorem Notifies.takes {s : State} {l : LineId} {i : Inst} {e : Entry} {q : List Entry} {a : Action} {words : List Word}
    (h : Notifies s l i (handed a) words) (hat : AtHead s l i e q) (hphase : i.phase = .editing) (hpress : Presses s l e a) :
    Takes s l q words.length 0 words s (s.line l) := by
  refine takes_of hat hphase hpress (fun v hslots t hv => congrArg Run.need (h v hslots t hv)) (Nat.le_refl _) rfl rfl
    fun p r c => ⟨words.length, ?_⟩
  have happly := h (State.setLine { s with pointer := p, reserved := r } l (struck { s.line l with claim := c } q)) rfl i.inactivity
    (by rw [State.setLine_line_self]; exact hat.inst)
  rw [happly, workNoted_of_inst (x := s.line l) (y := struck { s.line l with claim := c } q) rfl]
  rfl

/-- R78, R96, R97: a due release posts its notice. -/
theorem Notifies.uses_due {s : State} {l : LineId} {i : Inst} {es : List Elem} {left : List Byte} {bell : Bool} {words : List Word}
    (h : Notifies s l i es words) (hi : (s.line l).inst = some i) (hed : Editable (s.line l) = true)
    (hdue : (s.line l).releaseDue = true) (hout : PendingOut (s.lineProfile l) (s.line l).pendingKeys es left bell) :
    Uses s l words.length 0 words s (relieved (s.line l) left bell) := by
  refine uses_of_due hi hed hdue hout (fun v hslots t hv => congrArg Run.need (h v hslots t hv)) (Nat.le_refl _) rfl rfl
    fun p r c => ⟨words.length, ?_⟩
  have happly := h (State.setLine { s with pointer := p, reserved := r } l (relieved { s.line l with claim := c } left bell)) rfl
    i.inactivity (by rw [State.setLine_line_self]; exact hi)
  rw [happly, workNoted_of_inst (x := s.line l) (y := relieved (s.line l) left bell) rfl]
  rfl

theorem workNoted_keystroke (x y : Line) (q : List Entry) : workNoted x (keystroke y q) = keystroke (workNoted x y) q := by
  simp only [workNoted, keystroke, Option.map_map]
  rfl

/-- R96, R97, R101: at the grant of a key claim for the byte at the head, the notice is posted and nothing else in the instance
changes. -/
theorem grant_of_notice {s : State} {l : LineId} {i : Inst} {q : List Entry} {words : Nat} {notice : List Word}
    (htakes : Takes s l q notice.length 0 notice s (s.line l)) (hgrant : s.nextGrant = some (.line l, words))
    (hclaim : (s.line l).claim = .key words) (hi : (s.line l).inst = some i) (hpending : (s.line l).pendingKeys = []) :
    (notice.length ≤ words →
      ∃ x, Gives (.keyClaimGrant l) s (State.setLine { s with pointer := .line l, answerQueue := s.answerQueue ++ notice } l x) ∧
        Becomes x
          { lineWith s l { i with inactivity := .stopped } with
            typeAhead := q
            claim := .absent
            gapTimer := .stopped }) ∧
    (words < notice.length →
      ∃ x, Gives (.keyClaimGrant l) s (State.setLine { s with pointer := .line l } l x) ∧
        Becomes x { s.line l with claim := .absent }) := by
  obtain ⟨-, hgranted⟩ := htakes
  obtain ⟨hcovered, hshort⟩ := hgranted words hgrant hclaim
  refine ⟨fun hle => ?_, fun hlt => ?_⟩
  · obtain ⟨x, hgives, hbecomes, -⟩ := hcovered hle
    have hnoted : workNoted (s.line l) (keystroke (s.line l) q) = keystroke (s.line l) q := by
      rw [workNoted_keystroke, workNoted_of_inst rfl]
    have hline : keystroke (s.line l) q =
        { lineWith s l { i with inactivity := .stopped } with typeAhead := q, gapTimer := .stopped } := by
      rw [keystroke, hi, lineWith, ← hpending]
      rfl
    rw [hnoted, hline] at hbecomes
    exact ⟨x, hgives, hbecomes⟩
  · obtain ⟨x, hgives, hbecomes, -⟩ := hshort hlt
    exact ⟨x, hgives, hbecomes⟩

/-! ## A CANCEL and a placed character -/

/-- R86, R87: a character placed in a field without AUTO_ADVANCE. -/
theorem State.applyRun_char {s : State} {l : LineId} {i : Inst} {n : Nat} {c : Byte} {w : List Byte} (hi : (s.line l).inst = some i)
    (hphase : i.phase = .editing) (hcursor : i.cursorField = some n) (hauto : ((s.form i).field n).attrs.autoAdvance = false)
    (hadmits : ((s.form i).field n).type.admits (fold (s.form i) ((s.form i).field n) c) = true)
    (hplaces : Places i.insertMode ((s.form i).field n).length i.cursorPos (s.value l n) (fold (s.form i) ((s.form i).field n) c) w) :
    s.applyRun l [.char c] =
      ⟨State.setLine { s with valueMemory := Memory.writeBytes s.valueMemory (8 * i.extent.base + (s.form i).offset n) w } l
        (workNoted (s.line l) (lineWith s l (typedInst i n w.length i.cursorPos (i.cursorPos + 1)))), 0, 0⟩ := by
  have hedit := State.clerkEdit_of_inst hi n w i.cursorPos (i.cursorPos + 1)
  have hstays : (s.clerkEdit l n w i.cursorPos (i.cursorPos + 1)).autoAdvances l n = false := by
    have hform : (s.clerkEdit l n w i.cursorPos (i.cursorPos + 1)).formOf l = s.form i := by
      rw [hedit, State.formOf_of_inst (i := typedInst i n w.length i.cursorPos (i.cursorPos + 1)) (by rw [State.setLine_line_self]; rfl)]
      exact State.form_congr rfl rfl
    rw [State.autoAdvances, hform, hauto, Bool.false_and, Bool.false_and]
  have hchar : (Run.mk s 0 0).inEditing l (.char c) = ⟨s.clerkEdit l n w i.cursorPos (i.cursorPos + 1), 0, 0⟩ := by
    have hinst := State.instOf_of_inst hi
    show (match (s.instOf l).cursorField with | some n => (Run.mk s 0 0).char l n c | none => (Run.mk s 0 0).bell l) = _
    rw [hinst, hcursor]
    show (Run.mk s 0 0).char l n c = _
    rw [Run.char]
    dsimp only
    rw [State.formOf_of_inst hi, hinst, if_pos hadmits, placed_of_places hplaces]
    dsimp only
    rw [hstays]
    rfl
  rw [State.applyRun_of_editing hi hphase, hchar, hedit]
  exact congrArg (Run.mk · 0 0) (State.fieldWork_noted s _ l _)

/-- R77: a CANCEL and a character in a field without AUTO_ADVANCE need the words of the CANCEL. -/
theorem State.runNeed_cancel_char {s : State} {l : LineId} {i : Inst} {n : Nat} {c : Byte} (hi : (s.line l).inst = some i)
    (hphase : i.phase = .editing) (hcursor : i.cursorField = some n) (hauto : ((s.form i).field n).attrs.autoAdvance = false) :
    s.runNeed l [.action .cancel, .char c] = 3 := by
  have hchar : ((s.post 3 (cancelNotice l i)).applyRun l [.char c]).need = 0 := by
    have hi' : ((s.post 3 (cancelNotice l i)).line l).inst = some i := hi
    have hform : (s.post 3 (cancelNotice l i)).formOf l = s.form i := State.formOf_of_inst hi
    rw [State.applyRun_of_editing hi' hphase]
    show (match ((s.post 3 (cancelNotice l i)).instOf l).cursorField with
      | some n => (Run.mk (s.post 3 (cancelNotice l i)) 0 0).char l n c
      | none => (Run.mk (s.post 3 (cancelNotice l i)) 0 0).bell l).need = 0
    rw [State.instOf_of_inst hi', hcursor]
    exact Run.char_need (i := i) hi' (by rw [hform]; exact hauto)
  show (s.applyRun l ([.action .cancel] ++ [.char c])).need = 3
  rw [State.applyRun_append, State.applyRun_cancel hi hphase]
  exact congrArg (3 + ·) hchar

/-- R86, R87, R97: a due CANCEL and a character that is then placed. -/
theorem uses_cancel_char {s : State} {l : LineId} {i : Inst} {left : List Byte} {bell : Bool} {n : Nat} {c : Byte} {w : List Byte}
    (hi : (s.line l).inst = some i) (hed : Editable (s.line l) = true) (hphase : i.phase = .editing)
    (hdue : (s.line l).releaseDue = true)
    (hout : PendingOut (s.lineProfile l) (s.line l).pendingKeys [.action .cancel, .char c] left bell)
    (hcursor : i.cursorField = some n) (hauto : ((s.form i).field n).attrs.autoAdvance = false)
    (hadmits : ((s.form i).field n).type.admits (fold (s.form i) ((s.form i).field n) c) = true)
    (hplaces : Places i.insertMode ((s.form i).field n).length i.cursorPos (s.value l n) (fold (s.form i) ((s.form i).field n) c) w) :
    Uses s l 3 0 (cancelNotice l i)
      { s with valueMemory := Memory.writeBytes s.valueMemory (8 * i.extent.base + (s.form i).offset n) w }
      (relieved (lineWith s l (typedInst i n w.length i.cursorPos (i.cursorPos + 1))) left bell) := by
  refine uses_of_due hi hed hdue hout (fun v hslots t hv => ?_) (Nat.le_refl 3) rfl rfl fun p r k => ⟨3, ?_⟩
  · exact State.runNeed_cancel_char (i := { i with inactivity := t }) hv hphase hcursor
      (by rw [State.form_congr hslots (rfl : ({ i with inactivity := t } : Inst).slot = i.slot)]; exact hauto)
  · generalize hu : State.setLine { s with pointer := p, reserved := r } l (relieved { s.line l with claim := k } left bell) = u
    have hline : u.line l = relieved { s.line l with claim := k } left bell := by rw [← hu, State.setLine_line_self]
    have hbefore : (u.line l).inst = some i := by
      rw [hline]
      exact hi
    have hinst : ((u.post 3 (cancelNotice l i)).line l).inst = some i := hbefore
    have hform : (u.post 3 (cancelNotice l i)).form i = s.form i := by
      rw [← hu]
      rfl
    have hvalue : (u.post 3 (cancelNotice l i)).value l n = s.value l n := by
      rw [State.value_of_inst hinst, State.value_of_inst hi, hform, ← hu]
      rfl
    show u.applyRun l ([.action .cancel] ++ [.char c]) = _
    rw [State.applyRun_append, State.applyRun_cancel hbefore hphase]
    dsimp only
    rw [State.applyRun_char hinst hphase hcursor (by rw [hform]; exact hauto) (by rw [hform]; exact hadmits)
      (by rw [hform, hvalue]; exact hplaces), hform]
    have hafter (j : Inst) : workNoted ((u.post 3 (cancelNotice l i)).line l) (lineWith (u.post 3 (cancelNotice l i)) l j) =
        { workNoted (s.line l) (relieved (lineWith s l j) left bell) with claim := k } := by
      show workNoted (u.line l) { u.line l with inst := some j } = _
      rw [hline]
      rfl
    rw [hafter]
    refine congrArg (Run.mk · 3 3) (State.setLine_of_lines l (v := { s with
      valueMemory := Memory.writeBytes s.valueMemory (8 * i.extent.base + (s.form i).offset n) w
      pointer := p
      reserved := r - 3
      answerQueue := s.answerQueue ++ cancelNotice l i }) (x := relieved { s.line l with claim := k } left bell) ?_ _)
    rw [← hu]
    rfl

/-! ## Lines that are edited -/

theorem exists_inst_of_editable {x : Line} (h : Editable x = true) :
    ∃ i, x.inst = some i ∧ i.phase = .editing ∧ i.held = false ∧ x.detached = false := by
  unfold Editable at h
  cases hi : x.inst with
  | none => rw [hi] at h; cases h
  | some i =>
    rw [hi] at h
    simp only [Bool.and_eq_true, decide_eq_true_eq, Bool.not_eq_true'] at h
    obtain ⟨⟨hphase, hheld⟩, hattached⟩ := h
    exact ⟨i, rfl, hphase, hheld, hattached⟩

theorem editable_of_interprets {x : Line} {i : Inst} (hi : x.inst = some i) (hphase : i.phase = .editing) (h : Interprets x = true) :
    Editable x = true := by
  unfold Interprets at h
  rw [hi] at h
  simp only [Bool.and_eq_true, Bool.not_eq_true'] at h
  obtain ⟨⟨hattached, hheld⟩, -⟩ := h
  simp [Editable, hi, hphase, hheld, hattached]

/-- Another record for the line makes no difference to what is left beside it. -/
theorem leaves_setLine_iff {row : Instr} {s u : State} {l : LineId} {y z : Line} :
    Leaves row s (u.setLine l z) l y ↔ Leaves row s u l y := by
  simp only [Leaves, State.setLine_setLine]

/-- Settles O51: the end of the key gap, a due release and a key claim by what the Key Interpreter considers, and the words of a run
by its elements. -/
theorem keysReleased : Obligations.KeysReleased := by
  refine ⟨fun s l b n hrunning hpending hentry => ⟨fun hmap => ?_, fun hmap hed => ?_⟩,
    fun s l i b q words hgrant hclaim hi hed hhead hpending hdue halone notice hnotice => ?_,
    fun s l n es left bell hrunning hout => leaves_gapTimerExpiry hrunning hout,
    fun s l i es left bell hi hinterprets hdue hout => ⟨runsWhole_of_due hinterprets hdue hout, fun hphase => ?_⟩,
    fun s l es es' r r' hr hr' => ?_, fun s l hgrant hclaim => ?_⟩
  · have hout := pendingOut_of_mapsTo hentry hmap
    rw [← hpending] at hout
    have hleaves := (leaves_gapTimerExpiry hrunning hout).1 rfl _ rfl
    have hline : relieved (s.line l) [] false =
        { s.line l with pendingKeys := [], releaseDue := false, gapTimer := .stopped } := by
      simp only [relieved, Bool.false_and, Bool.or_false]
    rw [← hline, ← State.setLine_line_self s l (relieved (s.line l) [] false)]
    exact (leaves_setLine_iff (z := relieved (s.line l) [] false)).1 hleaves
  · have hout := pendingOut_of_mapsTo hentry hmap
    rw [← hpending] at hout
    obtain ⟨i, hi, hphase, -, -⟩ := exists_inst_of_editable hed
    refine (leaves_gapTimerExpiry hrunning hout).2 ?_
    show 0 < (s.applyRun l [.action .cancel]).need
    rw [State.applyRun_cancel hi hphase]
    exact Nat.succ_pos 2
  · obtain ⟨j, hj, hphase, hheld, hattached⟩ := exists_inst_of_editable hed
    obtain rfl := Option.some.inj (hi.symm.trans hj)
    have hat : AtHead s l i (.byte b) q := ⟨hi, hattached, hheld, hhead, hdue⟩
    rcases hnotice with ⟨hmap, rfl⟩ | ⟨hmap, rfl⟩
    · exact grant_of_notice ((notifies_cancel s l hphase).takes (a := .cancel) hat hphase (.inl ⟨b, rfl, hpending, halone, hmap⟩))
        hgrant hclaim hi hpending
    · exact grant_of_notice ((notifies_attention s l hphase).takes (a := .attention) hat hphase (.inl ⟨b, rfl, hpending, halone, hmap⟩))
        hgrant hclaim hi hpending
  · have hed := editable_of_interprets hi hphase hinterprets
    refine ⟨fun hes => ?_, fun hes => ?_, fun c n v hes hcursor hn hlength hauto hadmits hplaces => ?_⟩
    · subst hes
      exact (notifies_cancel s l hphase).uses_due hi hed hdue hout
    · subst hes
      exact (notifies_attention s l hphase).uses_due hi hed hdue hout
    · subst hes
      exact ⟨_, wrote_writeBytes _ _ _, uses_cancel_char hi hed hphase hdue hout hcursor hauto hadmits hplaces⟩
  · subst hr
    subst hr'
    exact State.applyRun_append s l es es'
  · have heffect : s.effect (.lineEvent l) = State.settle (State.modLine
        ((s.grant (.line l) 4).post 4 (lineEventRecord l (s.line l))) l Line.afterEvent) l := by
      show effectLineEvent l s = _
      rw [effectLineEvent, hgrant, hclaim]
      exact if_pos rfl
    generalize hv : State.modLine ((s.grant (.line l) 4).post 4 (lineEventRecord l (s.line l))) l Line.afterEvent = v at heffect
    have habsent : (v.line l).claim = .absent := by
      rw [← hv, State.modLine_line_self, Line.afterEvent]
      dsimp only
      split_ifs <;> rfl
    obtain ⟨x, hsettle, -, hmade⟩ := v.settle_becomes l
    refine ⟨v.setLine l x, gives_effect (heffect.trans hsettle), ?_⟩
    rw [State.setLine_line_self, State.setLine_setLine, ← habsent]
    exact hmade

end Sys2Proof.Machine
end
